-- ==== Sys2Proof/Word.lean ====
section
/-! DEFINITION. The word types of the module: registers are 64 bits wide (R7), brick registers 32 bits (R75), memory
is little-endian bytes (R5), lines are 128 bytes of four 32-byte sectors, flits 256 bytes. -/

namespace Sys2Proof

/-- A register of a control space, or a 64-bit operand (R7). -/
abbrev Word := BitVec 64
/-- A g or u register of a brick (R75, R78). -/
abbrev R32 := BitVec 32
/-- One byte of memory. -/
abbrev Byte := BitVec 8
/-- One 32-byte sector. -/
abbrev Sector := BitVec 256
/-- One 128-byte line. -/
abbrev Line := BitVec 1024
/-- One 256-byte flit or hinge transfer. -/
abbrev Flit := BitVec 2048
/-- A mask of the 32 lanes of a group. -/
abbrev LaneMask := BitVec 32

end Sys2Proof
end

