-- ==== Sys2Proof/Config.lean ====
section
/-! DEFINITION. The free values of the model: opaque constants without a body, one for each value the spec leaves open.
Nothing can evaluate them, so a claim that holds is a claim about every value. -/

namespace Sys2Proof.Config

/-- The value of a special function (R111 code, argument) where R111 gives only an error bound. -/
opaque trans : Nat → BitVec 32 → BitVec 32

/-- The byte of a block's scratchpad that nothing has written, by brick, epoch of the block and offset (R53). -/
opaque scratchFree : Nat → Nat → Nat → BitVec 8

/-- The implementation-specific replacement order of the LLC (R282): which of the allowed victims is taken, by a
counter of choices. -/
opaque victim : Nat → Nat

/-- The bytes beside a remote length word in the 16-byte write that carries it (R234, R446), by TAG. -/
opaque remotePad : Nat → BitVec 128

/-- How a thermal field shows a value n / d that its units or its 12 bits cannot: the low bit rounds, the whole is a value out of
range (R574 to R579). -/
opaque thermField : Int → Nat → BitVec 12

/-- The licence public key, an RSA-3072 modulus, that a firmware image carries (R627): the layout of the body is not given. -/
opaque licKeyOf : Nat → Nat

/-- The bytes of a controller's answer to an MCTP message, which DSP0236, DSP0240, DSP0248, DSP0267 and DSP0274 define (R646 to
R655), by message type and request. -/
opaque mctpReply : Nat → Nat → Nat

/-- A measurement of R656 whose input the manual names without giving its encoding, by index and the values measured. -/
opaque measured : Nat → List Nat → BitVec 256

/-- The words after the header of a pad record of the trace writer, by chunks filled and bytes (R686). -/
opaque tracePad : Nat → Nat → Nat

/-- What a peek of a g register that the group's allocation does not hold reads (R691), by register number. -/
opaque peekFree : Nat → BitVec 32

/-- FAULT_ADDR of a fault for which the manual names no faulting address (R512), by brick and group. -/
opaque faultAddr : Nat → Nat → BitVec 64

end Sys2Proof.Config
end

