-- ==== Sys2Proof/Machine/SMap.lean ====
section
/-! DEFINITION. Sparse maps from Nat keys to plain data, kept sorted, with lookup and update that obey the two basic
laws on every list (Laws/SMap.lean). They hold the sparse state of the module: bricks, registers, cache lines. -/

namespace Sys2Proof.Machine

/-- A sparse map: key and value pairs, keys rising. -/
abbrev SMap (α : Type) := List (Nat × α)

/-- The value listed for a key. -/
def sfind {α : Type} : SMap α → Nat → Option α
  | [], _ => none
  | (a, v) :: r, k => if a = k then some v else sfind r k

/-- The value of a key, or the default of an unlisted key. -/
def sget {α : Type} (d : α) (m : SMap α) (k : Nat) : α := (sfind m k).getD d

/-- Sets a key, keeping the list sorted. -/
def sset {α : Type} : SMap α → Nat → α → SMap α
  | [], k, v => [(k, v)]
  | (a, w) :: r, k, v =>
    if a = k then (k, v) :: r else if k < a then (k, v) :: (a, w) :: r else (a, w) :: sset r k v

/-- Removes a key. -/
def sdel {α : Type} : SMap α → Nat → SMap α
  | [], _ => []
  | (a, w) :: r, k => if a = k then sdel r k else (a, w) :: sdel r k

/-- Applies a function to the value of a key. -/
def smod {α : Type} (d : α) (m : SMap α) (k : Nat) (f : α → α) : SMap α := sset m k (f (sget d m k))

/-- Applies a function to every listed value. -/
def smapv {α : Type} (m : SMap α) (f : Nat → α → α) : SMap α := m.map fun p => (p.1, f p.1 p.2)

/-- The listed keys. -/
def skeys {α : Type} (m : SMap α) : List Nat := m.map Prod.fst

/-- The n-th element of a list with an update function applied. -/
def lmod {α : Type} : List α → Nat → (α → α) → List α
  | [], _, _ => []
  | a :: r, 0, f => f a :: r
  | a :: r, n + 1, f => a :: lmod r n f

/-- A list without its n-th element. -/
def ldel {α : Type} : List α → Nat → List α
  | [], _ => []
  | _ :: r, 0 => r
  | a :: r, n + 1 => a :: ldel r n

/-- Sets the n-th element, padding with the default when the list is shorter. -/
def lset {α : Type} (d : α) : List α → Nat → α → List α
  | [], 0, v => [v]
  | [], n + 1, v => d :: lset d [] n v
  | _ :: r, 0, v => v :: r
  | a :: r, n + 1, v => a :: lset d r n v

end Sys2Proof.Machine
end

