-- ==== Sys2Proof/Machine/Bits.lean ====
section
/-! DEFINITION. Bit-field, sign-extension and byte-order helpers, over Nat and BitVec. -/

namespace Sys2Proof.Machine

/-- Bits [hi:lo] of a number. -/
def bits (x hi lo : Nat) : Nat := (x >>> lo) % 2 ^ (hi + 1 - lo)

/-- Bit i of a number. -/
def bit (x i : Nat) : Bool := x.testBit i

/-- The number with bits [hi:lo] replaced by v. -/
def putBits (x hi lo v : Nat) : Nat :=
  x - (bits x hi lo) * 2 ^ lo + (v % 2 ^ (hi + 1 - lo)) * 2 ^ lo

/-- The signed value of the low n bits. -/
def sext (n x : Nat) : Int :=
  let y := x % 2 ^ n
  if y.testBit (n - 1) then (y : Int) - (2 ^ n : Nat) else y

/-- An integer modulo 2^n. -/
def wrapN (n : Nat) (i : Int) : Nat := (i % (2 ^ n : Nat)).toNat

/-- Little-endian number of a list of bytes (R5). -/
def leNat : List Nat → Nat
  | [] => 0
  | b :: r => b % 256 + 256 * leNat r

/-- The n low bytes of a number, lowest first (R5). -/
def leBytes : Nat → Nat → List Nat
  | 0, _ => []
  | n + 1, x => x % 256 :: leBytes n (x / 256)

/-- Saturating increment of an n-bit counter. -/
def satAdd (n x k : Nat) : Nat := min (2 ^ n - 1) (x + k)

/-- Number of one bits among the low n bits. -/
def popN : Nat → Nat → Nat
  | 0, _ => 0
  | n + 1, x => x % 2 + popN n (x / 2)

/-- The lowest set bit among bits from i on, within fuel. -/
def lowFrom : Nat → Nat → Nat → Option Nat
  | 0, _, _ => none
  | f + 1, i, x => if x.testBit i then some i else lowFrom f (i + 1) x

/-- The lowest lane of a mask. -/
def lowLane (m : LaneMask) : Option Nat := lowFrom 32 0 m.toNat

/-- The lanes of a mask, ascending. -/
def lanesOf (m : LaneMask) : List Nat := (List.range 32).filter fun i => m.toNat.testBit i

/-- The mask of the lanes that satisfy a test. -/
def maskOf (f : Nat → Bool) : LaneMask :=
  BitVec.ofNat 32 ((List.range 32).foldl (fun a i => if f i then a + 2 ^ i else a) 0)

/-- Ceiling division. -/
def cdiv (a b : Nat) : Nat := (a + b - 1) / b

/-- The bytes in which the new value replaces the old, by a byte mask. -/
def mergeBytes (n : Nat) (old new mask : Nat) : Nat :=
  leNat ((List.range n).map fun i =>
    if mask.testBit i then bits new (8 * i + 7) (8 * i) else bits old (8 * i + 7) (8 * i))

/-- A sector of a line. -/
def lineSector (l : Line) (k : Nat) : Sector := BitVec.ofNat 256 (l.toNat >>> (256 * k))

/-- A line from its four sectors. -/
def lineOf (f : Nat → Sector) : Line :=
  BitVec.ofNat 1024 ((f 0).toNat + (f 1).toNat <<< 256 + (f 2).toNat <<< 512 + (f 3).toNat <<< 768)

/-- A line with one sector replaced. -/
def lineSetSector (l : Line) (k : Nat) (d : Sector) : Line :=
  lineOf fun i => if i = k then d else lineSector l i

end Sys2Proof.Machine
end

