-- ==== Sys2Proof/Machine/BrickState.lean ====
section
/-! DEFINITION. The state of one brick as plain data: groups and threads (R39 to R60), the operation table (R122),
memory operations in flight, L1 and read-only caches (R246 to R258), the vertical port (R259 to R265), the matrix array
(R152 to R189), the tile sequencer (R192 to R222), the event FIFO and counters (R669 to R685). -/

namespace Sys2Proof.Machine

/-- What a thread does when the phase it waits for completes (R150): nothing more, or record its arrival in the next
phase, or record it and wait for that phase too. -/
inductive BarThen where
  | go | arrive | sync
  deriving DecidableEq, Repr

/-- A thread's wait at a barrier. Keys 0 to 15 are block barriers, 16 to 31 cluster barriers (R149). -/
structure BarWait where
  key : Nat
  phase : Nat
  andThen : BarThen
  deriving DecidableEq, Repr

/-- One thread of a group: its program counter (R64), whether it has exited (R40), its barrier wait, the phase in
which it last arrived at each barrier (R150), its g registers (unlisted read zero, R41) and predicates (R77). -/
structure Thread where
  pc : R32
  exited : Bool
  bar : Option BarWait
  arr : SMap Nat
  g : SMap R32
  p : Byte
  deriving DecidableEq, Repr

/-- A latency class of R44, without B, whose gap is a field of the group. -/
inductive LatClass where
  | i | f | s | u | m
  deriving DecidableEq, Repr

/-- Registers of a group with a pending write (R43): the class, the memory operation or queue entry that will write
them (class M), the g and u registers and predicates, and the FPSTAT flags that come with the result (R99). -/
structure Pend where
  cls : LatClass
  op : Nat
  g : List Nat
  u : List Nat
  p : List Nat
  flags : Nat
  deriving DecidableEq, Repr

/-- A recorded fault of a group (R81, R82): code, lowest lane, offset of the instruction, and the trap code. -/
structure GFault where
  code : Nat
  lane : Nat
  pc : R32
  info : Nat
  deriving DecidableEq, Repr

/-- The binding of `mx.batch` (R183): header address and TIMEOUT, whether the bound stream has issued, and the batch
that holds it. -/
structure Bound where
  addr : Nat
  timeout : Nat
  streamed : Bool
  req : Nat
  deriving DecidableEq, Repr

/-- The identity of a group: its block's placement number, block index and group number in the block (R39). -/
def gidOf (epoch blockIdx index : Nat) : Nat := (epoch * 2 ^ 32 + blockIdx) * 64 + index
def gidBlock (gid : Nat) : Nat := gid / 64 % 2 ^ 32
def gidGroup (gid : Nat) : Nat := gid % 64

/-- A resident group (R39 to R50): identity, block slot, group number, threads, the current subset and reference lane,
u registers, pending writes, branch gap and sleep, FPSTAT, the latched high halves of R79, its fault, debugger hold, the
acquiring access it waits for (R141), the marker stack (R682) and the batch binding. -/
structure Group where
  gid : Nat
  block : Nat
  index : Nat
  alloc : Nat
  threads : List Thread
  cur : LaneMask
  refLane : Nat
  u : SMap R32
  pend : List Pend
  gap : Bool
  sleep : Option Nat
  fpstat : Nat
  timeHi : R32
  cycHi : R32
  fault : Option GFault
  held : Bool
  acq : Option Nat
  marks : List Nat
  bound : Option Bound
  deriving DecidableEq, Repr

/-- A buffer window of a launch (R498 to R500): base, size, write permission, constant mark. -/
structure Win where
  base : Nat
  size : Nat
  write : Bool
  const : Bool
  deriving DecidableEq, Repr

/-- What a brick holds of the launch that runs on it (R63, R145, R246): the command processor's number of the launch,
its identifier, code window, register allocation, block shape, scratchpad choice, flags, block count and windows. -/
structure RunCtx where
  launch : Nat
  ident : R32
  codeBase : Nat
  codeSize : Nat
  entry : Nat
  alloc : Nat
  threads : Nat
  spBytes : Nat
  spUnits : Nat
  cluster : Nat
  debug : Bool
  strictDead : Bool
  seed : R32
  nblock : Nat
  wins : List Win
  lbrick : Nat
  deriving DecidableEq, Repr

/-- A block on the brick (R39, R53, R54, R56): thread and group counts, index, cluster identity, scratchpad size and
bytes written, barrier phases, whether its groups have all retired while its scratchpad is still held, and whether no block has left
anything in the local array since its fill: a byte it has not written then reads zero (R378, R380), else it is `Config.scratchFree`. -/
structure Block where
  launch : Nat
  index : Nat
  threads : Nat
  groups : Nat
  rank : Nat
  clusterId : Nat
  spBytes : Nat
  epoch : Nat
  sp : SMap Byte
  phase : SMap Nat
  retired : Bool
  fresh : Bool
  deriving DecidableEq, Repr

/-- A block or cluster member delivered and not yet placed (R55, R58). -/
structure Delivered where
  launch : Nat
  index : Nat
  rank : Nat
  clusterId : Nat
  deriving DecidableEq, Repr

/-- An entry of the operation table (R122): handle, issuing block and group, the lane and offset of the issue, issue order,
the completion word, and whether the work names its block's scratchpad (R56). -/
structure OpEntry where
  handle : R32
  block : Nat
  gid : Nat
  lane : Nat
  pc : R32
  order : Nat
  status : Option R32
  names : Bool
  deriving DecidableEq, Repr

/-- Per-scheduler state: the slot issued last (R43), and whether the special-function lanes are occupied (R44). -/
structure Sched where
  last : Nat
  sfu : Bool
  deriving DecidableEq, Repr

/-- Kinds of memory operation. -/
inductive MemKind where
  | load | store | atom | red | prefetch
  deriving DecidableEq, Repr

/-- Where a lane's access is served: through the L1, by the constant cache, or away from the L1 (scratchpad, cluster
scratchpad, home slice, host-port agent). -/
inductive LaneVia where
  | l1 | const | away
  deriving DecidableEq, Repr

/-- One lane's access of a memory operation: address, and store data or atomic operand with the new value of a
compare-and-swap. -/
structure LaneAcc where
  lane : Nat
  addr : Nat
  data : Nat
  cas : Nat
  via : LaneVia
  deriving DecidableEq, Repr

/-- How a returned sector or access failed (R133): the other tower not serving, host poison, a retired line, the dead
marker, an uncorrectable error (which resets a domain and is never a fault), or a cluster range error. -/
inductive RetErr where
  | unavailable | poison | retired | dead | uncorrectable | cspRange
  deriving DecidableEq, Repr

/-- A returned sector with its check word as stored (R261), whether the LLC supplied it, and whether from a visitor copy (R377). -/
structure Ret where
  sector : Nat
  data : Sector
  chk : R32
  llc : Bool
  vis : Bool
  err : Option RetErr
  deriving DecidableEq, Repr

/-- A memory operation of a group, from issue to response (R126 to R148). `got` holds the sectors that have arrived,
`olds` the values that lanes receive from elsewhere (scratchpad, constant cache, an atomic), `need` the sectors still to
arrive by read number; `launch` and `strict` are the launch and its strict-dead flag; `inst` says whether a constant line that arrives is installed, `acc` the
operation's place in the brick's order once the L1 has accepted it (R254, R262). -/
structure MemOp where
  id : Nat
  launch : Nat
  strict : Bool
  gid : Nat
  block : Nat
  sched : Nat
  kind : MemKind
  pc : R32
  bytes : Nat
  sx : Bool
  hint : Nat
  acquire : Bool
  scope : Nat
  aop : Nat
  unsig : Bool
  dst : Nat
  lanes : List LaneAcc
  need : List (Nat × Nat)
  got : List Ret
  olds : SMap Nat
  inst : Bool
  acc : Nat
  err : Option (Nat × RetErr)
  deriving DecidableEq, Repr

/-- States of an L1 sector (R250). -/
inductive SecState where
  | i | v | p | ps
  deriving DecidableEq, Repr

structure L1Sector where
  st : SecState
  data : Sector
  deriving DecidableEq, Repr

/-- A line of the L1 (R247, R249): its four sectors and whether it was last allocated or hit under the keep hint. -/
structure L1Line where
  s0 : L1Sector
  s1 : L1Sector
  s2 : L1Sector
  s3 : L1Sector
  keep : Bool
  deriving DecidableEq, Repr

/-- States of a miss register (R253). FREE registers are not listed. -/
inductive MRegState where
  | opened | drain | orphan
  deriving DecidableEq, Repr

/-- A read that a miss register has sent: its number, sector, and what has arrived for it; `stale` marks a read whose
sector a store of this brick has written since (R252). -/
structure RdReq where
  rid : Nat
  sector : Nat
  ret : Option Ret
  stale : Bool
  install : Bool
  deriving DecidableEq, Repr

/-- A miss register (R251): its line, state, reads and the operations that wait on it. -/
structure MReg where
  line : Nat
  st : MRegState
  reads : List RdReq
  waiters : List Nat
  deriving DecidableEq, Repr

/-- A read request on its way to a home or to the own slice: read number, line, sectors, its hint (R134, R260), and whether an engine
of the brick sends it (R264, R292). -/
structure RdMsg where
  rid : Nat
  line : Nat
  sectors : List Nat
  hint : Nat
  eng : Bool
  deriving DecidableEq, Repr

/-- A line that an engine of the brick reads (R259, R264): for whom, its read, line and sectors, and what has arrived. -/
structure EngBuf where
  who : Nat
  rid : Nat
  line : Nat
  sectors : List Nat
  rets : List Ret
  deriving DecidableEq, Repr

/-- A written line on its way, with its byte mask, the store it belongs to, and its place in the brick's order (R260 to R263). -/
structure WrMsg where
  wid : Nat
  ord : Nat
  line : Nat
  data : Line
  mask : BitVec 128
  hint : Nat
  deriving DecidableEq, Repr

/-- Levels of acknowledgement of R140. -/
inductive AckLvl where
  | none | tower | device | system
  deriving DecidableEq, Repr

/-- A store line or atomic of a group that is not yet system-acknowledged (R140), with its lowest lane, offset and
address. Cluster-scratchpad stores are done when the target brick acknowledges them; `own` marks writes of the vertical port; `op` is
the operation that sent it, `eng` the engine of the brick whose drain it is. -/
structure Outst where
  wid : Nat
  op : Nat
  eng : Option Nat
  gid : Nat
  launch : Nat
  ack : AckLvl
  csp : Bool
  own : Bool
  lane : Nat
  pc : R32
  addr : Nat
  deriving DecidableEq, Repr

/-- A returning line: the read it answers, whether it is in the up queue of the port or on the mortar, and its sectors. -/
structure UpMsg where
  rid : Nat
  port : Bool
  rets : List Ret
  deriving DecidableEq, Repr

/-- A cluster access on the mortar (R266 to R269): its number, the operation that waits for it (none for a store), and
the cluster and rank it goes to, with the slice of that rank's brick. -/
structure CspMsg where
  id : Nat
  dest : Option Nat
  op : Option Nat
  gid : Nat
  launch : Nat
  clusterId : Nat
  rank : Nat
  kind : MemKind
  bytes : Nat
  aop : Nat
  unsig : Bool
  lanes : List LaneAcc
  deriving DecidableEq, Repr

/-- An atomic on one address on its way to a home slice or to the host-port agent (R146, R148). -/
structure AtomMsg where
  id : Nat
  op : Option Nat
  addr : Nat
  bytes : Nat
  aop : Nat
  unsig : Bool
  hint : Nat
  system : Bool
  lanes : List LaneAcc
  deriving DecidableEq, Repr

/-- The 64 × 64 weight registers of one side, front or back (R154, R174): validity, format code, sparse form, stored
elements and indices by cell row × 64 + column, and block scale bytes by 2 × column + block. -/
structure WTile where
  valid : Bool
  fmt : Nat
  sparse : Nat
  w : SMap Nat
  idx : SMap Nat
  sc : SMap Nat
  deriving DecidableEq, Repr

/-- One accumulator half (R153): its type, extent, and entries by row × 64 + column (unlisted are zero). -/
structure Half where
  int : Bool
  extent : Nat
  acc : SMap R32
  deriving DecidableEq, Repr

/-- What a queue entry of the matrix array does (R173). -/
inductive MxKind where
  | wload (addr fmt sparse : Nat)
  | swap
  | stream (addr fmt rows mask half : Nat) (zero : Bool)
  | drain (addr fmt rm half : Nat)
  | mma (dst : Nat) (lanes : LaneMask) (d : List (List R32))
  | tile (handle : Nat) (addr : Nat)
  | batch (id : Nat)
  deriving DecidableEq, Repr

/-- Progress of a queue entry: waiting, or executed and not yet complete. -/
inductive MxSt where
  | queued | running
  deriving DecidableEq, Repr

structure MxEntry where
  id : Nat
  gid : Nat
  block : Nat
  lane : Nat
  pc : R32
  st : MxSt
  kind : MxKind
  deriving DecidableEq, Repr

/-- A batched request (R183): the stream's image, rows and mask, and the drain (address, format,
rounding, offset) once it has issued. -/
structure BatchReq where
  id : Nat
  gid : Nat
  block : Nat
  lane : Nat
  pc : R32
  addr : Nat
  rows : Nat
  mask : Nat
  timeout : Nat
  drain : Option (Nat × Nat × Nat × R32)
  deriving DecidableEq, Repr

/-- A batch (R184): header address, activation format, requests in join order, whether it has fired whether it has
entered the array queue, which frees its slot, and whether its rows have been streamed and its drains sent. -/
structure Batch where
  id : Nat
  addr : Nat
  fmt : Nat
  reqs : List BatchReq
  fired : Bool
  queued : Bool
  sent : Bool
  deriving DecidableEq, Repr

/-- The matrix array (R152 to R189). `batchTile` is the header address of the tile that the front registers hold from
the last fired batch while no `mx.wload` has entered since (R186). -/
structure Mx where
  front : WTile
  back : WTile
  h0 : Half
  h1 : Half
  queue : List MxEntry
  batches : List Batch
  batchTile : Option Nat
  deriving DecidableEq, Repr

/-- A running output tile of a unit (R204, R208 to R214): M-tile, accumulator half, active rows, K-steps it skips, and
whether its first K-step has been streamed. -/
structure TpTile where
  i : Nat
  half : Nat
  rows : List Nat
  skip : List Nat
  started : Bool
  deriving DecidableEq, Repr

/-- A unit of the nest: one output tile, or a pair (R208). Number in the order of R204, N-tile, outer indices, the tiles
that run, the next K-step, and the failure of an access made for it. -/
structure TpUnit where
  num : Nat
  j : Nat
  o0 : Nat
  o1 : Nat
  o2 : Nat
  tiles : List TpTile
  kstep : Nat
  err : Option Nat
  deriving DecidableEq, Repr

/-- An output tile whose K-steps have accumulated and whose drain has not been made: `zero` when no K-step ran. -/
structure TpDrain where
  num : Nat
  i : Nat
  j : Nat
  o0 : Nat
  o1 : Nat
  o2 : Nat
  half : Nat
  rows : List Nat
  zero : Bool
  deriving DecidableEq, Repr

/-- A staged weight tile (R215): unit, K-step and contents. -/
structure TpStage where
  num : Nat
  kstep : Nat
  tile : WTile
  deriving DecidableEq, Repr

/-- The running tile program (R192 to R219): handle, issuing block and group, descriptor address, the width sampled at its
start, a descriptor that scratchpad or the descriptor cache held then, the descriptor once it has arrived, the next unit to read, the current and the following unit, staged weight tiles, the next
accumulator half, drains to make, and its result. `ended` is set when no further tile will run. -/
structure TpRun where
  handle : R32
  block : Nat
  gid : Nat
  addr : Nat
  width : Nat
  raw : Option (BitVec 2048)
  desc : Option (BitVec 2048)
  unit : Nat
  cur : Option TpUnit
  next : Option TpUnit
  staged : List TpStage
  parity : Nat
  drains : List TpDrain
  result : Nat
  clamp : Bool
  drained : Nat
  ended : Bool
  cplOk : Bool
  deriving DecidableEq, Repr

/-- Tile-sequencer totals and the last program (R221, R222). -/
structure Tp where
  run : Option TpRun
  lastHandle : R32
  lastResult : Nat
  lastClamp : Bool
  ksRun : Nat
  ksSkip : Nat
  tlDrain : Nat
  tlSkip : Nat
  deriving DecidableEq, Repr

/-- A held entry of an event FIFO (R676 to R680): its word, whether it is a header, still pending, or a drop marker,
and the packet it belongs to. -/
structure EvEntry where
  word : Word
  header : Bool
  pending : Bool
  drop : Bool
  packet : Nat
  deriving DecidableEq, Repr

/-- The open packet of a brick (R679): its group, packet number, entries held, dropping and discarding. -/
structure EvOpen where
  gid : Nat
  packet : Nat
  held : Nat
  dropping : Bool
  discarding : Bool
  hasHeader : Bool
  deriving DecidableEq, Repr

/-- The event FIFO of a brick. -/
structure EvFifo where
  q : List EvEntry
  opened : Option EvOpen
  nextPacket : Nat
  skipped : Nat
  dropped : Nat
  deriving DecidableEq, Repr

/-- One counter record (R671, R672). IDLE is the engine's counted clock cycles that were neither busy nor stalled, which R669
makes the same number. `adv` marks that the engine has advanced work in the present cycle. -/
structure Rec where
  busy : Nat
  stall : Nat
  selA : Nat
  selB : Nat
  last : Nat
  rcntA : Nat
  rcntB : Nat
  x0 : Nat
  rets : Nat
  brs : Nat
  adv : Bool
  deriving DecidableEq, Repr

/-- Reset activity of a brick (R593). -/
inductive BrickPhase where
  | up | resetting
  deriving DecidableEq, Repr

/-- A brick. `l1last` is the scheduler whose instruction the L1 last accepted (R248); `sendRd` and `sendWr` hold requests that wait for
room in the vertical port's queues (R260, R263); `ebuf` the lines of its engines' reads, `engErr` the failed writes of their drains, by
engine with a fault code. `used` says that a block or a launch has left bytes in the
local array since its fill. `recBase` is the tower's count of cycles from which its counter records count. -/
structure Brick where
  phase : BrickPhase
  run : Option RunCtx
  sr : R32
  cyc : Nat
  issues : Nat
  ops : SMap OpEntry
  opOrder : Nat
  pointer : Nat
  delivered : List Delivered
  headWait : Bool
  blocks : SMap Block
  epochs : Nat
  used : Bool
  groups : SMap Group
  scheds : SMap Sched
  icache : SMap Line
  ccache : SMap Line
  dcache : SMap (BitVec 2048)
  romru : SMap Nat
  l1 : SMap L1Line
  l1mru : SMap Nat
  mregs : List MReg
  l1in : SMap MemOp
  l1last : Nat
  inflight : SMap MemOp
  nextId : Nat
  sendRd : List RdMsg
  sendWr : List WrMsg
  downQ : List RdMsg
  writeQ : List WrMsg
  mortarRd : List RdMsg
  portOut : List Nat
  mortarWr : List WrMsg
  atomQ : List AtomMsg
  cspQ : List CspMsg
  upQ : List UpMsg
  ackQ : List Nat
  ackIn : List (Nat × AckLvl)
  outst : List Outst
  ebuf : List EngBuf
  engErr : List (Nat × Nat)
  hits : Nat
  misses : Nat
  ceSect : Nat
  mx : Mx
  tp : Tp
  ev : EvFifo
  recs : SMap Rec
  recBase : Nat
  privErrs : List Nat
  deriving DecidableEq, Repr

/-- A block slot that holds no block. -/
def Block.init : Block := ⟨0, 0, 0, 0, 0, 0, 0, 0, [], [], false, false⟩
def Thread.init : Thread := ⟨0, false, none, [], [], 0⟩
def WTile.empty : WTile := ⟨false, 0, 0, [], [], []⟩
def Half.empty : Half := ⟨false, 0, []⟩
def Mx.init : Mx := ⟨WTile.empty, WTile.empty, Half.empty, Half.empty, [], [], none⟩
def Tp.init : Tp := ⟨none, 0, 0, false, 0, 0, 0, 0⟩
def EvFifo.init : EvFifo := ⟨[], none, 0, 0, 0⟩
def Rec.init : Rec := ⟨0, 0, 0, 0, 0, 0, 0, 0, 0, 0, false⟩
def Sched.init : Sched := ⟨15, false⟩
def L1Sector.init : L1Sector := ⟨.i, 0⟩
def L1Line.init : L1Line := ⟨.init, .init, .init, .init, false⟩

/-- A brick after a brick reset or a wider one (R593): no launch, no groups, empty stores, counters zero. -/
def Brick.init : Brick where
  phase := .up
  run := none
  sr := 0x9E3779B9
  cyc := 0
  issues := 0
  ops := []
  opOrder := 0
  pointer := 0
  delivered := []
  headWait := false
  blocks := []
  epochs := 0
  used := false
  groups := []
  scheds := []
  icache := []
  ccache := []
  dcache := []
  romru := []
  l1 := []
  l1mru := []
  mregs := []
  l1in := []
  l1last := 3
  inflight := []
  nextId := 0
  sendRd := []
  sendWr := []
  downQ := []
  writeQ := []
  mortarRd := []
  portOut := []
  mortarWr := []
  atomQ := []
  cspQ := []
  upQ := []
  ackQ := []
  ackIn := []
  outst := []
  ebuf := []
  engErr := []
  hits := 0
  misses := 0
  ceSect := 0
  mx := .init
  tp := .init
  ev := .init
  recs := []
  recBase := 0
  privErrs := []

end Sys2Proof.Machine
end

