-- ==== Sys2Proof/Machine/EvFifo.lean ====
section
/-! DEFINITION. The event FIFO of a brick (R676 to R685): items, drop markers, the open packet and its end. -/

namespace Sys2Proof.Machine

/-- A packet header (R677). -/
def evHeader (typ : Nat) (trunc : Bool) (source gslot count len : Nat) : Word :=
  BitVec.ofNat 64 (typ % 256 * 2 ^ 56 + (if trunc then 2 ^ 55 else 0) + source % 2 ^ 11 * 2 ^ 44 +
    gslot % 64 * 2 ^ 38 + count % 2 ^ 16 * 2 ^ 16 + len % 2 ^ 16)

/-- Counts one dropped item in the newest drop marker, or appends one (R680). -/
def evDrop (source : Nat) (f : EvFifo) : EvFifo :=
  let f := { f with dropped := satAdd 32 f.dropped 1 }
  match f.q.getLast? with
  | some e =>
    if e.drop then
      let c := satAdd 16 (bits e.word.toNat 31 16) 1
      { f with q := f.q.dropLast ++ [{ e with word := evHeader 0xFF false source 0 c 0 }] }
    else { f with q := f.q ++ [⟨evHeader 0xFF false source 0 1 0, true, false, true, 0⟩] }
  | none => { f with q := [⟨evHeader 0xFF false source 0 1 0, true, false, true, 0⟩] }

/-- One item of the open packet arrives (R680, R685): discarded, dropped, or held. -/
def evItem (source : Nat) (word : Word) (header : Bool) (f : EvFifo) : EvFifo :=
  match f.opened with
  | none => f
  | some o =>
    if o.discarding then { f with skipped := satAdd 24 f.skipped 1 }
    else if o.dropping || decide (31 ≤ f.q.length) then
      let f := evDrop source f
      { f with opened := some { o with dropping := true } }
    else
      { f with
        q := f.q ++ [⟨word, header, header, false, o.packet⟩]
        opened := some { o with held := if header then o.held else o.held + 1, hasHeader := o.hasHeader || header } }

/-- Opens a packet for a group and appends its pending header (R678). -/
def evOpen (source gid typ gslot : Nat) (f : EvFifo) : EvFifo :=
  let f := { f with opened := some ⟨gid, f.nextPacket, 0, false, false, false⟩, nextPacket := f.nextPacket + 1 }
  evItem source (evHeader typ false source gslot 0 0) true f

/-- Ends the open packet: LEN and TRUNC go into the header, which is complete (R678, R680, R681). -/
def evClose (trunc : Bool) (f : EvFifo) : EvFifo :=
  match f.opened with
  | none => f
  | some o =>
    { f with
      opened := none
      q := f.q.map fun e =>
        if e.header && e.pending && decide (e.packet = o.packet) then
          { e with
            pending := false
            word := BitVec.ofNat 64 (putBits (putBits e.word.toNat 15 0 o.held) 55 55
              (if trunc || o.dropping then 1 else 0)) }
        else e }

/-- A whole packet written by the hardware: header and entries as items of one packet (R682). -/
def evPacket (source gid typ gslot : Nat) (ws : List Word) (f : EvFifo) : EvFifo :=
  evClose false (ws.foldl (fun f w => evItem source w false f) (evOpen source gid typ gslot f))

/-- Whether stage 0 holds an entry that a consumer may take (R684): a drop marker, or an entry of a complete packet. -/
def evAvail (f : EvFifo) : Bool :=
  match f.q with
  | [] => false
  | e :: _ => e.drop || (!e.pending && !(match f.opened with
      | some o => decide (o.packet = e.packet) && !e.drop
      | none => false))

/-- SKIP at stage 0 (R685). -/
def evSkip (f : EvFifo) : EvFifo :=
  match f.q with
  | [] => f
  | e :: r =>
    if e.drop then { f with q := r, skipped := satAdd 24 f.skipped 1 }
    else
      let keep := f.q.filter fun x => x.drop || decide (x.packet ≠ e.packet)
      let f := { f with q := keep, skipped := satAdd 24 f.skipped (f.q.length - keep.length) }
      match f.opened with
      | some o => if o.packet = e.packet then { f with opened := some { o with discarding := true } } else f
      | none => f

end Sys2Proof.Machine
end

