-- ==== Sys2Proof/Syntax.lean ====
section
/-! DEFINITION. The commands the module takes, one constructor per row of spec/opcode_table.json, and the operands that
name the item a command concerns (a tower, brick, group, port, queue entry) or carry what the outside world supplies (an
instruction word, a flit, host data, a sensor reading, the outcome of a test). -/

namespace Sys2Proof

/-- A tower of the module (R15). -/
inductive TowerId where
  | t0 | t1
  deriving DecidableEq, Repr

/-- The number of a tower. -/
def TowerId.nat : TowerId → Nat
  | .t0 => 0
  | .t1 => 1

/-- The tower across the hinge. -/
def TowerId.other : TowerId → TowerId
  | .t0 => .t1
  | .t1 => .t0

/-- A brick by tower and slice index (R19). -/
structure BrickRef where
  t : TowerId
  s : Fin 576
  deriving DecidableEq, Repr

/-- A resident group by brick, scheduler and slot (R51). -/
structure GroupRef where
  b : BrickRef
  sched : Fin 4
  slot : Fin 16
  deriving DecidableEq, Repr

/-- A brick instruction's words below OP: bits [55:0] of the first word and the second word (R67, R71). The second
word matters only in format X. -/
structure IWord where
  lo : BitVec 56
  w2 : BitVec 64
  deriving DecidableEq, Repr

/-- What a latency expiry concerns: the oldest result of a class I, F, S or U instruction of the group, or the
occupancy of the special-function lanes of its scheduler (R44). -/
inductive LatItem where
  | i | f | s | u | lanes
  deriving DecidableEq, Repr

/-- The levels of acknowledgement of a store (R140). -/
inductive AckScope where
  | tower | device | system
  deriving DecidableEq, Repr

/-- Where a fill of the L1 comes from: the i-th line waiting in the brick's up queue or on the mortar, or the host's answer
to the i-th read on the mortar, with its data and poison. -/
inductive FillSrc where
  | up (i : Nat)
  | host (i : Nat) (data : Line) (poison : Bool)
  deriving DecidableEq, Repr

/-- A source of the router: the head of a port's virtual channel, the hinge, a local engine, or the messages that are
routed again (R455). -/
inductive RouteSrc where
  | port (p : Fin 8) (v : Fin 4)
  | hinge
  | own
  | again
  deriving DecidableEq, Repr

/-- Who accesses a control register: the driver, through the host port, or the tower's management controller (R8). -/
inductive RegBy where
  | driver | mgmt
  deriving DecidableEq, Repr

/-- A transport of MCTP packets to a management controller (R646). -/
inductive Transport where
  | i3c | vdm | link
  deriving DecidableEq, Repr

/-- An SPDM request, as far as its kind matters (R491, R655, R656): a secured session is established or ends, the measurement of an index
is asked for, the host sets its IDE keys or enables or disables IDE, or any other request. -/
inductive SpdmReq where
  | sessionOpen | sessionEnd
  | measurement (index : BitVec 8)
  | ideKeys (keys : Nat)
  | ideEnable (on : Bool)
  | other (bytes : Nat)
  deriving DecidableEq, Repr

/-- MetaValue of a CXL.mem request of the host (R291, R295). -/
inductive MetaValue where
  | any | shared | invalid
  deriving DecidableEq, Repr

/-- A tower configuration (R620): pinned count; the `RTR_CFG` image with `RTR_TOPO` and `RTR_TOPO_SN`, when it holds router
values; memory-test policy. -/
structure TowerCfg where
  pinned : Nat
  router : Option (Nat × List Nat × List Nat)
  policy : Nat
  deriving DecidableEq, Repr

/-- A 100 µs sample of the power monitors (R546, R552, R556): input voltage in 10 mV, current in 10 mA and power in W; rail voltages
in mV and currents in 0.1 A; readings of the sense points and lowest voltages of the regions since the last sample, in 2.5 mV. -/
structure PowerSample where
  vin : BitVec 16
  iin : BitVec 16
  pin : BitVec 16
  railV : List (BitVec 16)
  railI : List (BitVec 16)
  sense : List (BitVec 9)
  regions : List (BitVec 9)
  deriving DecidableEq, Repr

/-- A row that the memory test finds failing (R348, R617): pseudo-channel of the tower, page q[23:3] of R350, and whether its bank
has a spare row left. -/
structure HbmRow where
  pc : Nat
  page : Nat
  spare : Bool
  deriving DecidableEq, Repr

/-- A sample of the thermal logic (R566): readings of C0 to C95 and B0 to B63 and of the stacks, in 0.125 °C, and the power drawn by
each region's slices in 0.05 W. -/
structure ThermSample where
  die : List (BitVec 12)
  hbm : List (BitVec 12)
  power : List Nat
  deriving DecidableEq, Repr

/-- The commands: one constructor per row of the table of operations and events. -/
inductive Instr where
  | nop (g : GroupRef) (w : IWord)
  | brRel (g : GroupRef) (w : IWord)
  | brReg (g : GroupRef) (w : IWord)
  | callRel (g : GroupRef) (w : IWord)
  | callReg (g : GroupRef) (w : IWord)
  | ret (g : GroupRef) (w : IWord)
  | exit (g : GroupRef) (w : IWord)
  | yield (g : GroupRef) (w : IWord)
  | trap (g : GroupRef) (w : IWord)
  | brkpt (g : GroupRef) (w : IWord)
  | sleep (g : GroupRef) (w : IWord)
  | iadd (g : GroupRef) (w : IWord)
  | isub (g : GroupRef) (w : IWord)
  | iaddc (g : GroupRef) (w : IWord)
  | imul (g : GroupRef) (w : IWord)
  | imulh (g : GroupRef) (w : IWord)
  | imac (g : GroupRef) (w : IWord)
  | imac64 (g : GroupRef) (w : IWord)
  | iadd64 (g : GroupRef) (w : IWord)
  | imin (g : GroupRef) (w : IWord)
  | imax (g : GroupRef) (w : IWord)
  | iabs (g : GroupRef) (w : IWord)
  | dot4 (g : GroupRef) (w : IWord)
  | tern (g : GroupRef) (w : IWord)
  | shl (g : GroupRef) (w : IWord)
  | shr (g : GroupRef) (w : IWord)
  | dsh (g : GroupRef) (w : IWord)
  | xfield (g : GroupRef) (w : IWord)
  | ifield (g : GroupRef) (w : IWord)
  | ones (g : GroupRef) (w : IWord)
  | lzc (g : GroupRef) (w : IWord)
  | bitrev (g : GroupRef) (w : IWord)
  | bytesel (g : GroupRef) (w : IWord)
  | pcmpI (g : GroupRef) (w : IWord)
  | pcmpF (g : GroupRef) (w : IWord)
  | pcmpH (g : GroupRef) (w : IWord)
  | pfun (g : GroupRef) (w : IWord)
  | sel (g : GroupRef) (w : IWord)
  | predw (g : GroupRef) (w : IWord)
  | wpred (g : GroupRef) (w : IWord)
  | tally (g : GroupRef) (w : IWord)
  | xlane (g : GroupRef) (w : IWord)
  | mov (g : GroupRef) (w : IWord)
  | mov64 (g : GroupRef) (w : IWord)
  | getsr (g : GroupRef) (w : IWord)
  | putsr (g : GroupRef) (w : IWord)
  | uniMov (g : GroupRef) (w : IWord)
  | uniAdd (g : GroupRef) (w : IWord)
  | uniMul (g : GroupRef) (w : IWord)
  | uniTern (g : GroupRef) (w : IWord)
  | uniSh (g : GroupRef) (w : IWord)
  | uniCmp (g : GroupRef) (w : IWord)
  | fadd (g : GroupRef) (w : IWord)
  | fmul (g : GroupRef) (w : IWord)
  | fmac (g : GroupRef) (w : IWord)
  | fmin (g : GroupRef) (w : IWord)
  | fmax (g : GroupRef) (w : IWord)
  | vaddH (g : GroupRef) (w : IWord)
  | vmulH (g : GroupRef) (w : IWord)
  | vmacH (g : GroupRef) (w : IWord)
  | vminH (g : GroupRef) (w : IWord)
  | vmaxH (g : GroupRef) (w : IWord)
  | cvt (g : GroupRef) (w : IWord)
  | cvtpk (g : GroupRef) (w : IWord)
  | cvtupk (g : GroupRef) (w : IWord)
  | mxpack (g : GroupRef) (w : IWord)
  | mxunpack (g : GroupRef) (w : IWord)
  | fint (g : GroupRef) (w : IWord)
  | trans (g : GroupRef) (w : IWord)
  | ldSp (g : GroupRef) (w : IWord)
  | stSp (g : GroupRef) (w : IWord)
  | ldCsp (g : GroupRef) (w : IWord)
  | stCsp (g : GroupRef) (w : IWord)
  | ldG (g : GroupRef) (w : IWord)
  | stG (g : GroupRef) (w : IWord)
  | prefetchG (g : GroupRef) (w : IWord)
  | atomSp (g : GroupRef) (w : IWord)
  | atomCsp (g : GroupRef) (w : IWord)
  | atomG (g : GroupRef) (w : IWord)
  | redG (g : GroupRef) (w : IWord)
  | fence (g : GroupRef) (w : IWord)
  | barSync (g : GroupRef) (w : IWord)
  | barArrive (g : GroupRef) (w : IWord)
  | barWait (g : GroupRef) (w : IWord)
  | mxWload (g : GroupRef) (w : IWord)
  | mxSwap (g : GroupRef) (w : IWord)
  | mxStream (g : GroupRef) (w : IWord)
  | mxDrain (g : GroupRef) (w : IWord)
  | mxMma (g : GroupRef) (w : IWord)
  | mxBatch (g : GroupRef) (w : IWord)
  | tpIssue (g : GroupRef) (w : IWord)
  | rtIssue (g : GroupRef) (w : IWord)
  | nbuIssue (g : GroupRef) (w : IWord)
  | engWait (g : GroupRef) (w : IWord)
  | engPoll (g : GroupRef) (w : IWord)
  | markPush (g : GroupRef) (w : IWord)
  | markPop (g : GroupRef) (w : IWord)
  | evBegin (g : GroupRef) (w : IWord)
  | evPut (g : GroupRef) (w : IWord)
  | evEnd (g : GroupRef) (w : IWord)
  | sleepExpiry (g : GroupRef)
  | branchGapExpiry (g : GroupRef)
  | l1InputAccept (b : BrickRef) (sched : Fin 4) (victims : List Nat)
  | loadResponse (b : BrickRef) (op : Nat) (victims : List Nat)
  | l1FillArrival (b : BrickRef) (src : FillSrc)
  | barrierPhaseComplete (b : BrickRef) (block : Nat) (key : Fin 32)
  | cspAccessAtTarget (b : BrickRef) (i : Nat)
  | vportReadPerform (b : BrickRef) (i : Nat)
  | vportWritePerform (b : BrickRef) (i : Nat)
  | vportWriteAck (b : BrickRef) (i : Nat)
  | blockDelivery (t : TowerId) (num : Nat)
  | blockPlacement (b : BrickRef)
  | clusterPlacement (t : TowerId) (course : Fin 24) (launch : Nat) (clusterId : Nat)
  | mxLoadExecute (b : BrickRef)
  | mxLoadComplete (b : BrickRef)
  | mxSwapExecute (b : BrickRef)
  | mxStreamExecute (b : BrickRef)
  | mxStreamComplete (b : BrickRef)
  | mxDrainExecute (b : BrickRef)
  | mxDrainComplete (b : BrickRef)
  | mxMmaResult (b : BrickRef)
  | batchDeadline (b : BrickRef) (batch : Nat)
  | batchEntryExecute (b : BrickRef)
  | tpEntryStart (b : BrickRef)
  | tpDescriptorArrival (b : BrickRef) (victim : Nat)
  | tpControlDataArrival (b : BrickRef)
  | tpStagingFill (b : BrickRef)
  | tpKstep (b : BrickRef)
  | tpTileDrain (b : BrickRef)
  | tpRunningFailure (b : BrickRef)
  | tpComplete (b : BrickRef)
  | rtDescriptorStart (t : TowerId) (c : Fin 24)
  | rtGatingLineCount (t : TowerId) (c : Fin 24)
  | rtGatherRow (t : TowerId) (c : Fin 24)
  | rtLengthWordWrite (t : TowerId) (c : Fin 24)
  | rtCombineRow (t : TowerId) (c : Fin 24)
  | rtFailure (t : TowerId) (c : Fin 24)
  | rtComplete (t : TowerId) (c : Fin 24)
  | nbuSubmit (t : TowerId) (v : Word)
  | nbuDispatchHead (t : TowerId)
  | nbuDescriptorArrival (t : TowerId)
  | nbuDelivery (t : TowerId)
  | nbuStepStart (t : TowerId) (c : Nat)
  | nbuLineAccess (t : TowerId) (c : Nat)
  | nbuChainPartialArrival (t : TowerId) (c : Nat)
  | nbuStatisticReturn (t : TowerId) (c : Nat)
  | nbuRunningFailure (t : TowerId)
  | nbuCommandComplete (t : TowerId) (seq : Nat)
  | llcDeviceRead (b : BrickRef) (i : Nat)
  | llcDeviceWrite (b : BrickRef) (i : Nat)
  | llcNarrowWrite (b : BrickRef) (i : Nat)
  | mergeEntryTimeout (t : TowerId) (i : Nat)
  | llcFillInstall (t : TowerId) (line : Nat)
  | visitorInvalidationReceipt (t : TowerId) (i : Nat)
  | visitorInvalidationAck (t : TowerId) (i : Nat)
  | llcAtomic (b : BrickRef) (i : Nat) (host : Line) (poison : Bool)
  | llcReduction (t : TowerId) (i : Nat)
  | reductionLockClear (t : TowerId) (line : Nat)
  | deadLineDrop (t : TowerId) (i : Nat)
  | hostMemrd (hpa : Nat) (mv : MetaValue)
  | hostMemwr (hpa : Nat) (mv : MetaValue) (data : BitVec 512) (mask : BitVec 64) (poison : Bool)
  | bisnpResponse (t : TowerId) (line : Nat) (shared : Bool) (lo hi : Option (BitVec 512))
  | bisnpTimeout (t : TowerId) (line : Nat)
  | llcWatchAdd (t : TowerId) (v : Word)
  | llcWatchDel (t : TowerId) (v : Word)
  | watchOperationResult (t : TowerId)
  | llcSrSeed (t : TowerId) (v : Word)
  | hbmGrant (t : TowerId) (k : Fin 96) (cands rows : List Nat) (perr : Bool)
  | hbmThrottleUpdate (t : TowerId)
  | hbmRefresh (t : TowerId) (k : Fin 96)
  | hbmRegWrite (t : TowerId) (v : Word)
  | hbmMasterWrite (t : TowerId) (m : Fin 32) (v : Word)
  | ceLeak (t : TowerId) (b : Fin 8)
  | eccCeBucketWrite (t : TowerId) (b : Fin 8) (v : Word)
  | eccWriteBack (t : TowerId) (i : Nat)
  | eccRetireDel (t : TowerId) (who : RegBy) (v : Word)
  | eccScrubGo (t : TowerId) (v : Word)
  | scrubLine (t : TowerId)
  | eccScrubAbort (t : TowerId) (v : Word)
  | eccTestRawWrite (t : TowerId) (who : RegBy) (v : Word)
  | eccTestRawRead (t : TowerId) (who : RegBy) (v : Word)
  | eccTestComplete (t : TowerId)
  | memoryFill (t : TowerId)
  | flitReceive (t : TowerId) (p : Fin 8) (f : Flit) (uncorr : Bool) (corr : List Nat)
  | retry (t : TowerId) (p : Fin 8)
  | retryTimerExpiry (t : TowerId) (p : Fin 8)
  | controlResendTimeout (t : TowerId) (p : Fin 8)
  | ident (t : TowerId) (p : Fin 8)
  | vcReset (t : TowerId) (p : Fin 8)
  | vcResetAck (t : TowerId) (p : Fin 8)
  | laneDrop (t : TowerId) (p : Fin 8)
  | laneAdd (t : TowerId) (p : Fin 8)
  | laneAck (t : TowerId) (p : Fin 8)
  | laneNak (t : TowerId) (p : Fin 8)
  | retrain (t : TowerId) (p : Fin 8)
  | laneSwitchCodeword (t : TowerId) (p : Fin 8)
  | laneRecalComplete (t : TowerId) (p : Fin 8) (margin : BitVec 8)
  | autoRecalCheck (t : TowerId) (p : Fin 8)
  | signalDetect (t : TowerId) (p : Fin 8)
  | signalLoss (t : TowerId) (p : Fin 8)
  | trainComplete (t : TowerId) (p : Fin 8) (ok : Bool) (perm : List Nat) (margins : List Nat)
  | lockAcquire (t : TowerId) (p : Fin 8) (ok : Bool)
  | silenceTimeout (t : TowerId) (p : Fin 8)
  | lnkCtlEnable (t : TowerId) (p : Fin 8) (on : Bool)
  | lnkCtlRetrain (t : TowerId) (p : Fin 8)
  | lnkCtlRecal (t : TowerId) (p : Fin 8) (lane : Fin 4) (defer : Bool)
  | messageRoute (t : TowerId) (src : RouteSrc)
  | wr (t : TowerId)
  | rd (t : TowerId)
  | wrAck (t : TowerId)
  | rdData (t : TowerId)
  | nak (t : TowerId)
  | error (t : TowerId)
  | e2eTimeout (t : TowerId) (tag : Nat)
  | rtrCollSubmit (t : TowerId) (v : Word)
  | collDescriptorStart (t : TowerId) (e : Fin 4)
  | collChunkSend (t : TowerId) (e : Fin 4)
  | collData (t : TowerId)
  | collAck (t : TowerId)
  | collResendTimeout (t : TowerId) (tag : Nat)
  | collComplete (t : TowerId) (e : Fin 4)
  | timeInterval (t : TowerId)
  | time (t : TowerId)
  | mgmtReq (t : TowerId) (cfg : Option TowerCfg)
  | mgmtRsp (t : TowerId)
  | topologyCheck (t : TowerId)
  | topologyTimeout (t : TowerId)
  | hostBarRead (off : BitVec 28) (bytes : Nat)
  | hdmDecoderCommit (i : Fin 2) (base size ways : Nat)
  | hostViralSignal
  | ideIntegrityFailure
  | cxlLinkReset
  | cxlGo (i : Nat)
  | cxlSnoop (addr : Nat)
  | cpLtEnable (t : TowerId) (n : Fin 8) (v : Word)
  | cpLtDisable (t : TowerId) (n : Fin 8) (v : Word)
  | cpWatchNotify (t : TowerId)
  | stateLineArrival (t : TowerId) (n : Fin 8)
  | launchRecordArrival (t : TowerId)
  | kilnDescriptorArrival (t : TowerId) (entry : Word) (poison : Bool)
  | brickGrant (t : TowerId)
  | launchFault (t : TowerId)
  | launchTimeout (t : TowerId) (num : Nat)
  | cpAbort (t : TowerId) (v : Word)
  | launchReissue (t : TowerId) (num : Nat)
  | launchComplete (t : TowerId) (num : Nat)
  | dmSubmit (t : TowerId) (v : Word)
  | dmDescriptorStart (t : TowerId)
  | dmBlock (t : TowerId) (seq : Nat) (host : List Line) (chk : Word) (poison : Bool)
  | dmComplete (t : TowerId) (seq : Nat)
  | inputOutOfRange (down : Bool)
  | inputReturn
  | railPowerGood (t : TowerId)
  | railPowerGoodTimeout (t : TowerId)
  | vcoreFault (t : TowerId)
  | vcoreRegulationTimeout (t : TowerId)
  | railFault (t : TowerId) (rail : Fin 8)
  | vhpFault
  | vhpReturn
  | senseExclusion (t : TowerId) (p : Fin 8)
  | pwrSenseSelWrite (t : TowerId) (v : Word)
  | pwrRegionModeWrite (t : TowerId) (r : Fin 72) (v : Word)
  | retentionEntry (t : TowerId) (r : Fin 72)
  | retentionComplete (t : TowerId) (r : Fin 72)
  | wake (t : TowerId) (r : Fin 72)
  | wakeComplete (t : TowerId) (r : Fin 72)
  | autoIdleExpiry (t : TowerId) (r : Fin 72)
  | ocTrip (t : TowerId) (r : Fin 72)
  | ocHoldoffExpiry (t : TowerId) (r : Fin 72)
  | pwrVminClear (t : TowerId) (i : Fin 80)
  | powerCapEvaluate (t : TowerId) (m : PowerSample)
  | thermalSample (t : TowerId) (m : ThermSample)
  | thermalCycleSample (t : TowerId)
  | brickReset (b : BrickRef) (ue : Bool)
  | brickResetComplete (b : BrickRef)
  | computeDomainReset (t : TowerId)
  | cdrQuiesceComplete (t : TowerId)
  | cdrResetRelease (t : TowerId)
  | cdrSelftestComplete (t : TowerId) (failed : List (Fin 576))
  | cdrArrayTestComplete (t : TowerId) (bad : List (Fin 576 × BitVec 8))
  | cdrTrainingComplete (t : TowerId) (ports : List (Fin 576)) (gates : List (Fin 48))
  | cdrFillComplete (t : TowerId)
  | quiesceTimeout (t : TowerId)
  | warmTowerReset (t : TowerId) (tagErr : Option (Fin 576))
  | coldReset
  | rstCtlWarm (t : TowerId) (who : RegBy)
  | rstCtlCdr (t : TowerId)
  | rstCtlBrick (t : TowerId) (slice : BitVec 10)
  | computePllLockLoss (t : TowerId)
  | basePllLockLoss (t : TowerId)
  | pllRelock (t : TowerId) (base : Bool)
  | referenceLoss (t : TowerId)
  | referenceLossTimeout (t : TowerId)
  | referenceReturn (t : TowerId)
  | clockModeSwitch (t : TowerId) (ok : Bool)
  | hingeTransfer (t : TowerId) (ok : Bool)
  | globalStop (t : TowerId) (v : Word)
  | globalStopCut (t : TowerId)
  | globalResume (t : TowerId) (v : Word)
  | mgmtWatchdogExpiry (t : TowerId)
  | imageVerify (t : TowerId)
  | fuseRestore (t : TowerId)
  | logicSelftestComplete (t : TowerId) (base : Bool) (failed : List (Fin 576)) (groups : List (Fin 576 × BitVec 8))
  | sramSelftestComplete (t : TowerId) (arrays slices : List (Fin 576))
  | hbmTrainingComplete (t : TowerId) (failed : Option (Fin 6))
  | memoryTestPattern (t : TowerId)
  | retentionPauseExpiry (t : TowerId) (rows : List HbmRow)
  | keyVerify (t : TowerId)
  | fusServiceLockOut (t : TowerId) (who : RegBy) (slice : BitVec 10)
  | fusServiceClear (t : TowerId) (who : RegBy) (slice : BitVec 10)
  | fusTestBrick (t : TowerId) (slice : BitVec 10) (defer : Bool)
  | fusTestHbmCalibration (t : TowerId) (stack : BitVec 10)
  | deferredTestStart (b : BrickRef)
  | brickTestComplete (b : BrickRef) (pass : Bool) (groups : BitVec 8)
  | hbmCalibrationComplete (t : TowerId) (stack : Fin 6)
  | licInstall (t : TowerId) (who : RegBy) (addr : BitVec 41) (fails : Nat)
  | licRemove (t : TowerId) (who : RegBy) (feature : BitVec 2) (fails : Nat)
  | fusTimeWrite (t : TowerId) (who : RegBy) (v : Word)
  | fusTimeTick (t : TowerId)
  | heartbeat (t : TowerId)
  | heartbeatLossTakeover
  | mctpPacket (t : TowerId) (tr : Transport) (len pkt : Nat) (cfg : Option TowerCfg)
  | pldmFirmwareUpdate (t : TowerId) (tr : Transport) (img : Option (Nat × Nat))
  | pldmActivateFirmware (t : TowerId) (tr : Transport)
  | trialEnd (t : TowerId)
  | spdmRequest (t : TowerId) (tr : Transport) (req : SpdmReq)
  | protectionSettingWrite (t : TowerId) (who : RegBy) (off : Nat) (v : Word)
  | storeRecordWrite (t : TowerId) (typ : Nat) (fails : Nat) (cut : Bool)
  | dbgCtlFreeze (t : TowerId) (on : Bool)
  | dbgCtlClear (t : TowerId)
  | brkEvDataRead (b : BrickRef)
  | brkEvSkip (b : BrickRef)
  | tracePacketWrite (b : BrickRef)
  | dbgTraceEnable (t : TowerId) (v : Word)
  | dbgTraceDisable (t : TowerId) (v : Word)
  | dbgTraceTrigger (t : TowerId) (v : Word)
  | traceSampleInterval (t : TowerId)
  | traceChunkExport (t : TowerId)
  | dbgBrkResume (t : TowerId)
  | dbgPeek (t : TowerId) (v : Word)
  | coldRstNAssert
  | perstN (low : Bool)
  | leakDetect
  | registerWrite (t : TowerId) (who : RegBy) (off : BitVec 28) (bytes : Nat) (v : Word)
  | latencyClassExpiry (g : GroupRef) (c : LatItem)
  | writeAcknowledgement (b : BrickRef) (wid : Nat) (lvl : AckScope)
  | instructionCacheFill (g : GroupRef) (victims : List Nat) (host : Line) (poison : Bool)
  | flitTransmit (t : TowerId) (p : Fin 8)
  | collNoMatchResend (t : TowerId) (tag : Nat)
  | hostPortInternalError
  | hostLinkTrained (width rate : BitVec 2)
  | coldRstNRelease
  | leakClear
  | verticalTrainingComplete (t : TowerId) (ports : List (Fin 576)) (gates : List (Fin 48))
  | dbgPeekComplete (t : TowerId)
  deriving DecidableEq, Repr

end Sys2Proof
end

