-- ==== Sys2Proof/Machine/CpState.lean ====
section
/-! DEFINITION. The state of the host port (R479 to R492), the command processors (R493 to R513) and the data movers (R514
to R520), as plain data. -/

namespace Sys2Proof.Machine

open Sys2Proof

/-- A write on CXL.cache whose GO message has not arrived (R487): a brick's store, the DirtyEvict of an atomic with the line
as it left the agent, a data mover's write by its descriptor number, a completion record, or an export of the trace writer. -/
inductive HostWr where
  | store (t : TowerId) (slice wid : Nat)
  | evict (t : TowerId) (slice wid addr data : Nat)
  | dm (t : TowerId) (seq : Nat)
  | cpl (t : TowerId) (num : Nat)
  | trace (t : TowerId)
  deriving DecidableEq, Repr

/-- The host port's partition (R18, R479 to R491): whether `PERST_n` is low, whether the link is up, whether its rail
holds it in reset, viral, the HDM decoders as committed (base and size), writes awaiting GO, the RAS status bits Poison_Received,
Internal_Error and CXL_IDE_Rx_Error (R490), the decoders whose last commit ended in Error Not Committed (R484), and the IDE keys as set, with whether the host has enabled IDE (R491). -/
structure HostPort where
  perst : Bool
  up : Bool
  railBad : Bool
  viral : Bool
  dec0 : Option (Nat × Nat)
  dec1 : Option (Nat × Nat)
  gos : List HostWr
  poisonRx : Bool
  internalErr : Bool
  ideErr : Bool
  decErr : List Nat
  ideKeys : Option Nat
  ideOn : Bool
  deriving DecidableEq, Repr

/-- The stages of a launch: its record is on its way; in the kiln; running; its groups on a brick were lost (R509); ended
and not yet complete; completion record written to host memory and awaiting GO. -/
inductive LPhase where
  | taken | kiln | running | lost | ending | written
  deriving DecidableEq, Repr

/-- A launch (R493 to R513): its number and the numbers of earlier issues, table, entry, table base and serial; the record;
issues made; the next entry of the descriptor list and the first failure found in it (code, index, detail); device time
of acceptance; next block; bricks held and reserved course; rotation state; most bricks held; how it ended; the list entry, and the first line of its NBU
descriptor, that the kiln has read and not yet checked. -/
structure Launch where
  num : Nat
  old : List Nat
  table : Nat
  entry : Nat
  base : Nat
  serial : Nat
  prev : Option Nat
  phase : LPhase
  rcd : Nat
  issues : Nat
  desc : Nat
  bad : Option (Nat × Nat × Nat)
  accepted : Bool
  start : Nat
  next : Nat
  bricks : List Nat
  held : Bool
  rot : Nat
  rotCourse : Nat
  lastIn : SMap Nat
  most : Nat
  status : Nat
  reason : Nat
  detail : Nat
  index : Nat
  fault : Option (Nat × Nat × Nat × R32 × Nat)
  faults : Nat
  ent : Option Nat
  head : Option Nat
  deriving DecidableEq, Repr

/-- A command processor: watched state lines of each table, watch signals that have arrived, state lines to be read by
table, each with its bytes once they are there, launches in the order taken, the last number given, the course last used, the launch and course of the cluster
reservation (R505). -/
structure Cp where
  watched : SMap (List Nat)
  sigs : List Nat
  scan : List (Nat × Nat × Option Nat)
  launches : List Launch
  lastNum : Nat
  course : Nat
  resv : Option (Nat × Nat)
  deriving DecidableEq, Repr

/-- A data-mover descriptor accepted (R514 to R520): number, address; once started, its 64 bytes, next block and result; the bytes of the
next block and its check entry as read and not yet used, and whether the block has been written while its check entry waits. -/
structure DmCmd where
  seq : Nat
  addr : Nat
  started : Bool
  desc : Nat
  block : Nat
  result : Nat
  ended : Bool
  cplOk : Bool
  got : Option Nat
  want : Option Nat
  put : Bool
  deriving DecidableEq, Repr

/-- The data movers of a tower. -/
structure Dm where
  cmds : List DmCmd
  lastSeq : Nat
  doneSeq : Nat
  doneAhead : List Nat
  lastResult : Nat
  deriving DecidableEq, Repr

def HostPort.init : HostPort := ⟨false, false, false, false, none, none, [], false, false, false, [], none, false⟩
def Cp.init : Cp := ⟨[], [], [], [], 0, 23, none⟩
def Dm.init : Dm := ⟨[], 0, 0, [], 0⟩

end Sys2Proof.Machine
end

