-- ==== Sys2Proof/Machine/EngState.lean ====
section
/-! DEFINITION. The state of the route units (R223 to R245) and of the near-bank units (R313 to R343), as plain data. -/

namespace Sys2Proof.Machine

open Sys2Proof

/-- A submitted route descriptor (R224): its number among the tower's, handle, issuing brick, block, launch, group and cluster, and its
address. -/
structure RtJob where
  num : Nat
  handle : R32
  slice : Fin 576
  block : Nat
  launch : Nat
  gid : Nat
  clusterId : Nat
  addr : Nat
  deriving DecidableEq, Repr

/-- One piece of the gather phase (R231 to R233): row j of an expert from token t and slot s, its map entry, a zero row, or the map
entry of an entry that is not routed. -/
inductive RtItem where
  | row (e j t s : Nat)
  | mark (e j t s : Nat)
  | zero (e j : Nat)
  | map (t s : Nat)
  deriving DecidableEq, Repr

/-- The running route descriptor: count phase 0, gather or combine 1, length words 2; gating entries read (expert, weight),
the expert table, lengths, work left, the next expert or token; the map words of the token being combined and a row that waits to be
written; and the result. -/
structure RtRun where
  job : RtJob
  desc : Nat
  phase : Nat
  gates : List (Nat × Nat)
  table : List Nat
  lens : List Nat
  work : List RtItem
  next : Nat
  tmap : Option Nat
  out : Option Nat
  sr : R32
  count : Nat
  dropped : Bool
  dup : Bool
  cplOk : Bool
  err : Option Nat
  result : Nat
  ended : Bool
  deriving DecidableEq, Repr

/-- The route unit of a course. -/
structure RtUnit where
  q : List RtJob
  run : Option RtRun
  lastHandle : R32
  lastResult : Nat
  rows : Nat
  dropped : Nat
  deriving DecidableEq, Repr

def RtUnit.init : RtUnit := ⟨[], none, 0, 0, 0, 0⟩

/-- Descriptors that occupy the unit's queue of 16 (R224). -/
def RtUnit.load (u : RtUnit) : Nat := u.q.length + if u.run.isSome then 1 else 0

/-- Who submitted an NBU command (R316): a group of a brick, or the driver. -/
inductive NbuSrc where
  | brick (slice : Fin 576) (launch : Nat) (handle : R32)
  | driver
  deriving DecidableEq, Repr

/-- Progress of an NBU within a command (R328 to R335): the step, whether it has started and its second pass runs, the next
line access of the pass; the lane partials of the row being read; row partials of its own, combined partials it has sent
on, statistics on their way to it and statistics that have arrived, by row; its stochastic-rounding generator; what it has read for
the line access at hand, by address and size; whether its last step is complete and whether an access failed. -/
structure NbuUnit where
  step : Nat
  started : Bool
  stepDone : Bool
  pass2 : Bool
  line : Nat
  lanes : List R32
  own : SMap (List R32)
  sent : SMap (List R32)
  inn : SMap (List R32)
  stat : SMap (List R32)
  sr : R32
  got : List (Nat × Nat × Nat)
  done : Bool
  failed : Bool
  deriving DecidableEq, Repr

/-- A command accepted by the dispatcher (R317 to R319): its number, source, the launch that issued it, address, whether the read of its
descriptor is on its way, the descriptor's header and the whole descriptor once read, whether it has been delivered, the progress of the NBUs of its span by chain
index, failures by step, chain index and code, and its result once it has ended early. -/
structure NbuCmd where
  seq : Nat
  src : NbuSrc
  ctx : Option RunCtx
  addr : Nat
  asked : Bool
  head : Option Nat
  desc : Nat
  delivered : Bool
  units : SMap NbuUnit
  errs : List (Nat × Nat × Nat)
  ended : Bool
  result : Nat
  rstep : Nat
  rnbu : Nat
  cplOk : Bool
  deriving DecidableEq, Repr

/-- The dispatcher of a tower: accepted commands in order, the last number given, the highest number below which all are
complete, completed numbers beyond it, the last result, and corrected sectors by chain index. -/
structure Nbu where
  cmds : List NbuCmd
  lastSeq : Nat
  doneSeq : Nat
  doneAhead : List Nat
  lastResult : Nat
  ce : SMap Nat
  deriving DecidableEq, Repr

def NbuUnit.init : NbuUnit := ⟨0, false, false, false, 0, [], [], [], [], [], 0, [], false, false⟩
def Nbu.init : Nbu := ⟨[], 0, 0, [], 0, []⟩

end Sys2Proof.Machine
end

