-- ==== Sys2Proof/Machine/FabState.lean ====
section
/-! DEFINITION. The state of the link ports (R407 to R441), the router (R442 to R458), the collective engines (R459 to R464)
and device-time discipline (R465), as plain data. -/

namespace Sys2Proof.Machine

open Sys2Proof

/-- A fabric message (R417, R445, R446): header fields, the body after byte 15 as a little-endian number of LEN − 16 bytes,
the device time of its first symbol on arrival, and the port it arrived on (8 for the hinge, 9 for a local engine). -/
structure FMsg where
  typ : Nat
  flags : Nat
  len : Nat
  dst : Nat
  src : Nat
  dl : Nat
  hops : Nat
  tag : Nat
  body : Nat
  stamp : Nat
  via : Nat
  deriving DecidableEq, Repr

/-- A partial message of a virtual channel: bytes so far and their number, flits that end within it, arrival time. -/
structure Partial where
  data : Nat
  n : Nat
  flits : Nat
  stamp : Nat
  deriving DecidableEq, Repr

/-- The receive side of one virtual channel (R417, R420): flits in the buffer, whole messages with the flits that leave
with them, the partial message, bytes of a message being skipped, credits owed, and whether arriving flits are discarded
until a VC_RESET_ACK (R425). -/
structure VcRx where
  occ : Nat
  msgs : List (FMsg × Nat)
  part : Option Partial
  skip : Nat
  owed : Nat
  resetting : Bool
  deriving DecidableEq, Repr

/-- The transmit side of one virtual channel: credits, the partner's advertisement, messages waiting, and the rest of the
message being sent as bytes. -/
structure VcTx where
  credits : Nat
  adv : Nat
  q : List FMsg
  rest : Nat
  restLen : Nat
  waited : Nat
  deriving DecidableEq, Repr

/-- A data flit kept for replay (R421). -/
structure Stored where
  seq : Nat
  vc : Nat
  payload : Nat
  deriving DecidableEq, Repr

/-- A control flit to send: opcode and payload from byte 5 on (R424). -/
structure Ctl where
  op : Nat
  arg : Nat
  deriving DecidableEq, Repr

/-- A lane change agreed on, waiting for its switch codeword (R430). -/
structure LaneSw where
  lane : Nat
  drop : Bool
  mine : Bool
  deriving DecidableEq, Repr

/-- A lane recalibration in progress: the lane, whether this end asked for it, and whether the lane has been
recalibrated. -/
structure Recal where
  lane : Nat
  mine : Bool
  ready : Bool
  deriving DecidableEq, Repr

/-- A link port (R407 to R441), beside its registers. -/
structure Port where
  rx : SMap VcRx
  tx : SMap VcTx
  eseq : Nat
  retryWait : Bool
  retries : Nat
  nseq : Nat
  replay : List Stored
  replayAt : Option (Nat × Nat)
  rot : Nat
  crot : Nat
  ctlOut : List Ctl
  ctlWait : List (Ctl × Nat)
  ctlIn : List Ctl
  ident : Option Nat
  sentIdent : Bool
  ackBad : List Nat
  fails : List Nat
  perm : List Nat
  sent : Nat
  sw : Option LaneSw
  recal : Option Recal
  want : Option Nat
  asked : Option Nat
  base : List Nat
  signal : Bool
  deriving DecidableEq, Repr

def VcRx.init : VcRx := ⟨0, [], none, 0, 0, false⟩
def VcTx.init : VcTx := ⟨0, 0, [], 0, 0, 0⟩
def Port.init : Port :=
  ⟨[], [], 0, false, 0, 0, [], none, 0, 0, [], [], [], none, false, [], [], [], 0, none, none, none, none, [], false⟩

/-- Who made a remote request (R457): a route unit (course, descriptor number, expert), a data-mover channel, or the trace writer. -/
inductive RemSrc where
  | route (course job expert : Nat)
  | dm (chan : Nat) (k : Nat)
  | trace
  deriving DecidableEq, Repr

/-- A remote request that awaits its answer (R457): its message and the sends made. -/
structure RemReq where
  msg : FMsg
  sends : Nat
  src : RemSrc
  deriving DecidableEq, Repr

/-- The end of a remote request: read data, or a failure, with the NAK reason where there was one. -/
structure RemDone where
  src : RemSrc
  ok : Bool
  reason : Nat
  data : Nat
  deriving DecidableEq, Repr

/-- A chunk sent and not yet acknowledged (R461, R463): its message, sends, and whether status 0x01 was answered. -/
structure CollOut where
  msg : FMsg
  sends : Nat
  noMatch : Bool
  deriving DecidableEq, Repr

/-- A running collective (R459 to R464): descriptor, member list, the step and byte offset of the next chunk to send,
chunks applied by step and offset, lines applied of the chunk at hand, chunks outstanding, the result once it has ended. `step` counts
reduce-scatter steps and then all-gather steps. No members: the member list is still on its way. -/
structure CollRun where
  desc : Nat
  members : List Nat
  step : Nat
  off : Nat
  applied : List (Nat × Nat)
  lines : Nat
  out : List CollOut
  result : Nat
  ended : Bool
  deriving DecidableEq, Repr

/-- The router and its engines. `hinge` holds messages that have crossed from the other tower, `own` messages of local
engines, `again` messages to be routed again (R455), `inbox` messages delivered to this tower;
`nextJob` numbers the route descriptors submitted in the tower; `collFailed` the group and sequence numbers of collectives that ended with a failure. -/
structure Rtr where
  hinge : List FMsg
  own : List FMsg
  again : List FMsg
  inbox : List FMsg
  nextTag : Nat
  nextJob : Nat
  rem : List RemReq
  remDone : List RemDone
  collQ : List Nat
  coll : SMap CollRun
  collFailed : List (Nat × Nat)
  timeWait : Nat
  rate : Int
  rateAcc : Int
  topoStart : Nat
  deriving DecidableEq, Repr

def Rtr.init : Rtr := ⟨[], [], [], [], 1, 0, [], [], [], [], [], 0, 0, 0, 0⟩

end Sys2Proof.Machine
end

