-- ==== Sys2Proof/Machine/MemState.lean ====
section
/-! DEFINITION. The state of a tower's memory system as plain data: stored bytes and check words, the last-level cache
with its directory (R273 to R306), fill registers, merge buffers, watch tables, visitor copies, host snoops, HBM channel
queues and throttling (R344 to R369), and the ECC block's engines (R370 to R396). -/

namespace Sys2Proof.Machine

open Sys2Proof

/-- An agent that accesses lines at their homes within steps of its own (R283, R353): its tower, the master its requests are charged to,
and a number that tells its requests apart. -/
structure Agent where
  t : TowerId
  master : Nat
  unit : Nat
  deriving DecidableEq, Repr

/-- Host states of a line (R289). -/
inductive HostSt where
  | hi | hs | ha
  deriving DecidableEq, Repr

/-- The directory entry and data of a line of the tower's own memory (R289): sector valid and dirty masks, data and
check words as stored, class (0 stream, 1 normal, 2 keep), V, H, and the lock flags of R282, a hold with the agent that holds the line.
A pinned line has an entry only for its host state and holds; its data stays in the bank. -/
structure DirLine where
  valid : Nat
  dirty : Nat
  data : Line
  chk : BitVec 128
  cls : Nat
  v : Bool
  h : HostSt
  held : Option Agent
  red : Bool
  visWait : Bool
  biWait : Bool
  deriving DecidableEq, Repr

/-- A visitor copy in this tower of a line of the other tower, with its class (R281, R292). -/
structure VisCopy where
  cls : Nat
  valid : Nat
  data : Line
  chk : BitVec 128
  deriving DecidableEq, Repr

/-- Who waits for a fill (R283): a brick's read, with its sectors and those of them that the line held when it was registered (R285),
or an agent that asks again once the line is installed. -/
inductive Requester where
  | brick (t : TowerId) (slice rid : Nat) (port : Bool) (sectors held : List Nat)
  | agent (a : Agent)
  deriving DecidableEq, Repr

/-- A fill register (R283): line, sectors requested and arrived, the class its allocation takes, its requesters, whether
a visitor copy goes to the other tower, and the sectors that arrived uncorrectable (R384). -/
structure FillReg where
  line : Nat
  want : Nat
  got : Nat
  data : Line
  chk : BitVec 128
  bad : Nat
  cls : Nat
  reqs : List Requester
  visitor : Bool
  deriving DecidableEq, Repr

/-- A merge-buffer entry (R287): slice, sector number (address / 32), data and byte mask. -/
structure MergeEnt where
  slice : Nat
  sector : Nat
  data : Sector
  mask : BitVec 32
  deriving DecidableEq, Repr

/-- A watched line (R296). -/
structure WatchEnt where
  line : Nat
  pending : Bool
  deriving DecidableEq, Repr

/-- A back-invalidate snoop that awaits the host's response (R291, R295): whether it invalidates, and the stores whose
system acknowledgement waits for it, by tower, slice and store number. -/
structure Snoop where
  line : Nat
  inv : Bool
  acks : List (TowerId × Nat × Nat)
  discard : Bool
  deriving DecidableEq, Repr

/-- A request in a channel controller's queue (R357): charged master, line, mask of sectors, whether it writes and whether
a fill register waits for it, the deadline of a real-time request, whether it has been found past, its parity errors (R345), and the
agent that waits for a read past the LLC. -/
structure HbmReq where
  master : Nat
  line : Nat
  mask : Nat
  write : Bool
  fill : Bool
  deadline : Option Nat
  past : Bool
  parity : Nat
  who : Option Agent
  deriving DecidableEq, Repr

/-- A channel controller (R357 to R360): queue, sectors granted in the round, guarantee counters, round-robin credits,
settings in force, grants of this round per master. -/
structure Chan where
  q : List HbmReq
  pos : Nat
  gc : SMap Nat
  credit : SMap Int
  guar : SMap Nat
  weight : SMap Nat
  got : SMap Nat
  rot : Nat
  refresh : Nat
  deriving DecidableEq, Repr

/-- A throttle level that has changed (R363): the MEM cycle of the change and the level before it. -/
structure LvlOld where
  cyc : Nat
  lvl : Nat
  deriving DecidableEq, Repr

/-- A token bucket of a source (R362): the MEM cycle of its last update and its tokens in sixteenths. -/
structure Bucket where
  last : Nat
  tok : Nat
  deriving DecidableEq, Repr

/-- A running scrub pass (R391 to R393): the next and last line, the record line, the counts, and the status it will end
with (0 complete, 1 aborted, 2 RANGE). -/
structure Scrub where
  next : Nat
  last : Nat
  record : Nat
  lines : Nat
  ce : Nat
  ue : Nat
  first : Nat
  lastErr : Nat
  start : Nat
  skipped : Nat
  status : Nat
  deriving DecidableEq, Repr

/-- A queued write-back (R383): a sector, whether a slice bank supplied it, and whether it has begun and holds the line. -/
structure WbEnt where
  sec : Nat
  bank : Bool
  run : Bool
  deriving DecidableEq, Repr

/-- A raw operation in progress (R395); once it runs it holds the line. -/
structure RawOp where
  write : Bool
  line : Nat
  sector : Nat
  data : Sector
  chk : R32
  run : Bool
  deriving DecidableEq, Repr

/-- A watch operation in progress (R312): add or remove, line, and whether the command processor asked. -/
structure WatchOp where
  add : Bool
  line : Nat
  deriving DecidableEq, Repr

/-- A dead load that asks the home to drop its line (R304): strict-dead flag and charged master. -/
structure DeadReq where
  line : Nat
  strict : Bool
  master : Nat
  deriving DecidableEq, Repr

/-- Who sent a reduction request (R300): a tile program of a brick. -/
inductive RedSrc where
  | tile (t : TowerId) (slice : Nat) (handle : R32)
  deriving DecidableEq, Repr

/-- A reduction request on its way to its home (R300): line, add or max, FP32 or BF16, stochastic rounding, element mask,
FP32 values, charged master and deadline. -/
structure RedReq where
  src : RedSrc
  line : Nat
  max : Bool
  bf16 : Bool
  sr : Bool
  mask : Nat
  vals : List R32
  master : Nat
  dl : Option Nat
  deriving DecidableEq, Repr

/-- A line of the hinge's visitor traffic toward this tower: an invalidation to receive, or an acknowledgement to take
(R291, R293). -/
inductive VisMsg where
  | inv (line : Nat)
  | ack (line : Nat)
  deriving DecidableEq, Repr

/-- The memory system of a tower. `cells` are the bytes of its HBM and pinned banks by device physical address, in
canonical form (Memory.wf); `chks` the stored check words that differ from the encoding of the bytes, by sector number; `fillWait` lines
whose allocation has found every way locked (R309); `lost` lines with the sectors that an agent's fill brought uncorrectable (R384);
`direct` the reads past the LLC that HBM has made, by agent, line and sectors, until they are used (R353);
`lvlOld` the levels changed last, by stack × 32 + master. -/
structure MemSys where
  cells : List Host.Cell
  chks : SMap R32
  dir : SMap DirLine
  mru : SMap Nat
  vis : SMap VisCopy
  fills : List FillReg
  merge : List MergeEnt
  watch : List WatchEnt
  watchOp : Option WatchOp
  snoops : List Snoop
  visIn : List VisMsg
  sr : SMap R32
  retired : List Nat
  chans : SMap Chan
  buckets : SMap Bucket
  lvlOld : SMap LvlOld
  fillWait : List Nat
  lost : List (Agent × Nat × Nat)
  direct : List (Agent × Nat × Nat)
  wbq : List WbEnt
  scrub : Option Scrub
  raw : Option RawOp
  dead : List DeadReq
  redQ : List RedReq
  redErr : List (RedSrc × Nat)
  pick : Nat
  deriving DecidableEq, Repr

def DirLine.init : DirLine := ⟨0, 0, 0, 0, 0, false, .hi, none, false, false, false⟩
def Chan.init : Chan := ⟨[], 0, [], [], [], [], [], 0, 0⟩

/-- The memory system after a warm tower reset and fill: every byte reads zero, nothing is allocated (R306, R378). -/
def MemSys.init : MemSys where
  cells := []
  chks := []
  dir := []
  mru := []
  vis := []
  fills := []
  merge := []
  watch := []
  watchOp := none
  snoops := []
  visIn := []
  sr := []
  retired := []
  chans := []
  buckets := []
  lvlOld := []
  fillWait := []
  lost := []
  direct := []
  wbq := []
  scrub := none
  raw := none
  dead := []
  redQ := []
  redErr := []
  pick := 0

end Sys2Proof.Machine
end

