-- ==== Sys2Proof/Machine/RegMap.lean ====
section
/-! DEFINITION. The register map of a tower's control space, transcribed from the register tables of the spec: for
every register its offset, indices, reset domain and fields with access code and Reset column (R7 to R13, R29, R30).
A reset entry F or S (R13) is 0 here, but for VCORE_SET (R551) and THETA (R575), whose tables give a value before restore:
`FUSE_RESTORE` loads the field during bring-up (log entry 3). -/

namespace Sys2Proof.Machine

/-- The registers, in address order of their blocks. -/
inductive Reg where
  | glbId
  | glbVer
  | glbTower
  | glbLmap
  | rstCtl
  | rstStat
  | rstCfg
  | clkStat
  | rstCount
  | rstLife
  | rstTime
  | rstGstop
  | rstGstopT
  | rstGstopQ
  | pwrCfg
  | pwrIn
  | pwrCap
  | pwrSenseSel
  | pwrSenseStat
  | pwrFault
  | pwrRail
  | pwrRegion
  | pwrOcLast
  | pwrVmin
  | pwrVminT
  | thmStat
  | thmLimits
  | thmEvent
  | thmSensor
  | thmHbm
  | thmRegion
  | eccCtl
  | eccInt
  | eccFill
  | eccRetireStat
  | eccRetireDel
  | eccLogHead
  | eccScrubBase
  | eccScrubLimit
  | eccScrubRec
  | eccScrubCtl
  | eccTestCtl
  | eccTestChk
  | eccTestData
  | eccCeBucket
  | eccLogAddr
  | eccLogTime
  | eccRetire
  | cpCfg
  | cpAbort
  | cpLtCfg
  | cpLtCpl
  | cpLtStat
  | cpHostCfg
  | cpHostStat
  | llcCfg
  | llcSrSeed
  | llcStat
  | llcCnt
  | llcWatchAdd
  | llcWatchDel
  | llcWatchRes
  | hbmChStat
  | hbmChGrant
  | hbmCfg
  | hbmReg
  | hbmMaster
  | hbmTl
  | nbuCfg
  | nbuStatus
  | nbuSubmit
  | nbuSubmitRes
  | nbuUnit
  | dmSubmit
  | dmSubmitRes
  | dmStatus
  | dmChan
  | dmChanSeq
  | lnkCtl
  | lnkCfg
  | lnkStat
  | lnkPartner
  | lnkPartnerSn
  | lnkErr
  | lnkCntRetry
  | lnkCntFec
  | lnkCntDrop
  | lnkLane
  | rtrCfg
  | rtrStat
  | rtrTimeCfg
  | rtrCollSubmit
  | rtrCollStat
  | rtrTopo
  | rtrTopoSn
  | rtrPortStat
  | rtrAdmitBase
  | rtrAdmitLimit
  | rtrDetour
  | dbgCtl
  | dbgMarkSel
  | dbgTraceBase
  | dbgTraceSize
  | dbgTraceCtl
  | dbgTraceStat
  | dbgTracePtr
  | dbgTraceTrig
  | dbgExportDst
  | dbgBrk
  | dbgPeekCtl
  | dbgPeekData
  | dbgEngBusy
  | dbgEngStall
  | dbgEngIdle
  | dbgEngRsel
  | dbgEngRcntA
  | dbgEngRcntB
  | dbgEngX0
  | dbgEngX1
  | fusHold
  | fusBoot
  | fusService
  | fusTestReq
  | fusTestRes
  | fusSerial
  | fusTime
  | fusFullUtc
  | licStat
  | licInstall
  | mgtStat
  | mgtProtCfg
  | mgtHwin
  | mgtKwinBase
  | mgtKwinLimit
  | fusPos
  | hngStat
  | hngTx
  | hngRx
  | brkSchedStat
  | brkPlace
  | brkArray
  | brkArrayStat
  | brkTpStat
  | brkTpKsteps
  | brkTpTiles
  | brkRtStat
  | brkRtCount
  | brkL1Stat
  | brkL1Cnt
  | brkVportStat
  | brkEvStat
  | brkEvData
  | brkEvCtl
  | brkEngBusy
  | brkEngStall
  | brkEngIdle
  | brkEngRsel
  | brkEngRcntA
  | brkEngRcntB
  | brkEngX0
  | brkEngX1
  deriving DecidableEq, Repr

/-- Access codes of R8. -/
inductive Acc where
  | ro | rw | w1c | wo | rwl
  deriving DecidableEq, Repr

/-- The reset domain of a register (R591): cold, warm tower, compute domain, brick, host-port partition. -/
inductive RegDom where
  | cold | warm | cd | brick | hostport
  deriving DecidableEq, Repr

/-- A field of a register: bits, access, Reset column. -/
structure FldDef where
  hi : Nat
  lo : Nat
  acc : Acc
  reset : Nat
  deriving DecidableEq, Repr

/-- A register: offset, two index counts with their strides, domain, fields. -/
structure RegDef where
  base : Nat
  n1 : Nat
  s1 : Nat
  n2 : Nat
  s2 : Nat
  dom : RegDom
  flds : List FldDef
  deriving DecidableEq, Repr

/-- A named field. -/
structure Fld where
  reg : Reg
  hi : Nat
  lo : Nat
  deriving DecidableEq, Repr

/-- The register tables. -/
def Reg.info : Reg → RegDef
  | .glbId => ⟨0x0, 1, 0, 1, 0, .warm, [⟨63, 48, .ro, 7514⟩, ⟨47, 32, .ro, 24176⟩, ⟨31, 24, .ro, 3⟩, ⟨23, 20, .ro, 0⟩, ⟨16, 16, .ro, 0⟩]⟩
  | .glbVer => ⟨0x8, 1, 0, 1, 0, .warm, [⟨63, 56, .ro, 0⟩, ⟨55, 48, .ro, 0⟩, ⟨47, 40, .ro, 0⟩, ⟨39, 32, .ro, 0⟩, ⟨31, 24, .ro, 1⟩, ⟨23, 16, .ro, 0⟩]⟩
  | .glbTower => ⟨0x10, 1, 0, 1, 0, .warm, [⟨53, 44, .ro, 0⟩, ⟨43, 34, .ro, 0⟩, ⟨33, 30, .ro, 0⟩, ⟨29, 26, .ro, 0⟩, ⟨21, 20, .ro, 0⟩]⟩
  | .glbLmap => ⟨0x1000, 576, 8, 1, 0, .warm, [⟨63, 63, .ro, 0⟩, ⟨10, 0, .ro, 0⟩]⟩
  | .rstCtl => ⟨0x100000, 1, 0, 1, 0, .cold, [⟨63, 63, .wo, 0⟩, ⟨62, 62, .wo, 0⟩, ⟨61, 61, .wo, 0⟩, ⟨9, 0, .wo, 0⟩]⟩
  | .rstStat => ⟨0x100008, 1, 0, 1, 0, .cold, [⟨63, 62, .ro, 0⟩, ⟨61, 60, .ro, 0⟩, ⟨59, 56, .ro, 0⟩, ⟨55, 55, .ro, 0⟩, ⟨54, 54, .w1c, 0⟩, ⟨41, 32, .ro, 0⟩, ⟨31, 0, .ro, 0⟩]⟩
  | .rstCfg => ⟨0x100010, 1, 0, 1, 0, .cold, [⟨63, 56, .rw, 10⟩, ⟨55, 55, .rw, 1⟩]⟩
  | .clkStat => ⟨0x100018, 1, 0, 1, 0, .cold, [⟨63, 63, .ro, 0⟩, ⟨62, 62, .ro, 0⟩, ⟨61, 61, .ro, 0⟩, ⟨60, 60, .ro, 0⟩, ⟨59, 52, .ro, 0⟩, ⟨51, 44, .ro, 0⟩, ⟨43, 36, .ro, 0⟩]⟩
  | .rstCount => ⟨0x100020, 1, 0, 1, 0, .cold, [⟨63, 48, .ro, 0⟩, ⟨47, 32, .ro, 0⟩, ⟨31, 0, .ro, 0⟩]⟩
  | .rstLife => ⟨0x100028, 1, 0, 1, 0, .cold, [⟨63, 32, .ro, 0⟩, ⟨31, 16, .ro, 0⟩, ⟨15, 0, .ro, 0⟩]⟩
  | .rstTime => ⟨0x100030, 1, 0, 1, 0, .cold, [⟨63, 0, .ro, 0⟩]⟩
  | .rstGstop => ⟨0x100040, 1, 0, 1, 0, .cold, [⟨63, 63, .wo, 0⟩, ⟨62, 62, .wo, 0⟩, ⟨61, 61, .rw, 0⟩, ⟨60, 60, .rw, 0⟩, ⟨59, 58, .ro, 0⟩]⟩
  | .rstGstopT => ⟨0x100048, 1, 0, 1, 0, .cold, [⟨63, 0, .ro, 0⟩]⟩
  | .rstGstopQ => ⟨0x100100, 16, 8, 1, 0, .cold, [⟨63, 32, .ro, 0⟩]⟩
  | .pwrCfg => ⟨0x200000, 1, 0, 1, 0, .warm, [⟨56, 48, .ro, 288⟩, ⟨39, 32, .ro, 0⟩, ⟨31, 31, .ro, 0⟩]⟩
  | .pwrIn => ⟨0x200008, 1, 0, 1, 0, .warm, [⟨63, 48, .ro, 0⟩, ⟨47, 32, .ro, 0⟩, ⟨31, 16, .ro, 0⟩]⟩
  | .pwrCap => ⟨0x200010, 1, 0, 1, 0, .warm, [⟨47, 32, .rw, 1350⟩, ⟨31, 28, .ro, 0⟩, ⟨0, 0, .rw, 1⟩]⟩
  | .pwrSenseSel => ⟨0x200018, 1, 0, 1, 0, .warm, [⟨7, 0, .rw, 255⟩]⟩
  | .pwrSenseStat => ⟨0x200020, 1, 0, 1, 0, .warm, [⟨10, 8, .ro, 0⟩, ⟨7, 0, .ro, 0⟩]⟩
  | .pwrFault => ⟨0x200028, 1, 0, 1, 0, .warm, [⟨6, 6, .w1c, 0⟩, ⟨5, 5, .w1c, 0⟩, ⟨4, 4, .w1c, 0⟩, ⟨3, 3, .w1c, 0⟩, ⟨2, 2, .w1c, 0⟩, ⟨1, 1, .w1c, 0⟩, ⟨0, 0, .w1c, 0⟩]⟩
  | .pwrRail => ⟨0x200040, 8, 8, 1, 0, .warm, [⟨63, 48, .ro, 0⟩, ⟨47, 32, .ro, 0⟩]⟩
  | .pwrRegion => ⟨0x201000, 72, 8, 1, 0, .warm, [⟨63, 62, .rw, 0⟩, ⟨61, 59, .ro, 0⟩, ⟨58, 52, .rw, 36⟩, ⟨51, 50, .ro, 0⟩, ⟨49, 49, .ro, 0⟩, ⟨48, 45, .ro, 0⟩, ⟨31, 16, .rw, 100⟩]⟩
  | .pwrOcLast => ⟨0x201400, 72, 8, 1, 0, .warm, [⟨63, 0, .ro, 0⟩]⟩
  | .pwrVmin => ⟨0x202000, 80, 16, 1, 0, .warm, [⟨63, 63, .wo, 0⟩, ⟨8, 0, .ro, 511⟩]⟩
  | .pwrVminT => ⟨0x202008, 80, 16, 1, 0, .warm, [⟨63, 0, .ro, 0⟩]⟩
  | .thmStat => ⟨0x300000, 1, 0, 1, 0, .cold, [⟨63, 52, .ro, 0⟩, ⟨51, 40, .ro, 0⟩, ⟨39, 28, .ro, 0⟩, ⟨27, 26, .ro, 0⟩, ⟨25, 22, .ro, 0⟩, ⟨21, 21, .ro, 0⟩]⟩
  | .thmLimits => ⟨0x300008, 1, 0, 1, 0, .cold, [⟨63, 52, .ro, 0⟩, ⟨51, 40, .ro, 0⟩, ⟨15, 0, .ro, 125⟩]⟩
  | .thmEvent => ⟨0x300010, 1, 0, 1, 0, .cold, [⟨7, 7, .w1c, 0⟩, ⟨6, 6, .w1c, 0⟩, ⟨5, 5, .w1c, 0⟩, ⟨4, 4, .w1c, 0⟩, ⟨3, 3, .w1c, 0⟩, ⟨2, 2, .w1c, 0⟩, ⟨1, 1, .w1c, 0⟩, ⟨0, 0, .w1c, 0⟩]⟩
  | .thmSensor => ⟨0x301000, 160, 8, 1, 0, .cold, [⟨63, 63, .ro, 0⟩, ⟨62, 51, .ro, 0⟩, ⟨50, 39, .ro, 0⟩, ⟨38, 27, .ro, 0⟩]⟩
  | .thmHbm => ⟨0x301800, 6, 8, 1, 0, .cold, [⟨63, 63, .ro, 0⟩, ⟨62, 51, .ro, 0⟩]⟩
  | .thmRegion => ⟨0x302000, 72, 8, 1, 0, .cold, [⟨63, 63, .ro, 0⟩, ⟨62, 62, .ro, 0⟩, ⟨61, 58, .ro, 0⟩, ⟨57, 54, .ro, 0⟩, ⟨53, 42, .ro, 0⟩, ⟨41, 30, .ro, 0⟩, ⟨29, 18, .ro, 0⟩, ⟨17, 8, .ro, 0⟩]⟩
  | .eccCtl => ⟨0x400000, 1, 0, 1, 0, .warm, [⟨1, 1, .rw, 0⟩, ⟨0, 0, .rw, 0⟩]⟩
  | .eccInt => ⟨0x400008, 1, 0, 1, 0, .warm, [⟨15, 8, .w1c, 0⟩, ⟨7, 7, .w1c, 0⟩, ⟨6, 6, .w1c, 0⟩, ⟨5, 5, .w1c, 0⟩, ⟨4, 4, .w1c, 0⟩, ⟨3, 3, .w1c, 0⟩, ⟨2, 2, .w1c, 0⟩]⟩
  | .eccFill => ⟨0x400010, 1, 0, 1, 0, .warm, [⟨63, 62, .ro, 0⟩, ⟨31, 0, .ro, 0⟩]⟩
  | .eccRetireStat => ⟨0x400018, 1, 0, 1, 0, .warm, [⟨13, 13, .ro, 0⟩, ⟨12, 0, .ro, 0⟩]⟩
  | .eccRetireDel => ⟨0x400020, 1, 0, 1, 0, .warm, [⟨47, 7, .wo, 0⟩]⟩
  | .eccLogHead => ⟨0x400028, 1, 0, 1, 0, .warm, [⟨63, 32, .ro, 0⟩, ⟨3, 0, .ro, 0⟩]⟩
  | .eccScrubBase => ⟨0x400040, 1, 0, 1, 0, .warm, [⟨47, 7, .rw, 0⟩]⟩
  | .eccScrubLimit => ⟨0x400048, 1, 0, 1, 0, .warm, [⟨47, 7, .rw, 0⟩]⟩
  | .eccScrubRec => ⟨0x400050, 1, 0, 1, 0, .warm, [⟨47, 7, .rw, 0⟩]⟩
  | .eccScrubCtl => ⟨0x400058, 1, 0, 1, 0, .warm, [⟨63, 63, .ro, 0⟩, ⟨62, 62, .wo, 0⟩, ⟨61, 61, .wo, 0⟩, ⟨11, 0, .rw, 64⟩]⟩
  | .eccTestCtl => ⟨0x400080, 1, 0, 1, 0, .warm, [⟨63, 63, .ro, 0⟩, ⟨62, 61, .wo, 0⟩, ⟨60, 58, .ro, 0⟩, ⟨49, 48, .rw, 0⟩, ⟨47, 7, .rw, 0⟩]⟩
  | .eccTestChk => ⟨0x400088, 1, 0, 1, 0, .warm, [⟨31, 0, .rw, 0⟩]⟩
  | .eccTestData => ⟨0x400090, 4, 8, 1, 0, .warm, [⟨63, 0, .rw, 0⟩]⟩
  | .eccCeBucket => ⟨0x400100, 8, 8, 1, 0, .warm, [⟨63, 48, .rw, 64⟩, ⟨47, 32, .rw, 1000⟩, ⟨31, 16, .ro, 0⟩, ⟨15, 0, .ro, 0⟩]⟩
  | .eccLogAddr => ⟨0x400200, 16, 16, 1, 0, .warm, [⟨63, 63, .ro, 0⟩, ⟨62, 60, .ro, 0⟩, ⟨59, 56, .ro, 0⟩, ⟨47, 5, .ro, 0⟩]⟩
  | .eccLogTime => ⟨0x400208, 16, 16, 1, 0, .warm, [⟨63, 0, .ro, 0⟩]⟩
  | .eccRetire => ⟨0x401000, 4096, 8, 1, 0, .warm, [⟨63, 63, .ro, 0⟩, ⟨47, 7, .ro, 0⟩]⟩
  | .cpCfg => ⟨0x500000, 1, 0, 1, 0, .warm, [⟨63, 48, .rw, 10000⟩, ⟨47, 44, .rw, 3⟩]⟩
  | .cpAbort => ⟨0x500008, 1, 0, 1, 0, .warm, [⟨10, 8, .wo, 0⟩, ⟨7, 0, .wo, 0⟩]⟩
  | .cpLtCfg => ⟨0x500100, 8, 32, 1, 0, .warm, [⟨63, 63, .rw, 0⟩, ⟨50, 48, .rw, 0⟩, ⟨47, 7, .rw, 0⟩]⟩
  | .cpLtCpl => ⟨0x500108, 8, 32, 1, 0, .warm, [⟨47, 6, .rw, 0⟩]⟩
  | .cpLtStat => ⟨0x500110, 8, 32, 1, 0, .warm, [⟨63, 61, .ro, 0⟩, ⟨39, 32, .ro, 0⟩, ⟨31, 0, .ro, 0⟩]⟩
  | .cpHostCfg => ⟨0x5F0000, 1, 0, 1, 0, .hostport, [⟨63, 48, .rw, 100⟩]⟩
  | .cpHostStat => ⟨0x5F0008, 1, 0, 1, 0, .hostport, [⟨63, 63, .ro, 0⟩, ⟨62, 61, .ro, 0⟩, ⟨60, 59, .ro, 0⟩, ⟨47, 32, .ro, 0⟩, ⟨31, 0, .ro, 0⟩]⟩
  | .llcCfg => ⟨0x600000, 1, 0, 1, 0, .warm, [⟨63, 63, .rwl, 0⟩, ⟨3, 0, .rwl, 0⟩]⟩
  | .llcSrSeed => ⟨0x600008, 1, 0, 1, 0, .warm, [⟨31, 0, .rw, 0⟩]⟩
  | .llcStat => ⟨0x600010, 1, 0, 1, 0, .warm, [⟨53, 44, .ro, 0⟩, ⟨40, 28, .ro, 0⟩, ⟨2, 2, .ro, 0⟩, ⟨1, 1, .ro, 0⟩, ⟨0, 0, .ro, 0⟩]⟩
  | .llcCnt => ⟨0x600018, 1, 0, 1, 0, .warm, [⟨63, 32, .ro, 0⟩, ⟨31, 0, .ro, 0⟩]⟩
  | .llcWatchAdd => ⟨0x600020, 1, 0, 1, 0, .warm, [⟨47, 7, .wo, 0⟩]⟩
  | .llcWatchDel => ⟨0x600028, 1, 0, 1, 0, .warm, [⟨47, 7, .wo, 0⟩]⟩
  | .llcWatchRes => ⟨0x600030, 1, 0, 1, 0, .warm, [⟨63, 63, .ro, 0⟩, ⟨62, 60, .ro, 0⟩, ⟨47, 7, .ro, 0⟩]⟩
  | .hbmChStat => ⟨0x700000, 96, 4096, 1, 0, .warm, [⟨63, 63, .ro, 0⟩, ⟨55, 48, .ro, 0⟩, ⟨47, 39, .ro, 0⟩, ⟨38, 31, .ro, 0⟩, ⟨15, 0, .ro, 0⟩]⟩
  | .hbmChGrant => ⟨0x700100, 96, 4096, 32, 8, .warm, [⟨9, 9, .ro, 0⟩, ⟨8, 0, .ro, 0⟩]⟩
  | .hbmCfg => ⟨0x780000, 1, 0, 1, 0, .warm, [⟨47, 32, .ro, 0⟩, ⟨21, 16, .ro, 0⟩, ⟨1, 1, .ro, 0⟩, ⟨0, 0, .ro, 0⟩]⟩
  | .hbmReg => ⟨0x780008, 1, 0, 1, 0, .warm, [⟨63, 63, .w1c, 0⟩, ⟨39, 32, .rw, 96⟩, ⟨31, 24, .rw, 48⟩, ⟨23, 16, .rw, 16⟩, ⟨15, 8, .rw, 250⟩, ⟨0, 0, .rw, 1⟩]⟩
  | .hbmMaster => ⟨0x780100, 32, 8, 1, 0, .warm, [⟨63, 63, .ro, 0⟩, ⟨47, 32, .rw, 0⟩, ⟨23, 16, .rw, 0⟩, ⟨7, 0, .rw, 0⟩]⟩
  | .hbmTl => ⟨0x781000, 6, 256, 32, 8, .warm, [⟨4, 0, .ro, 16⟩]⟩
  | .nbuCfg => ⟨0x800000, 1, 0, 1, 0, .cd, [⟨41, 32, .ro, 0⟩, ⟨0, 0, .ro, 0⟩]⟩
  | .nbuStatus => ⟨0x800008, 1, 0, 1, 0, .cd, [⟨63, 63, .ro, 0⟩, ⟨61, 56, .ro, 0⟩, ⟨55, 49, .ro, 0⟩, ⟨31, 0, .ro, 0⟩]⟩
  | .nbuSubmit => ⟨0x800010, 1, 0, 1, 0, .cd, [⟨47, 7, .wo, 0⟩]⟩
  | .nbuSubmitRes => ⟨0x800018, 1, 0, 1, 0, .cd, [⟨63, 62, .ro, 0⟩, ⟨31, 0, .ro, 0⟩]⟩
  | .nbuUnit => ⟨0x801000, 576, 8, 1, 0, .cd, [⟨60, 60, .ro, 0⟩, ⟨59, 56, .ro, 0⟩, ⟨55, 52, .ro, 0⟩, ⟨51, 42, .ro, 0⟩, ⟨15, 0, .ro, 0⟩]⟩
  | .dmSubmit => ⟨0x900000, 1, 0, 1, 0, .warm, [⟨47, 7, .wo, 0⟩]⟩
  | .dmSubmitRes => ⟨0x900008, 1, 0, 1, 0, .warm, [⟨63, 62, .ro, 0⟩, ⟨31, 0, .ro, 0⟩]⟩
  | .dmStatus => ⟨0x900010, 1, 0, 1, 0, .warm, [⟨63, 63, .ro, 0⟩, ⟨62, 56, .ro, 0⟩, ⟨55, 49, .ro, 0⟩, ⟨31, 0, .ro, 0⟩]⟩
  | .dmChan => ⟨0x900100, 16, 16, 1, 0, .warm, [⟨63, 63, .ro, 0⟩, ⟨1, 0, .rw, 0⟩]⟩
  | .dmChanSeq => ⟨0x900108, 16, 16, 1, 0, .warm, [⟨63, 0, .rw, 0⟩]⟩
  | .lnkCtl => ⟨0xA00000, 8, 4096, 1, 0, .warm, [⟨63, 63, .rw, 1⟩, ⟨62, 62, .wo, 0⟩, ⟨61, 61, .wo, 0⟩, ⟨60, 60, .rw, 0⟩, ⟨59, 58, .rw, 0⟩]⟩
  | .lnkCfg => ⟨0xA00008, 8, 4096, 1, 0, .warm, [⟨63, 48, .rw, 250⟩, ⟨47, 44, .rw, 8⟩, ⟨31, 16, .rw, 100⟩, ⟨15, 0, .rw, 4096⟩]⟩
  | .lnkStat => ⟨0xA00010, 8, 4096, 1, 0, .warm, [⟨63, 60, .ro, 1⟩, ⟨59, 56, .ro, 0⟩, ⟨55, 48, .ro, 0⟩, ⟨47, 44, .ro, 0⟩, ⟨43, 42, .ro, 0⟩, ⟨41, 40, .ro, 0⟩]⟩
  | .lnkPartner => ⟨0xA00018, 8, 4096, 1, 0, .warm, [⟨63, 48, .ro, 0⟩, ⟨47, 32, .ro, 0⟩, ⟨31, 24, .ro, 0⟩, ⟨23, 16, .ro, 0⟩, ⟨15, 12, .ro, 0⟩, ⟨11, 11, .ro, 0⟩, ⟨10, 10, .ro, 0⟩, ⟨9, 0, .ro, 0⟩]⟩
  | .lnkPartnerSn => ⟨0xA00020, 8, 4096, 1, 0, .warm, [⟨63, 0, .ro, 0⟩]⟩
  | .lnkErr => ⟨0xA00028, 8, 4096, 1, 0, .warm, [⟨16, 0, .w1c, 0⟩]⟩
  | .lnkCntRetry => ⟨0xA00030, 8, 4096, 1, 0, .warm, [⟨63, 32, .ro, 0⟩, ⟨31, 0, .ro, 0⟩]⟩
  | .lnkCntFec => ⟨0xA00038, 8, 4096, 1, 0, .warm, [⟨63, 32, .ro, 0⟩, ⟨31, 0, .ro, 0⟩]⟩
  | .lnkCntDrop => ⟨0xA00040, 8, 4096, 1, 0, .warm, [⟨63, 32, .ro, 0⟩, ⟨31, 0, .ro, 0⟩]⟩
  | .lnkLane => ⟨0xA00100, 8, 4096, 4, 8, .warm, [⟨63, 32, .ro, 0⟩, ⟨31, 24, .ro, 0⟩, ⟨23, 16, .ro, 0⟩, ⟨0, 0, .ro, 0⟩]⟩
  | .rtrCfg => ⟨0xB00000, 1, 0, 1, 0, .warm, [⟨63, 63, .rwl, 0⟩, ⟨62, 62, .rwl, 0⟩, ⟨58, 54, .rwl, 1⟩, ⟨53, 50, .rwl, 1⟩, ⟨49, 46, .rwl, 1⟩, ⟨41, 32, .rwl, 0⟩, ⟨31, 16, .rw, 100⟩, ⟨15, 0, .rw, 600⟩]⟩
  | .rtrStat => ⟨0xB00008, 1, 0, 1, 0, .warm, [⟨63, 62, .ro, 0⟩, ⟨61, 58, .ro, 0⟩, ⟨57, 55, .ro, 0⟩, ⟨54, 54, .ro, 0⟩, ⟨53, 53, .ro, 0⟩]⟩
  | .rtrTimeCfg => ⟨0xB00040, 1, 0, 1, 0, .warm, [⟨63, 63, .rw, 0⟩, ⟨59, 56, .rw, 8⟩, ⟨15, 0, .rw, 1000⟩]⟩
  | .rtrCollSubmit => ⟨0xB00060, 1, 0, 1, 0, .warm, [⟨47, 7, .wo, 0⟩]⟩
  | .rtrCollStat => ⟨0xB00068, 1, 0, 1, 0, .warm, [⟨63, 62, .ro, 0⟩, ⟨61, 57, .ro, 0⟩, ⟨56, 50, .ro, 0⟩]⟩
  | .rtrTopo => ⟨0xB00100, 8, 8, 1, 0, .warm, [⟨63, 62, .rw, 0⟩, ⟨59, 56, .rw, 0⟩, ⟨55, 55, .rw, 0⟩, ⟨54, 45, .rw, 0⟩]⟩
  | .rtrTopoSn => ⟨0xB00140, 8, 8, 1, 0, .warm, [⟨63, 0, .rw, 0⟩]⟩
  | .rtrPortStat => ⟨0xB00180, 8, 8, 1, 0, .warm, [⟨63, 63, .ro, 0⟩, ⟨62, 60, .ro, 4⟩, ⟨31, 0, .ro, 0⟩]⟩
  | .rtrAdmitBase => ⟨0xB00400, 8, 16, 1, 0, .warm, [⟨63, 63, .rw, 0⟩, ⟨62, 62, .rw, 0⟩, ⟨47, 7, .rw, 0⟩]⟩
  | .rtrAdmitLimit => ⟨0xB00408, 8, 16, 1, 0, .warm, [⟨47, 7, .rw, 0⟩]⟩
  | .rtrDetour => ⟨0xB00800, 64, 8, 1, 0, .warm, [⟨63, 0, .rw, 18446744073709551615⟩]⟩
  | .dbgCtl => ⟨0xC00000, 1, 0, 1, 0, .warm, [⟨63, 63, .rw, 0⟩, ⟨62, 62, .wo, 0⟩]⟩
  | .dbgMarkSel => ⟨0xC00008, 1, 0, 1, 0, .warm, [⟨31, 0, .rw, 4294967295⟩]⟩
  | .dbgTraceBase => ⟨0xC00010, 1, 0, 1, 0, .warm, [⟨47, 12, .rw, 0⟩]⟩
  | .dbgTraceSize => ⟨0xC00018, 1, 0, 1, 0, .warm, [⟨20, 0, .rw, 4⟩]⟩
  | .dbgTraceCtl => ⟨0xC00020, 1, 0, 1, 0, .warm, [⟨63, 63, .rw, 0⟩, ⟨62, 61, .rw, 0⟩, ⟨60, 57, .rw, 0⟩, ⟨56, 56, .wo, 0⟩, ⟨55, 55, .rw, 0⟩, ⟨54, 54, .rw, 0⟩, ⟨53, 43, .rw, 0⟩, ⟨42, 32, .rw, 0⟩, ⟨31, 16, .rw, 0⟩, ⟨8, 0, .rw, 0⟩]⟩
  | .dbgTraceStat => ⟨0xC00028, 1, 0, 1, 0, .warm, [⟨63, 61, .ro, 0⟩, ⟨60, 60, .ro, 0⟩, ⟨59, 59, .ro, 0⟩, ⟨58, 58, .w1c, 0⟩, ⟨57, 32, .ro, 0⟩, ⟨31, 0, .ro, 0⟩]⟩
  | .dbgTracePtr => ⟨0xC00030, 1, 0, 1, 0, .warm, [⟨63, 0, .ro, 0⟩]⟩
  | .dbgTraceTrig => ⟨0xC00040, 1, 0, 1, 0, .warm, [⟨63, 63, .rw, 0⟩, ⟨62, 62, .rw, 0⟩, ⟨61, 61, .rw, 0⟩, ⟨23, 16, .rw, 0⟩, ⟨15, 0, .rw, 0⟩]⟩
  | .dbgExportDst => ⟨0xC00038, 1, 0, 1, 0, .warm, [⟨47, 7, .rw, 0⟩]⟩
  | .dbgBrk => ⟨0xC00048, 1, 0, 1, 0, .warm, [⟨63, 63, .wo, 0⟩, ⟨62, 47, .ro, 0⟩, ⟨46, 36, .ro, 0⟩, ⟨35, 30, .ro, 0⟩, ⟨23, 0, .ro, 0⟩]⟩
  | .dbgPeekCtl => ⟨0xC00050, 1, 0, 1, 0, .warm, [⟨63, 63, .wo, 0⟩, ⟨62, 60, .ro, 0⟩, ⟨59, 59, .rw, 0⟩, ⟨58, 49, .rw, 0⟩, ⟨48, 43, .rw, 0⟩, ⟨42, 38, .rw, 0⟩, ⟨37, 34, .rw, 0⟩, ⟨33, 10, .rw, 0⟩, ⟨9, 0, .rw, 0⟩]⟩
  | .dbgPeekData => ⟨0xC00058, 1, 0, 1, 0, .warm, [⟨63, 0, .ro, 0⟩]⟩
  | .dbgEngBusy => ⟨0xC10000, 714, 64, 1, 64, .warm, [⟨47, 0, .ro, 0⟩]⟩
  | .dbgEngStall => ⟨0xC10008, 714, 64, 1, 64, .warm, [⟨47, 0, .ro, 0⟩]⟩
  | .dbgEngIdle => ⟨0xC10010, 714, 64, 1, 64, .warm, [⟨47, 0, .ro, 0⟩]⟩
  | .dbgEngRsel => ⟨0xC10018, 714, 64, 1, 64, .warm, [⟨63, 58, .ro, 0⟩, ⟨13, 8, .rw, 0⟩, ⟨5, 0, .rw, 0⟩]⟩
  | .dbgEngRcntA => ⟨0xC10020, 714, 64, 1, 64, .warm, [⟨47, 0, .ro, 0⟩]⟩
  | .dbgEngRcntB => ⟨0xC10028, 714, 64, 1, 64, .warm, [⟨47, 0, .ro, 0⟩]⟩
  | .dbgEngX0 => ⟨0xC10030, 714, 64, 1, 64, .warm, [⟨47, 0, .ro, 0⟩]⟩
  | .dbgEngX1 => ⟨0xC10038, 714, 64, 1, 64, .warm, [⟨63, 32, .ro, 0⟩, ⟨31, 0, .ro, 0⟩]⟩
  | .fusHold => ⟨0xD00000, 1, 0, 1, 0, .cold, [⟨63, 60, .ro, 0⟩, ⟨59, 52, .ro, 0⟩, ⟨51, 42, .ro, 0⟩]⟩
  | .fusBoot => ⟨0xD00008, 1, 0, 1, 0, .cold, [⟨63, 62, .ro, 0⟩, ⟨61, 60, .ro, 0⟩, ⟨59, 59, .ro, 0⟩]⟩
  | .fusService => ⟨0xD00010, 1, 0, 1, 0, .cold, [⟨63, 62, .wo, 0⟩, ⟨61, 60, .ro, 0⟩, ⟨9, 0, .wo, 0⟩]⟩
  | .fusTestReq => ⟨0xD00018, 1, 0, 1, 0, .cold, [⟨63, 62, .wo, 0⟩, ⟨61, 61, .wo, 0⟩, ⟨9, 0, .wo, 0⟩]⟩
  | .fusTestRes => ⟨0xD00020, 1, 0, 1, 0, .cold, [⟨63, 61, .ro, 0⟩, ⟨60, 59, .ro, 0⟩, ⟨9, 0, .ro, 0⟩]⟩
  | .fusSerial => ⟨0xD00028, 1, 0, 1, 0, .cold, [⟨63, 0, .ro, 0⟩]⟩
  | .fusTime => ⟨0xD00030, 1, 0, 1, 0, .cold, [⟨63, 0, .rw, 0⟩]⟩
  | .fusFullUtc => ⟨0xD00038, 1, 0, 1, 0, .cold, [⟨63, 0, .ro, 0⟩]⟩
  | .licStat => ⟨0xD00040, 1, 0, 1, 0, .cold, [⟨63, 63, .ro, 0⟩, ⟨62, 62, .ro, 0⟩, ⟨61, 61, .ro, 0⟩, ⟨60, 58, .ro, 0⟩]⟩
  | .licInstall => ⟨0xD00048, 1, 0, 1, 0, .cold, [⟨63, 62, .wo, 0⟩, ⟨47, 7, .wo, 0⟩, ⟨1, 0, .wo, 0⟩]⟩
  | .mgtStat => ⟨0xD00100, 1, 0, 1, 0, .cold, [⟨63, 63, .ro, 0⟩, ⟨62, 62, .ro, 0⟩, ⟨61, 61, .ro, 0⟩, ⟨60, 60, .ro, 0⟩, ⟨59, 59, .w1c, 0⟩, ⟨58, 58, .w1c, 0⟩, ⟨57, 51, .ro, 0⟩, ⟨31, 0, .ro, 0⟩]⟩
  | .mgtProtCfg => ⟨0xD00108, 1, 0, 1, 0, .cold, [⟨63, 63, .rw, 0⟩, ⟨62, 62, .rw, 0⟩, ⟨31, 0, .ro, 0⟩]⟩
  | .mgtHwin => ⟨0xD00200, 8, 8, 1, 0, .cold, [⟨63, 63, .rw, 0⟩, ⟨62, 62, .rw, 0⟩, ⟨42, 32, .rw, 0⟩, ⟨10, 0, .rw, 0⟩]⟩
  | .mgtKwinBase => ⟨0xD00300, 8, 16, 1, 0, .cold, [⟨63, 63, .rw, 0⟩, ⟨47, 7, .rw, 0⟩]⟩
  | .mgtKwinLimit => ⟨0xD00308, 8, 16, 1, 0, .cold, [⟨47, 7, .rw, 0⟩]⟩
  | .fusPos => ⟨0xD01000, 576, 8, 1, 0, .cold, [⟨63, 62, .ro, 0⟩, ⟨61, 59, .ro, 0⟩, ⟨58, 55, .ro, 0⟩, ⟨54, 45, .ro, 0⟩, ⟨44, 44, .ro, 0⟩]⟩
  | .hngStat => ⟨0xE00000, 1, 0, 1, 0, .warm, [⟨63, 62, .ro, 0⟩, ⟨47, 32, .ro, 0⟩, ⟨31, 0, .ro, 0⟩]⟩
  | .hngTx => ⟨0xE00008, 1, 0, 1, 0, .warm, [⟨63, 0, .ro, 0⟩]⟩
  | .hngRx => ⟨0xE00010, 1, 0, 1, 0, .warm, [⟨63, 0, .ro, 0⟩]⟩
  | .brkSchedStat => ⟨0x1000100, 576, 65536, 4, 8, .brick, [⟨37, 32, .ro, 0⟩, ⟨20, 16, .ro, 0⟩, ⟨12, 8, .ro, 0⟩, ⟨4, 0, .ro, 0⟩]⟩
  | .brkPlace => ⟨0x1000120, 576, 65536, 1, 0, .brick, [⟨40, 32, .ro, 0⟩, ⟨30, 28, .ro, 0⟩, ⟨27, 22, .ro, 0⟩, ⟨21, 20, .ro, 0⟩, ⟨19, 19, .ro, 0⟩]⟩
  | .brkArray => ⟨0x1000200, 576, 65536, 1, 0, .cd, [⟨47, 40, .ro, 0⟩, ⟨6, 0, .ro, 0⟩]⟩
  | .brkArrayStat => ⟨0x1000208, 576, 65536, 1, 0, .brick, [⟨57, 56, .ro, 0⟩, ⟨55, 51, .ro, 0⟩, ⟨50, 48, .ro, 0⟩, ⟨47, 47, .ro, 0⟩, ⟨46, 43, .ro, 0⟩, ⟨42, 40, .ro, 0⟩, ⟨39, 39, .ro, 0⟩, ⟨38, 35, .ro, 0⟩, ⟨34, 32, .ro, 0⟩, ⟨15, 15, .ro, 0⟩, ⟨14, 8, .ro, 0⟩, ⟨7, 7, .ro, 0⟩, ⟨6, 0, .ro, 0⟩]⟩
  | .brkTpStat => ⟨0x1000300, 576, 65536, 1, 0, .brick, [⟨56, 56, .ro, 0⟩, ⟨55, 55, .ro, 0⟩, ⟨54, 48, .ro, 0⟩, ⟨47, 40, .ro, 0⟩, ⟨31, 0, .ro, 0⟩]⟩
  | .brkTpKsteps => ⟨0x1000308, 576, 65536, 1, 0, .brick, [⟨63, 32, .ro, 0⟩, ⟨31, 0, .ro, 0⟩]⟩
  | .brkTpTiles => ⟨0x1000310, 576, 65536, 1, 0, .brick, [⟨63, 32, .ro, 0⟩, ⟨31, 0, .ro, 0⟩]⟩
  | .brkRtStat => ⟨0x1000400, 576, 65536, 1, 0, .cd, [⟨56, 56, .ro, 0⟩, ⟨55, 54, .ro, 0⟩, ⟨53, 49, .ro, 0⟩, ⟨48, 42, .ro, 0⟩, ⟨31, 0, .ro, 0⟩]⟩
  | .brkRtCount => ⟨0x1000408, 576, 65536, 1, 0, .cd, [⟨63, 32, .ro, 0⟩, ⟨31, 0, .ro, 0⟩]⟩
  | .brkL1Stat => ⟨0x1000500, 576, 65536, 1, 0, .brick, [⟨57, 54, .ro, 0⟩, ⟨53, 47, .ro, 0⟩, ⟨46, 38, .ro, 0⟩, ⟨37, 31, .ro, 0⟩]⟩
  | .brkL1Cnt => ⟨0x1000508, 576, 65536, 1, 0, .brick, [⟨63, 32, .ro, 0⟩, ⟨31, 0, .ro, 0⟩]⟩
  | .brkVportStat => ⟨0x1000510, 576, 65536, 1, 0, .brick, [⟨56, 50, .ro, 0⟩, ⟨49, 42, .ro, 0⟩, ⟨41, 36, .ro, 0⟩, ⟨35, 28, .ro, 0⟩, ⟨15, 0, .ro, 0⟩]⟩
  | .brkEvStat => ⟨0x1000A00, 576, 65536, 1, 0, .brick, [⟨63, 63, .ro, 0⟩, ⟨62, 62, .ro, 0⟩, ⟨61, 56, .ro, 0⟩, ⟨55, 32, .ro, 0⟩, ⟨31, 0, .ro, 0⟩]⟩
  | .brkEvData => ⟨0x1000A08, 576, 65536, 1, 0, .brick, [⟨63, 0, .ro, 0⟩]⟩
  | .brkEvCtl => ⟨0x1000A10, 576, 65536, 1, 0, .brick, [⟨63, 63, .wo, 0⟩]⟩
  | .brkEngBusy => ⟨0x1000800, 576, 65536, 8, 64, .brick, [⟨47, 0, .ro, 0⟩]⟩
  | .brkEngStall => ⟨0x1000808, 576, 65536, 8, 64, .brick, [⟨47, 0, .ro, 0⟩]⟩
  | .brkEngIdle => ⟨0x1000810, 576, 65536, 8, 64, .brick, [⟨47, 0, .ro, 0⟩]⟩
  | .brkEngRsel => ⟨0x1000818, 576, 65536, 8, 64, .brick, [⟨63, 58, .ro, 0⟩, ⟨13, 8, .rw, 0⟩, ⟨5, 0, .rw, 0⟩]⟩
  | .brkEngRcntA => ⟨0x1000820, 576, 65536, 8, 64, .brick, [⟨47, 0, .ro, 0⟩]⟩
  | .brkEngRcntB => ⟨0x1000828, 576, 65536, 8, 64, .brick, [⟨47, 0, .ro, 0⟩]⟩
  | .brkEngX0 => ⟨0x1000830, 576, 65536, 8, 64, .brick, [⟨47, 0, .ro, 0⟩]⟩
  | .brkEngX1 => ⟨0x1000838, 576, 65536, 8, 64, .brick, [⟨63, 32, .ro, 0⟩, ⟨31, 0, .ro, 0⟩]⟩

/-- Every register. -/
def Reg.all : List Reg :=
  [
    .glbId, .glbVer, .glbTower, .glbLmap, .rstCtl, .rstStat,
    .rstCfg, .clkStat, .rstCount, .rstLife, .rstTime, .rstGstop,
    .rstGstopT, .rstGstopQ, .pwrCfg, .pwrIn, .pwrCap, .pwrSenseSel,
    .pwrSenseStat, .pwrFault, .pwrRail, .pwrRegion, .pwrOcLast, .pwrVmin,
    .pwrVminT, .thmStat, .thmLimits, .thmEvent, .thmSensor, .thmHbm,
    .thmRegion, .eccCtl, .eccInt, .eccFill, .eccRetireStat, .eccRetireDel,
    .eccLogHead, .eccScrubBase, .eccScrubLimit, .eccScrubRec, .eccScrubCtl, .eccTestCtl,
    .eccTestChk, .eccTestData, .eccCeBucket, .eccLogAddr, .eccLogTime, .eccRetire,
    .cpCfg, .cpAbort, .cpLtCfg, .cpLtCpl, .cpLtStat, .cpHostCfg,
    .cpHostStat, .llcCfg, .llcSrSeed, .llcStat, .llcCnt, .llcWatchAdd,
    .llcWatchDel, .llcWatchRes, .hbmChStat, .hbmChGrant, .hbmCfg, .hbmReg,
    .hbmMaster, .hbmTl, .nbuCfg, .nbuStatus, .nbuSubmit, .nbuSubmitRes,
    .nbuUnit, .dmSubmit, .dmSubmitRes, .dmStatus, .dmChan, .dmChanSeq,
    .lnkCtl, .lnkCfg, .lnkStat, .lnkPartner, .lnkPartnerSn, .lnkErr,
    .lnkCntRetry, .lnkCntFec, .lnkCntDrop, .lnkLane, .rtrCfg, .rtrStat,
    .rtrTimeCfg, .rtrCollSubmit, .rtrCollStat, .rtrTopo, .rtrTopoSn, .rtrPortStat,
    .rtrAdmitBase, .rtrAdmitLimit, .rtrDetour, .dbgCtl, .dbgMarkSel, .dbgTraceBase,
    .dbgTraceSize, .dbgTraceCtl, .dbgTraceStat, .dbgTracePtr, .dbgTraceTrig, .dbgExportDst,
    .dbgBrk, .dbgPeekCtl, .dbgPeekData, .dbgEngBusy, .dbgEngStall, .dbgEngIdle,
    .dbgEngRsel, .dbgEngRcntA, .dbgEngRcntB, .dbgEngX0, .dbgEngX1, .fusHold,
    .fusBoot, .fusService, .fusTestReq, .fusTestRes, .fusSerial, .fusTime,
    .fusFullUtc, .licStat, .licInstall, .mgtStat, .mgtProtCfg, .mgtHwin,
    .mgtKwinBase, .mgtKwinLimit, .fusPos, .hngStat, .hngTx, .hngRx,
    .brkSchedStat, .brkPlace, .brkArray, .brkArrayStat, .brkTpStat, .brkTpKsteps,
    .brkTpTiles, .brkRtStat, .brkRtCount, .brkL1Stat, .brkL1Cnt, .brkVportStat,
    .brkEvStat, .brkEvData, .brkEvCtl, .brkEngBusy, .brkEngStall, .brkEngIdle,
    .brkEngRsel, .brkEngRcntA, .brkEngRcntB, .brkEngX0, .brkEngX1]

namespace Fld

def glbId_VENDOR : Fld := ⟨.glbId, 63, 48⟩
def glbId_DEVICE : Fld := ⟨.glbId, 47, 32⟩
def glbId_GEN : Fld := ⟨.glbId, 31, 24⟩
def glbId_PART : Fld := ⟨.glbId, 23, 20⟩
def glbId_TOWER : Fld := ⟨.glbId, 16, 16⟩
def glbVer_CDIE_REV : Fld := ⟨.glbVer, 63, 56⟩
def glbVer_BDIE_REV : Fld := ⟨.glbVer, 55, 48⟩
def glbVer_FW_MAJOR : Fld := ⟨.glbVer, 47, 40⟩
def glbVer_FW_MINOR : Fld := ⟨.glbVer, 39, 32⟩
def glbVer_LINK_REV : Fld := ⟨.glbVer, 31, 24⟩
def glbVer_FCL : Fld := ⟨.glbVer, 23, 16⟩
def glbTower_BRK_FUSED : Fld := ⟨.glbTower, 53, 44⟩
def glbTower_BRK_LIVE : Fld := ⟨.glbTower, 43, 34⟩
def glbTower_HBM_STACKS : Fld := ⟨.glbTower, 33, 30⟩
def glbTower_PORTS : Fld := ⟨.glbTower, 29, 26⟩
def glbTower_STATE : Fld := ⟨.glbTower, 21, 20⟩
def glbLmap_VALID : Fld := ⟨.glbLmap, 63, 63⟩
def glbLmap_PBID : Fld := ⟨.glbLmap, 10, 0⟩
def rstCtl_WARM : Fld := ⟨.rstCtl, 63, 63⟩
def rstCtl_CDR : Fld := ⟨.rstCtl, 62, 62⟩
def rstCtl_BRICK : Fld := ⟨.rstCtl, 61, 61⟩
def rstCtl_SLICE : Fld := ⟨.rstCtl, 9, 0⟩
def rstStat_ACTIVE : Fld := ⟨.rstStat, 63, 62⟩
def rstStat_LAST_DOMAIN : Fld := ⟨.rstStat, 61, 60⟩
def rstStat_LAST_CAUSE : Fld := ⟨.rstStat, 59, 56⟩
def rstStat_FORCED : Fld := ⟨.rstStat, 55, 55⟩
def rstStat_REFUSED : Fld := ⟨.rstStat, 54, 54⟩
def rstStat_LAST_SLICE : Fld := ⟨.rstStat, 41, 32⟩
def rstStat_DROPPED : Fld := ⟨.rstStat, 31, 0⟩
def rstCfg_QUIESCE_MS : Fld := ⟨.rstCfg, 63, 56⟩
def rstCfg_CD_SELFTEST : Fld := ⟨.rstCfg, 55, 55⟩
def clkStat_MODE : Fld := ⟨.clkStat, 63, 63⟩
def clkStat_CPLL_LOCK : Fld := ⟨.clkStat, 62, 62⟩
def clkStat_BPLL_LOCK : Fld := ⟨.clkStat, 61, 61⟩
def clkStat_REF_OK : Fld := ⟨.clkStat, 60, 60⟩
def clkStat_CPLL_LOSS : Fld := ⟨.clkStat, 59, 52⟩
def clkStat_BPLL_LOSS : Fld := ⟨.clkStat, 51, 44⟩
def clkStat_REF_LOSS : Fld := ⟨.clkStat, 43, 36⟩
def rstCount_WARM : Fld := ⟨.rstCount, 63, 48⟩
def rstCount_CD : Fld := ⟨.rstCount, 47, 32⟩
def rstCount_BRICK : Fld := ⟨.rstCount, 31, 0⟩
def rstLife_EQ_MILLI : Fld := ⟨.rstLife, 63, 32⟩
def rstLife_CONSUMED : Fld := ⟨.rstLife, 31, 16⟩
def rstLife_CYCLES : Fld := ⟨.rstLife, 15, 0⟩
def rstTime_TIME : Fld := ⟨.rstTime, 63, 0⟩
def rstGstop_STOP : Fld := ⟨.rstGstop, 63, 63⟩
def rstGstop_RESUME : Fld := ⟨.rstGstop, 62, 62⟩
def rstGstop_BOTH : Fld := ⟨.rstGstop, 61, 61⟩
def rstGstop_ON_BRKPT : Fld := ⟨.rstGstop, 60, 60⟩
def rstGstop_STATE : Fld := ⟨.rstGstop, 59, 58⟩
def rstGstopT_TIME : Fld := ⟨.rstGstopT, 63, 0⟩
def rstGstopQ_ITEMS : Fld := ⟨.rstGstopQ, 63, 32⟩
def pwrCfg_VCORE_SET : Fld := ⟨.pwrCfg, 56, 48⟩
def pwrCfg_RAIL_PG : Fld := ⟨.pwrCfg, 39, 32⟩
def pwrCfg_VHP_PG : Fld := ⟨.pwrCfg, 31, 31⟩
def pwrIn_VIN : Fld := ⟨.pwrIn, 63, 48⟩
def pwrIn_IIN : Fld := ⟨.pwrIn, 47, 32⟩
def pwrIn_PIN : Fld := ⟨.pwrIn, 31, 16⟩
def pwrCap_CAP_W : Fld := ⟨.pwrCap, 47, 32⟩
def pwrCap_LEVEL : Fld := ⟨.pwrCap, 31, 28⟩
def pwrCap_EN : Fld := ⟨.pwrCap, 0, 0⟩
def pwrSenseSel_SEL : Fld := ⟨.pwrSenseSel, 7, 0⟩
def pwrSenseStat_LOWEST : Fld := ⟨.pwrSenseStat, 10, 8⟩
def pwrSenseStat_EXCL : Fld := ⟨.pwrSenseStat, 7, 0⟩
def pwrFault_IN_RANGE : Fld := ⟨.pwrFault, 6, 6⟩
def pwrFault_CAP : Fld := ⟨.pwrFault, 5, 5⟩
def pwrFault_SENSE : Fld := ⟨.pwrFault, 4, 4⟩
def pwrFault_OC_LOCK : Fld := ⟨.pwrFault, 3, 3⟩
def pwrFault_OC_TRIP : Fld := ⟨.pwrFault, 2, 2⟩
def pwrFault_RAIL : Fld := ⟨.pwrFault, 1, 1⟩
def pwrFault_VCORE : Fld := ⟨.pwrFault, 0, 0⟩
def pwrRail_V : Fld := ⟨.pwrRail, 63, 48⟩
def pwrRail_I : Fld := ⟨.pwrRail, 47, 32⟩
def pwrRegion_MODE : Fld := ⟨.pwrRegion, 63, 62⟩
def pwrRegion_STATE : Fld := ⟨.pwrRegion, 61, 59⟩
def pwrRegion_OC_CODE : Fld := ⟨.pwrRegion, 58, 52⟩
def pwrRegion_TRIPS : Fld := ⟨.pwrRegion, 51, 50⟩
def pwrRegion_LOCKED : Fld := ⟨.pwrRegion, 49, 49⟩
def pwrRegion_THROTTLE : Fld := ⟨.pwrRegion, 48, 45⟩
def pwrRegion_IDLE_US : Fld := ⟨.pwrRegion, 31, 16⟩
def pwrOcLast_TIME : Fld := ⟨.pwrOcLast, 63, 0⟩
def pwrVmin_CLEAR : Fld := ⟨.pwrVmin, 63, 63⟩
def pwrVmin_MIN : Fld := ⟨.pwrVmin, 8, 0⟩
def pwrVminT_TIME : Fld := ⟨.pwrVminT, 63, 0⟩
def thmStat_MAX_C : Fld := ⟨.thmStat, 63, 52⟩
def thmStat_MAX_B : Fld := ⟨.thmStat, 51, 40⟩
def thmStat_MAX_H : Fld := ⟨.thmStat, 39, 28⟩
def thmStat_INTERVAL : Fld := ⟨.thmStat, 27, 26⟩
def thmStat_LT : Fld := ⟨.thmStat, 25, 22⟩
def thmStat_SHUT : Fld := ⟨.thmStat, 21, 21⟩
def thmLimits_HBM_THROT : Fld := ⟨.thmLimits, 63, 52⟩
def thmLimits_HBM_SHUT : Fld := ⟨.thmLimits, 51, 40⟩
def thmLimits_THETA : Fld := ⟨.thmLimits, 15, 0⟩
def thmEvent_SHUTDOWN : Fld := ⟨.thmEvent, 7, 7⟩
def thmEvent_RETENTION : Fld := ⟨.thmEvent, 6, 6⟩
def thmEvent_THROTTLE : Fld := ⟨.thmEvent, 5, 5⟩
def thmEvent_ROR_ACT : Fld := ⟨.thmEvent, 4, 4⟩
def thmEvent_ROR_WARN : Fld := ⟨.thmEvent, 3, 3⟩
def thmEvent_EST_SUSPECT : Fld := ⟨.thmEvent, 2, 2⟩
def thmEvent_SUSPECT : Fld := ⟨.thmEvent, 1, 1⟩
def thmEvent_HBM : Fld := ⟨.thmEvent, 0, 0⟩
def thmSensor_SUSPECT : Fld := ⟨.thmSensor, 63, 63⟩
def thmSensor_READING : Fld := ⟨.thmSensor, 62, 51⟩
def thmSensor_ACCEPTED : Fld := ⟨.thmSensor, 50, 39⟩
def thmSensor_RATE : Fld := ⟨.thmSensor, 38, 27⟩
def thmHbm_PRESENT : Fld := ⟨.thmHbm, 63, 63⟩
def thmHbm_READING : Fld := ⟨.thmHbm, 62, 51⟩
def thmRegion_EST_SUSPECT : Fld := ⟨.thmRegion, 63, 63⟩
def thmRegion_RET : Fld := ⟨.thmRegion, 62, 62⟩
def thmRegion_LC : Fld := ⟨.thmRegion, 61, 58⟩
def thmRegion_LB : Fld := ⟨.thmRegion, 57, 54⟩
def thmRegion_TC : Fld := ⟨.thmRegion, 53, 42⟩
def thmRegion_TB : Fld := ⟨.thmRegion, 41, 30⟩
def thmRegion_EST : Fld := ⟨.thmRegion, 29, 18⟩
def thmRegion_POWER : Fld := ⟨.thmRegion, 17, 8⟩
def eccCtl_LOG_CE : Fld := ⟨.eccCtl, 1, 1⟩
def eccCtl_CE_MODE : Fld := ⟨.eccCtl, 0, 0⟩
def eccInt_CE_OVF : Fld := ⟨.eccInt, 15, 8⟩
def eccInt_UE : Fld := ⟨.eccInt, 7, 7⟩
def eccInt_RETIRE_FULL : Fld := ⟨.eccInt, 6, 6⟩
def eccInt_WB_DROP : Fld := ⟨.eccInt, 5, 5⟩
def eccInt_SCRUB_DONE : Fld := ⟨.eccInt, 4, 4⟩
def eccInt_TEST_DONE : Fld := ⟨.eccInt, 3, 3⟩
def eccInt_LOG_WRAP : Fld := ⟨.eccInt, 2, 2⟩
def eccFill_STATE : Fld := ⟨.eccFill, 63, 62⟩
def eccFill_PROGRESS : Fld := ⟨.eccFill, 31, 0⟩
def eccRetireStat_FULL : Fld := ⟨.eccRetireStat, 13, 13⟩
def eccRetireStat_COUNT : Fld := ⟨.eccRetireStat, 12, 0⟩
def eccRetireDel_LINE : Fld := ⟨.eccRetireDel, 47, 7⟩
def eccLogHead_TOTAL : Fld := ⟨.eccLogHead, 63, 32⟩
def eccLogHead_NEXT : Fld := ⟨.eccLogHead, 3, 0⟩
def eccScrubBase_LINE : Fld := ⟨.eccScrubBase, 47, 7⟩
def eccScrubLimit_LINE : Fld := ⟨.eccScrubLimit, 47, 7⟩
def eccScrubRec_LINE : Fld := ⟨.eccScrubRec, 47, 7⟩
def eccScrubCtl_BUSY : Fld := ⟨.eccScrubCtl, 63, 63⟩
def eccScrubCtl_ABORT : Fld := ⟨.eccScrubCtl, 62, 62⟩
def eccScrubCtl_GO : Fld := ⟨.eccScrubCtl, 61, 61⟩
def eccScrubCtl_RATE : Fld := ⟨.eccScrubCtl, 11, 0⟩
def eccTestCtl_BUSY : Fld := ⟨.eccTestCtl, 63, 63⟩
def eccTestCtl_OP : Fld := ⟨.eccTestCtl, 62, 61⟩
def eccTestCtl_RESULT : Fld := ⟨.eccTestCtl, 60, 58⟩
def eccTestCtl_SECTOR : Fld := ⟨.eccTestCtl, 49, 48⟩
def eccTestCtl_LINE : Fld := ⟨.eccTestCtl, 47, 7⟩
def eccTestChk_CHK : Fld := ⟨.eccTestChk, 31, 0⟩
def eccTestData_DATA : Fld := ⟨.eccTestData, 63, 0⟩
def eccCeBucket_THRESH : Fld := ⟨.eccCeBucket, 63, 48⟩
def eccCeBucket_LEAK_MS : Fld := ⟨.eccCeBucket, 47, 32⟩
def eccCeBucket_LEVEL : Fld := ⟨.eccCeBucket, 31, 16⟩
def eccCeBucket_OVF_CNT : Fld := ⟨.eccCeBucket, 15, 0⟩
def eccLogAddr_VALID : Fld := ⟨.eccLogAddr, 63, 63⟩
def eccLogAddr_KIND : Fld := ⟨.eccLogAddr, 62, 60⟩
def eccLogAddr_SOURCE : Fld := ⟨.eccLogAddr, 59, 56⟩
def eccLogAddr_SECTOR : Fld := ⟨.eccLogAddr, 47, 5⟩
def eccLogTime_TIME : Fld := ⟨.eccLogTime, 63, 0⟩
def eccRetire_VALID : Fld := ⟨.eccRetire, 63, 63⟩
def eccRetire_LINE : Fld := ⟨.eccRetire, 47, 7⟩
def cpCfg_DEF_TIMEOUT_MS : Fld := ⟨.cpCfg, 63, 48⟩
def cpCfg_MAX_REISSUE : Fld := ⟨.cpCfg, 47, 44⟩
def cpAbort_TABLE : Fld := ⟨.cpAbort, 10, 8⟩
def cpAbort_INDEX : Fld := ⟨.cpAbort, 7, 0⟩
def cpLtCfg_ENABLE : Fld := ⟨.cpLtCfg, 63, 63⟩
def cpLtCfg_SIZE : Fld := ⟨.cpLtCfg, 50, 48⟩
def cpLtCfg_BASE : Fld := ⟨.cpLtCfg, 47, 7⟩
def cpLtCpl_CPL : Fld := ⟨.cpLtCpl, 47, 6⟩
def cpLtStat_STATE : Fld := ⟨.cpLtStat, 63, 61⟩
def cpLtStat_HEAD : Fld := ⟨.cpLtStat, 39, 32⟩
def cpLtStat_COMPLETED : Fld := ⟨.cpLtStat, 31, 0⟩
def cpHostCfg_BI_TIMEOUT_US : Fld := ⟨.cpHostCfg, 63, 48⟩
def cpHostStat_VIRAL : Fld := ⟨.cpHostStat, 63, 63⟩
def cpHostStat_WIDTH : Fld := ⟨.cpHostStat, 62, 61⟩
def cpHostStat_RATE : Fld := ⟨.cpHostStat, 60, 59⟩
def cpHostStat_BI_TIMEOUTS : Fld := ⟨.cpHostStat, 47, 32⟩
def cpHostStat_REFUSED : Fld := ⟨.cpHostStat, 31, 0⟩
def llcCfg_LOCK : Fld := ⟨.llcCfg, 63, 63⟩
def llcCfg_PINNED : Fld := ⟨.llcCfg, 3, 0⟩
def llcSrSeed_SEED : Fld := ⟨.llcSrSeed, 31, 0⟩
def llcStat_HOMES : Fld := ⟨.llcStat, 53, 44⟩
def llcStat_WATCH_USED : Fld := ⟨.llcStat, 40, 28⟩
def llcStat_FILL_WAIT : Fld := ⟨.llcStat, 2, 2⟩
def llcStat_BI_WAIT : Fld := ⟨.llcStat, 1, 1⟩
def llcStat_RED_ACTIVE : Fld := ⟨.llcStat, 0, 0⟩
def llcCnt_JOINED : Fld := ⟨.llcCnt, 63, 32⟩
def llcCnt_OPENED : Fld := ⟨.llcCnt, 31, 0⟩
def llcWatchAdd_LINE : Fld := ⟨.llcWatchAdd, 47, 7⟩
def llcWatchDel_LINE : Fld := ⟨.llcWatchDel, 47, 7⟩
def llcWatchRes_BUSY : Fld := ⟨.llcWatchRes, 63, 63⟩
def llcWatchRes_RESULT : Fld := ⟨.llcWatchRes, 62, 60⟩
def llcWatchRes_LINE : Fld := ⟨.llcWatchRes, 47, 7⟩
def hbmChStat_PRESENT : Fld := ⟨.hbmChStat, 63, 63⟩
def hbmChStat_QUEUE : Fld := ⟨.hbmChStat, 55, 48⟩
def hbmChStat_ROUND_POS : Fld := ⟨.hbmChStat, 47, 39⟩
def hbmChStat_PPR_USED : Fld := ⟨.hbmChStat, 38, 31⟩
def hbmChStat_DL_MISS : Fld := ⟨.hbmChStat, 15, 0⟩
def hbmChGrant_OVER : Fld := ⟨.hbmChGrant, 9, 9⟩
def hbmChGrant_LAST : Fld := ⟨.hbmChGrant, 8, 0⟩
def hbmCfg_TREFI_NS : Fld := ⟨.hbmCfg, 47, 32⟩
def hbmCfg_STACK_EN : Fld := ⟨.hbmCfg, 21, 16⟩
def hbmCfg_SELF_REF : Fld := ⟨.hbmCfg, 1, 1⟩
def hbmCfg_TRAINED : Fld := ⟨.hbmCfg, 0, 0⟩
def hbmReg_ERR : Fld := ⟨.hbmReg, 63, 63⟩
def hbmReg_HWM : Fld := ⟨.hbmReg, 39, 32⟩
def hbmReg_LWM : Fld := ⟨.hbmReg, 31, 24⟩
def hbmReg_STEP : Fld := ⟨.hbmReg, 23, 16⟩
def hbmReg_HORIZON : Fld := ⟨.hbmReg, 15, 8⟩
def hbmReg_THR_EN : Fld := ⟨.hbmReg, 0, 0⟩
def hbmMaster_RT : Fld := ⟨.hbmMaster, 63, 63⟩
def hbmMaster_DL_DEFAULT : Fld := ⟨.hbmMaster, 47, 32⟩
def hbmMaster_GUAR : Fld := ⟨.hbmMaster, 23, 16⟩
def hbmMaster_WEIGHT : Fld := ⟨.hbmMaster, 7, 0⟩
def hbmTl_LEVEL : Fld := ⟨.hbmTl, 4, 0⟩
def nbuCfg_CHAIN_LEN : Fld := ⟨.nbuCfg, 41, 32⟩
def nbuCfg_LONG_SEQ : Fld := ⟨.nbuCfg, 0, 0⟩
def nbuStatus_BUSY : Fld := ⟨.nbuStatus, 63, 63⟩
def nbuStatus_QUEUE : Fld := ⟨.nbuStatus, 61, 56⟩
def nbuStatus_RESULT : Fld := ⟨.nbuStatus, 55, 49⟩
def nbuStatus_DONE_SEQ : Fld := ⟨.nbuStatus, 31, 0⟩
def nbuSubmit_ADDR : Fld := ⟨.nbuSubmit, 47, 7⟩
def nbuSubmitRes_STATE : Fld := ⟨.nbuSubmitRes, 63, 62⟩
def nbuSubmitRes_HANDLE : Fld := ⟨.nbuSubmitRes, 31, 0⟩
def nbuUnit_BUSY : Fld := ⟨.nbuUnit, 60, 60⟩
def nbuUnit_QUEUE : Fld := ⟨.nbuUnit, 59, 56⟩
def nbuUnit_STEP : Fld := ⟨.nbuUnit, 55, 52⟩
def nbuUnit_SLICE : Fld := ⟨.nbuUnit, 51, 42⟩
def nbuUnit_CE_SECT : Fld := ⟨.nbuUnit, 15, 0⟩
def dmSubmit_ADDR : Fld := ⟨.dmSubmit, 47, 7⟩
def dmSubmitRes_STATE : Fld := ⟨.dmSubmitRes, 63, 62⟩
def dmSubmitRes_HANDLE : Fld := ⟨.dmSubmitRes, 31, 0⟩
def dmStatus_BUSY : Fld := ⟨.dmStatus, 63, 63⟩
def dmStatus_QUEUE : Fld := ⟨.dmStatus, 62, 56⟩
def dmStatus_RESULT : Fld := ⟨.dmStatus, 55, 49⟩
def dmStatus_DONE_SEQ : Fld := ⟨.dmStatus, 31, 0⟩
def dmChan_BUSY : Fld := ⟨.dmChan, 63, 63⟩
def dmChan_POLY : Fld := ⟨.dmChan, 1, 0⟩
def dmChanSeq_NEXT_SEQ : Fld := ⟨.dmChanSeq, 63, 0⟩
def lnkCtl_ENABLE : Fld := ⟨.lnkCtl, 63, 63⟩
def lnkCtl_RETRAIN : Fld := ⟨.lnkCtl, 62, 62⟩
def lnkCtl_RECAL : Fld := ⟨.lnkCtl, 61, 61⟩
def lnkCtl_DEFER : Fld := ⟨.lnkCtl, 60, 60⟩
def lnkCtl_RECAL_LANE : Fld := ⟨.lnkCtl, 59, 58⟩
def lnkCfg_RETRY_TIMEOUT : Fld := ⟨.lnkCfg, 63, 48⟩
def lnkCfg_RETRY_LIMIT : Fld := ⟨.lnkCfg, 47, 44⟩
def lnkCfg_SILENCE_US : Fld := ⟨.lnkCfg, 31, 16⟩
def lnkCfg_RECAL_THRESH : Fld := ⟨.lnkCfg, 15, 0⟩
def lnkStat_STATE : Fld := ⟨.lnkStat, 63, 60⟩
def lnkStat_LANES : Fld := ⟨.lnkStat, 59, 56⟩
def lnkStat_NEG_REV : Fld := ⟨.lnkStat, 55, 48⟩
def lnkStat_MGMT_REASON : Fld := ⟨.lnkStat, 47, 44⟩
def lnkStat_RECAL_RESULT : Fld := ⟨.lnkStat, 43, 42⟩
def lnkStat_FAILS : Fld := ⟨.lnkStat, 41, 40⟩
def lnkPartner_VENDOR : Fld := ⟨.lnkPartner, 63, 48⟩
def lnkPartner_DEVICE : Fld := ⟨.lnkPartner, 47, 32⟩
def lnkPartner_FCL : Fld := ⟨.lnkPartner, 31, 24⟩
def lnkPartner_REV_MAX : Fld := ⟨.lnkPartner, 23, 16⟩
def lnkPartner_PORT : Fld := ⟨.lnkPartner, 15, 12⟩
def lnkPartner_VALID : Fld := ⟨.lnkPartner, 11, 11⟩
def lnkPartner_TOWER : Fld := ⟨.lnkPartner, 10, 10⟩
def lnkPartner_NODE : Fld := ⟨.lnkPartner, 9, 0⟩
def lnkPartnerSn_SERIAL : Fld := ⟨.lnkPartnerSn, 63, 0⟩
def lnkErr_ERR : Fld := ⟨.lnkErr, 16, 0⟩
def lnkCntRetry_REPLAYS : Fld := ⟨.lnkCntRetry, 63, 32⟩
def lnkCntRetry_RETRY_SENT : Fld := ⟨.lnkCntRetry, 31, 0⟩
def lnkCntFec_CORR_SYM : Fld := ⟨.lnkCntFec, 63, 32⟩
def lnkCntFec_UNCORR_CW : Fld := ⟨.lnkCntFec, 31, 0⟩
def lnkCntDrop_FLITS : Fld := ⟨.lnkCntDrop, 63, 32⟩
def lnkCntDrop_MSGS : Fld := ⟨.lnkCntDrop, 31, 0⟩
def lnkLane_CORR_SYM : Fld := ⟨.lnkLane, 63, 32⟩
def lnkLane_RECALS : Fld := ⟨.lnkLane, 31, 24⟩
def lnkLane_MARGIN : Fld := ⟨.lnkLane, 23, 16⟩
def lnkLane_OUT : Fld := ⟨.lnkLane, 0, 0⟩
def rtrCfg_LOCK : Fld := ⟨.rtrCfg, 63, 63⟩
def rtrCfg_EXPRESS_EN : Fld := ⟨.rtrCfg, 62, 62⟩
def rtrCfg_DX : Fld := ⟨.rtrCfg, 58, 54⟩
def rtrCfg_DY : Fld := ⟨.rtrCfg, 53, 50⟩
def rtrCfg_DZ : Fld := ⟨.rtrCfg, 49, 46⟩
def rtrCfg_NODE : Fld := ⟨.rtrCfg, 41, 32⟩
def rtrCfg_E2E_US : Fld := ⟨.rtrCfg, 31, 16⟩
def rtrCfg_TOPO_S : Fld := ⟨.rtrCfg, 15, 0⟩
def rtrStat_TOPO : Fld := ⟨.rtrStat, 63, 62⟩
def rtrStat_REASON : Fld := ⟨.rtrStat, 61, 58⟩
def rtrStat_PORT : Fld := ⟨.rtrStat, 57, 55⟩
def rtrStat_LARGE : Fld := ⟨.rtrStat, 54, 54⟩
def rtrStat_TIME_HOLD : Fld := ⟨.rtrStat, 53, 53⟩
def rtrTimeCfg_MASTER : Fld := ⟨.rtrTimeCfg, 63, 63⟩
def rtrTimeCfg_PARENT : Fld := ⟨.rtrTimeCfg, 59, 56⟩
def rtrTimeCfg_INTERVAL : Fld := ⟨.rtrTimeCfg, 15, 0⟩
def rtrCollSubmit_ADDR : Fld := ⟨.rtrCollSubmit, 47, 7⟩
def rtrCollStat_STATE : Fld := ⟨.rtrCollStat, 63, 62⟩
def rtrCollStat_QUEUE : Fld := ⟨.rtrCollStat, 61, 57⟩
def rtrCollStat_RESULT : Fld := ⟨.rtrCollStat, 56, 50⟩
def rtrTopo_MODE : Fld := ⟨.rtrTopo, 63, 62⟩
def rtrTopo_PORT : Fld := ⟨.rtrTopo, 59, 56⟩
def rtrTopo_TOWER : Fld := ⟨.rtrTopo, 55, 55⟩
def rtrTopo_NODE : Fld := ⟨.rtrTopo, 54, 45⟩
def rtrTopoSn_SERIAL : Fld := ⟨.rtrTopoSn, 63, 0⟩
def rtrPortStat_ROUTED : Fld := ⟨.rtrPortStat, 63, 63⟩
def rtrPortStat_WHY : Fld := ⟨.rtrPortStat, 62, 60⟩
def rtrPortStat_DISCARDS : Fld := ⟨.rtrPortStat, 31, 0⟩
def rtrAdmitBase_RD : Fld := ⟨.rtrAdmitBase, 63, 63⟩
def rtrAdmitBase_WR : Fld := ⟨.rtrAdmitBase, 62, 62⟩
def rtrAdmitBase_LINE : Fld := ⟨.rtrAdmitBase, 47, 7⟩
def rtrAdmitLimit_LINE : Fld := ⟨.rtrAdmitLimit, 47, 7⟩
def rtrDetour_ENTRIES : Fld := ⟨.rtrDetour, 63, 0⟩
def dbgCtl_FREEZE : Fld := ⟨.dbgCtl, 63, 63⟩
def dbgCtl_CLEAR : Fld := ⟨.dbgCtl, 62, 62⟩
def dbgMarkSel_SELECTORS : Fld := ⟨.dbgMarkSel, 31, 0⟩
def dbgTraceBase_CHUNK : Fld := ⟨.dbgTraceBase, 47, 12⟩
def dbgTraceSize_C : Fld := ⟨.dbgTraceSize, 20, 0⟩
def dbgTraceCtl_EN : Fld := ⟨.dbgTraceCtl, 63, 63⟩
def dbgTraceCtl_MODE : Fld := ⟨.dbgTraceCtl, 62, 61⟩
def dbgTraceCtl_PRE : Fld := ⟨.dbgTraceCtl, 60, 57⟩
def dbgTraceCtl_TRIGGER : Fld := ⟨.dbgTraceCtl, 56, 56⟩
def dbgTraceCtl_EXPORT_EN : Fld := ⟨.dbgTraceCtl, 55, 55⟩
def dbgTraceCtl_REMOTE : Fld := ⟨.dbgTraceCtl, 54, 54⟩
def dbgTraceCtl_NODE : Fld := ⟨.dbgTraceCtl, 53, 43⟩
def dbgTraceCtl_RING : Fld := ⟨.dbgTraceCtl, 42, 32⟩
def dbgTraceCtl_SAMPLE_US : Fld := ⟨.dbgTraceCtl, 31, 16⟩
def dbgTraceCtl_SAMPLE_MASK : Fld := ⟨.dbgTraceCtl, 8, 0⟩
def dbgTraceStat_STATE : Fld := ⟨.dbgTraceStat, 63, 61⟩
def dbgTraceStat_WRAPPED : Fld := ⟨.dbgTraceStat, 60, 60⟩
def dbgTraceStat_TRIGGERED : Fld := ⟨.dbgTraceStat, 59, 59⟩
def dbgTraceStat_NOKEY : Fld := ⟨.dbgTraceStat, 58, 58⟩
def dbgTraceStat_TRIG_OFF : Fld := ⟨.dbgTraceStat, 57, 32⟩
def dbgTraceStat_DISCARDED : Fld := ⟨.dbgTraceStat, 31, 0⟩
def dbgTracePtr_WPTR : Fld := ⟨.dbgTracePtr, 63, 0⟩
def dbgTraceTrig_ON_FAULT : Fld := ⟨.dbgTraceTrig, 63, 63⟩
def dbgTraceTrig_ON_TYPE : Fld := ⟨.dbgTraceTrig, 62, 62⟩
def dbgTraceTrig_ON_MARK : Fld := ⟨.dbgTraceTrig, 61, 61⟩
def dbgTraceTrig_TYPE : Fld := ⟨.dbgTraceTrig, 23, 16⟩
def dbgTraceTrig_ID : Fld := ⟨.dbgTraceTrig, 15, 0⟩
def dbgExportDst_DST : Fld := ⟨.dbgExportDst, 47, 7⟩
def dbgBrk_RESUME : Fld := ⟨.dbgBrk, 63, 63⟩
def dbgBrk_COUNT : Fld := ⟨.dbgBrk, 62, 47⟩
def dbgBrk_PBID : Fld := ⟨.dbgBrk, 46, 36⟩
def dbgBrk_GSLOT : Fld := ⟨.dbgBrk, 35, 30⟩
def dbgBrk_PC : Fld := ⟨.dbgBrk, 23, 0⟩
def dbgPeekCtl_GO : Fld := ⟨.dbgPeekCtl, 63, 63⟩
def dbgPeekCtl_RESULT : Fld := ⟨.dbgPeekCtl, 62, 60⟩
def dbgPeekCtl_KIND : Fld := ⟨.dbgPeekCtl, 59, 59⟩
def dbgPeekCtl_SLICE : Fld := ⟨.dbgPeekCtl, 58, 49⟩
def dbgPeekCtl_GSLOT : Fld := ⟨.dbgPeekCtl, 48, 43⟩
def dbgPeekCtl_LANE : Fld := ⟨.dbgPeekCtl, 42, 38⟩
def dbgPeekCtl_CROSS : Fld := ⟨.dbgPeekCtl, 37, 34⟩
def dbgPeekCtl_ITEM : Fld := ⟨.dbgPeekCtl, 33, 10⟩
def dbgPeekCtl_WORD : Fld := ⟨.dbgPeekCtl, 9, 0⟩
def dbgPeekData_WORD : Fld := ⟨.dbgPeekData, 63, 0⟩
def dbgEngBusy_BUSY : Fld := ⟨.dbgEngBusy, 47, 0⟩
def dbgEngStall_STALL : Fld := ⟨.dbgEngStall, 47, 0⟩
def dbgEngIdle_IDLE : Fld := ⟨.dbgEngIdle, 47, 0⟩
def dbgEngRsel_LAST : Fld := ⟨.dbgEngRsel, 63, 58⟩
def dbgEngRsel_SEL_B : Fld := ⟨.dbgEngRsel, 13, 8⟩
def dbgEngRsel_SEL_A : Fld := ⟨.dbgEngRsel, 5, 0⟩
def dbgEngRcntA_RCNT_A : Fld := ⟨.dbgEngRcntA, 47, 0⟩
def dbgEngRcntB_RCNT_B : Fld := ⟨.dbgEngRcntB, 47, 0⟩
def dbgEngX0_X0 : Fld := ⟨.dbgEngX0, 47, 0⟩
def dbgEngX1_RETS : Fld := ⟨.dbgEngX1, 63, 32⟩
def dbgEngX1_TAKEN : Fld := ⟨.dbgEngX1, 31, 0⟩
def fusHold_STEP : Fld := ⟨.fusHold, 63, 60⟩
def fusHold_REASON : Fld := ⟨.fusHold, 59, 52⟩
def fusHold_DETAIL : Fld := ⟨.fusHold, 51, 42⟩
def fusBoot_POLICY : Fld := ⟨.fusBoot, 63, 62⟩
def fusBoot_LAST_TEST : Fld := ⟨.fusBoot, 61, 60⟩
def fusBoot_LAST_PASS : Fld := ⟨.fusBoot, 59, 59⟩
def fusService_ACTION : Fld := ⟨.fusService, 63, 62⟩
def fusService_RESULT : Fld := ⟨.fusService, 61, 60⟩
def fusService_SLICE : Fld := ⟨.fusService, 9, 0⟩
def fusTestReq_KIND : Fld := ⟨.fusTestReq, 63, 62⟩
def fusTestReq_DEFER : Fld := ⟨.fusTestReq, 61, 61⟩
def fusTestReq_INDEX : Fld := ⟨.fusTestReq, 9, 0⟩
def fusTestRes_STATE : Fld := ⟨.fusTestRes, 63, 61⟩
def fusTestRes_KIND : Fld := ⟨.fusTestRes, 60, 59⟩
def fusTestRes_INDEX : Fld := ⟨.fusTestRes, 9, 0⟩
def fusSerial_SERIAL : Fld := ⟨.fusSerial, 63, 0⟩
def fusTime_TIME : Fld := ⟨.fusTime, 63, 0⟩
def fusFullUtc_TIME : Fld := ⟨.fusFullUtc, 63, 0⟩
def licStat_FABRIC : Fld := ⟨.licStat, 63, 63⟩
def licStat_LONG_NBU : Fld := ⟨.licStat, 62, 62⟩
def licStat_DEEP_TRACE : Fld := ⟨.licStat, 61, 61⟩
def licStat_RESULT : Fld := ⟨.licStat, 60, 58⟩
def licInstall_OP : Fld := ⟨.licInstall, 63, 62⟩
def licInstall_ADDR : Fld := ⟨.licInstall, 47, 7⟩
def licInstall_FEATURE : Fld := ⟨.licInstall, 1, 0⟩
def mgtStat_HOST_FACING : Fld := ⟨.mgtStat, 63, 63⟩
def mgtStat_PEER_OK : Fld := ⟨.mgtStat, 62, 62⟩
def mgtStat_ACTIVE_BANK : Fld := ⟨.mgtStat, 61, 61⟩
def mgtStat_TRIAL : Fld := ⟨.mgtStat, 60, 60⟩
def mgtStat_FALLBACK : Fld := ⟨.mgtStat, 59, 59⟩
def mgtStat_STORE_ERR : Fld := ⟨.mgtStat, 58, 58⟩
def mgtStat_ARB_COUNT : Fld := ⟨.mgtStat, 57, 51⟩
def mgtStat_BAD_PKT : Fld := ⟨.mgtStat, 31, 0⟩
def mgtProtCfg_HWIN_EN : Fld := ⟨.mgtProtCfg, 63, 63⟩
def mgtProtCfg_KWIN_EN : Fld := ⟨.mgtProtCfg, 62, 62⟩
def mgtProtCfg_HOST_DENY : Fld := ⟨.mgtProtCfg, 31, 0⟩
def mgtHwin_RD : Fld := ⟨.mgtHwin, 63, 63⟩
def mgtHwin_WR : Fld := ⟨.mgtHwin, 62, 62⟩
def mgtHwin_LAST : Fld := ⟨.mgtHwin, 42, 32⟩
def mgtHwin_FIRST : Fld := ⟨.mgtHwin, 10, 0⟩
def mgtKwinBase_EN : Fld := ⟨.mgtKwinBase, 63, 63⟩
def mgtKwinBase_LINE : Fld := ⟨.mgtKwinBase, 47, 7⟩
def mgtKwinLimit_LINE : Fld := ⟨.mgtKwinLimit, 47, 7⟩
def fusPos_FUSE : Fld := ⟨.fusPos, 63, 62⟩
def fusPos_USE : Fld := ⟨.fusPos, 61, 59⟩
def fusPos_CAUSE : Fld := ⟨.fusPos, 58, 55⟩
def fusPos_SUB : Fld := ⟨.fusPos, 54, 45⟩
def fusPos_TPEND : Fld := ⟨.fusPos, 44, 44⟩
def hngStat_STATE : Fld := ⟨.hngStat, 63, 62⟩
def hngStat_RETRIES : Fld := ⟨.hngStat, 47, 32⟩
def hngStat_UNAVAIL : Fld := ⟨.hngStat, 31, 0⟩
def hngTx_COUNT : Fld := ⟨.hngTx, 63, 0⟩
def hngRx_COUNT : Fld := ⟨.hngRx, 63, 0⟩
def brkSchedStat_REG_UNITS : Fld := ⟨.brkSchedStat, 37, 32⟩
def brkSchedStat_GROUPS : Fld := ⟨.brkSchedStat, 20, 16⟩
def brkSchedStat_DIVERGENT : Fld := ⟨.brkSchedStat, 12, 8⟩
def brkSchedStat_PARKED : Fld := ⟨.brkSchedStat, 4, 0⟩
def brkPlace_SP_USED : Fld := ⟨.brkPlace, 40, 32⟩
def brkPlace_SP_SIZE : Fld := ⟨.brkPlace, 30, 28⟩
def brkPlace_BLOCKS : Fld := ⟨.brkPlace, 27, 22⟩
def brkPlace_POINTER : Fld := ⟨.brkPlace, 21, 20⟩
def brkPlace_HEAD_WAIT : Fld := ⟨.brkPlace, 19, 19⟩
def brkArray_GROUP_GOOD : Fld := ⟨.brkArray, 47, 40⟩
def brkArray_WIDTH : Fld := ⟨.brkArray, 6, 0⟩
def brkArrayStat_OWNER : Fld := ⟨.brkArrayStat, 57, 56⟩
def brkArrayStat_QUEUE : Fld := ⟨.brkArrayStat, 55, 51⟩
def brkArrayStat_BATCHES : Fld := ⟨.brkArrayStat, 50, 48⟩
def brkArrayStat_FRONT_VALID : Fld := ⟨.brkArrayStat, 47, 47⟩
def brkArrayStat_FRONT_FMT : Fld := ⟨.brkArrayStat, 46, 43⟩
def brkArrayStat_FRONT_SPARSE : Fld := ⟨.brkArrayStat, 42, 40⟩
def brkArrayStat_BACK_VALID : Fld := ⟨.brkArrayStat, 39, 39⟩
def brkArrayStat_BACK_FMT : Fld := ⟨.brkArrayStat, 38, 35⟩
def brkArrayStat_BACK_SPARSE : Fld := ⟨.brkArrayStat, 34, 32⟩
def brkArrayStat_BUF1_INT : Fld := ⟨.brkArrayStat, 15, 15⟩
def brkArrayStat_BUF1_EXTENT : Fld := ⟨.brkArrayStat, 14, 8⟩
def brkArrayStat_BUF0_INT : Fld := ⟨.brkArrayStat, 7, 7⟩
def brkArrayStat_BUF0_EXTENT : Fld := ⟨.brkArrayStat, 6, 0⟩
def brkTpStat_RUNNING : Fld := ⟨.brkTpStat, 56, 56⟩
def brkTpStat_LEN_CLAMP : Fld := ⟨.brkTpStat, 55, 55⟩
def brkTpStat_RESULT : Fld := ⟨.brkTpStat, 54, 48⟩
def brkTpStat_PENDING : Fld := ⟨.brkTpStat, 47, 40⟩
def brkTpStat_HANDLE : Fld := ⟨.brkTpStat, 31, 0⟩
def brkTpKsteps_RUN : Fld := ⟨.brkTpKsteps, 63, 32⟩
def brkTpKsteps_SKIPPED : Fld := ⟨.brkTpKsteps, 31, 0⟩
def brkTpTiles_DRAINED : Fld := ⟨.brkTpTiles, 63, 32⟩
def brkTpTiles_SKIPPED : Fld := ⟨.brkTpTiles, 31, 0⟩
def brkRtStat_BUSY : Fld := ⟨.brkRtStat, 56, 56⟩
def brkRtStat_PHASE : Fld := ⟨.brkRtStat, 55, 54⟩
def brkRtStat_QUEUE : Fld := ⟨.brkRtStat, 53, 49⟩
def brkRtStat_RESULT : Fld := ⟨.brkRtStat, 48, 42⟩
def brkRtStat_HANDLE : Fld := ⟨.brkRtStat, 31, 0⟩
def brkRtCount_ROWS : Fld := ⟨.brkRtCount, 63, 32⟩
def brkRtCount_DROPPED : Fld := ⟨.brkRtCount, 31, 0⟩
def brkL1Stat_WAYS : Fld := ⟨.brkL1Stat, 57, 54⟩
def brkL1Stat_MREG : Fld := ⟨.brkL1Stat, 53, 47⟩
def brkL1Stat_WAIT : Fld := ⟨.brkL1Stat, 46, 38⟩
def brkL1Stat_ORPHAN : Fld := ⟨.brkL1Stat, 37, 31⟩
def brkL1Cnt_HIT_SECT : Fld := ⟨.brkL1Cnt, 63, 32⟩
def brkL1Cnt_MISS_SECT : Fld := ⟨.brkL1Cnt, 31, 0⟩
def brkVportStat_RDQ : Fld := ⟨.brkVportStat, 56, 50⟩
def brkVportStat_RETQ : Fld := ⟨.brkVportStat, 49, 42⟩
def brkVportStat_WRQ : Fld := ⟨.brkVportStat, 41, 36⟩
def brkVportStat_WACK : Fld := ⟨.brkVportStat, 35, 28⟩
def brkVportStat_CE_SECT : Fld := ⟨.brkVportStat, 15, 0⟩
def brkEvStat_AVAIL : Fld := ⟨.brkEvStat, 63, 63⟩
def brkEvStat_OPEN : Fld := ⟨.brkEvStat, 62, 62⟩
def brkEvStat_HELD : Fld := ⟨.brkEvStat, 61, 56⟩
def brkEvStat_SKIPPED : Fld := ⟨.brkEvStat, 55, 32⟩
def brkEvStat_DROPPED : Fld := ⟨.brkEvStat, 31, 0⟩
def brkEvData_ENTRY : Fld := ⟨.brkEvData, 63, 0⟩
def brkEvCtl_SKIP : Fld := ⟨.brkEvCtl, 63, 63⟩
def brkEngBusy_BUSY : Fld := ⟨.brkEngBusy, 47, 0⟩
def brkEngStall_STALL : Fld := ⟨.brkEngStall, 47, 0⟩
def brkEngIdle_IDLE : Fld := ⟨.brkEngIdle, 47, 0⟩
def brkEngRsel_LAST : Fld := ⟨.brkEngRsel, 63, 58⟩
def brkEngRsel_SEL_B : Fld := ⟨.brkEngRsel, 13, 8⟩
def brkEngRsel_SEL_A : Fld := ⟨.brkEngRsel, 5, 0⟩
def brkEngRcntA_RCNT_A : Fld := ⟨.brkEngRcntA, 47, 0⟩
def brkEngRcntB_RCNT_B : Fld := ⟨.brkEngRcntB, 47, 0⟩
def brkEngX0_X0 : Fld := ⟨.brkEngX0, 47, 0⟩
def brkEngX1_RETS : Fld := ⟨.brkEngX1, 63, 32⟩
def brkEngX1_TAKEN : Fld := ⟨.brkEngX1, 31, 0⟩

end Fld

end Sys2Proof.Machine
end

