-- ==== Sys2Proof/Machine/SysState.lean ====
section
/-! DEFINITION. The state of power delivery (R531 to R559), thermal management (R560 to R579), clocks, resets, wear and
global stop (R580 to R614), bring-up, fuses and service (R615 to R643), management and the persistent store (R644 to R668)
and the trace and debug units (R686 to R691), as plain data, beside their registers. -/

namespace Sys2Proof.Machine

open Sys2Proof

/-- The fuses of a tower (R1, R2, R20, R622, R651): part number, enabled and spare positions, HBM stacks and link ports,
the module's serial number, the HBM limits and refresh interval, the die steppings, the hashes of the firmware keys with their revocation, the anti-rollback counter
and the hash of the licence key. -/
structure Fuses where
  part : Nat
  enabled : BitVec 576
  spare : BitVec 576
  stackN : Nat
  links : Nat
  serial : Nat
  hbmThrot : Nat
  hbmShut : Nat
  trefi : Nat
  cdieRev : Nat
  bdieRev : Nat
  keyHash : List Nat
  revoked : Nat
  arb : Nat
  licHash : Nat
  deriving DecidableEq, Repr

/-- An entry of the error history (R663): device time, calendar time, event code, detail. -/
structure HistEnt where
  time : Nat
  utc : Nat
  code : Nat
  detail : Nat
  deriving DecidableEq, Repr

/-- The content of a record of the persistent store, by its type (R663). A lock-out map lists causes, substitutions, the column groups
out of service, trip times, locked regions and last trips. -/
inductive StorePay where
  | lockMap (cause sub : SMap Nat) (lost : SMap Nat) (trips : SMap (List Nat)) (locked : List Nat) (last : SMap Nat)
  | retired (lines : List Nat)
  | history (ents : List HistEnt)
  | wear (sq cycles : Nat) (stack : List Int)
  | calib (vset theta : Nat) (ppr : SMap Nat)
  | config (c : TowerCfg)
  | memtest (fullUtc lastTest lastPass hold : Nat)
  | activation (bank trialStart restarts : Nat) (trial : Bool)
  | key (image : Nat)
  | none
  deriving DecidableEq, Repr

/-- A slot that has been programmed: sequence, content, and whether it is valid under R661. -/
structure Slot where
  seq : Nat
  pay : StorePay
  ok : Bool
  deriving DecidableEq, Repr

/-- The two banks of a record type (R661): the slots programmed since the bank was erased, first slot first. -/
structure Banks where
  a : List Slot
  b : List Slot
  deriving DecidableEq, Repr

/-- The persistent store of a tower (R660 to R664): the image banks (byte length and bytes as a number), the record banks by
type, and the types that await a write of their latest content. -/
structure Store where
  imgA : Option (Nat × Nat)
  imgB : Option (Nat × Nat)
  recs : SMap Banks
  due : List Nat
  deriving DecidableEq, Repr

/-- Stages of a reset in progress of a tower (R594, R595). -/
inductive RstStage where
  | none
  | cdQuiesce | cdHeld | cdSelftest | cdArray | cdTrain | cdFill
  | warmQuiesce
  deriving DecidableEq, Repr

/-- Bring-up (R615): the step in progress, 0 when none; the stage within it; the next position of the rail sequence of R548,
7 when every rail is up; whether the rails are being raised for a warm reset from HOLD (R625); the form of the memory test, the
pattern in progress; failed cores and slices of steps 4 and 5, by cause; rows that fail the full memory test without a
spare; the reason of the last HOLD of a bring-up (R618); whether the store has been read since the cold reset. -/
structure Boot where
  step : Nat
  sub : Nat
  rail : Nat
  again : Bool
  full : Bool
  pattern : Nat
  bad : SMap Nat
  rows : List (Nat × Nat)
  lastHold : Nat
  restored : Bool
  deriving DecidableEq, Repr

/-- A power region, beside `PWR_REGION` and `THM_REGION` (R539 to R545, R564 to R569): device times of the trips that count;
the levels that hold it in thermal retention (bit 0 compute, bit 1 base); whether a trip's hold-off has ended; runs of
samples above and within the estimate's bound; when each level last changed; since when each level has been 15 with its value
at its limit; since when its value has been more than 5 °C below. -/
structure Region where
  trips : List Nat
  ret : Nat
  heldOff : Bool
  estHi : Nat
  estLo : Nat
  lcAt : Nat
  lbAt : Nat
  lcHot : Option Nat
  lbHot : Option Nat
  cool : Option Nat
  deriving DecidableEq, Repr

/-- A temperature sensor, beside `THM_SENSOR` (R562, R570): runs of samples far from and near its neighbours, and its past
values with device time and mark, newest first. -/
structure Sensor where
  far : Nat
  near : Nat
  hist : List (Nat × Int × Bool)
  deriving DecidableEq, Repr

/-- Thermal logic: die sensors by index, stack readouts, when the tower level last changed. -/
structure Therm where
  sens : SMap Sensor
  hbm : SMap Sensor
  ltAt : Nat
  deriving DecidableEq, Repr

/-- Bond wear (R583, R584): the last extreme, the direction of travel, the reversals, newest first, and the squares of the
counted ranges, in squares of 0.125 °C. -/
structure Wear where
  ext : Option Int
  dir : Int
  stack : List Int
  sq : Nat
  deriving DecidableEq, Repr

/-- A management controller (R644 to R659), beside `MGT_STAT`: whether it runs its firmware; its endpoint identifier; device
times of the last heartbeat received and of the end of an announced restart; transports with a secured session; the header of
the running image; an image being written; device time of the trial's start and watchdog restarts during it; the
public licence key its firmware carries; a tower configuration written since bring-up (R620). -/
structure Mgmt where
  up : Bool
  eid : Nat
  hbAt : Option Nat
  quiet : Nat
  sessions : List Transport
  image : Nat
  updating : Bool
  trialAt : Nat
  restarts : Nat
  licKey : Nat
  newCfg : Option TowerCfg
  deriving DecidableEq, Repr

/-- An item recorded at a global stop (R601): byte count, address, bytes and check bits. -/
structure StopItem where
  bytes : Nat
  addr : Nat
  data : Nat
  chk : Nat
  deriving DecidableEq, Repr

/-- A write of the trace writer within one line that it has not yet made; `sent` when its HBM request has been made. -/
structure TrWr where
  addr : Nat
  n : Nat
  v : Nat
  sent : Bool
  deriving DecidableEq, Repr

/-- The trace writer (R686 to R688), beside its registers: the cause of a trigger that waits, chunks still to be filled before
it freezes, chunks filled, chunks exported, whether an export is on its way to another module, the slice after which the
FIFOs are looked at next, the writes not yet made, and the STATE that the writer takes once they are performed. -/
structure Trace where
  want : Option Nat
  left : Option Nat
  filled : Nat
  exported : Nat
  sending : Bool
  rot : Nat
  out : List TrWr
  goal : Option Nat
  deriving DecidableEq, Repr

/-- The parts of a tower that its narrower resets do not reach, and its power, thermal and debug state. `rails` are the
power-good bits of R551, `aux` the 6 V bus and the auxiliary rail; `vcoreBad` VCORE out of regulation; `railAt` the device
time of the last rail fault that forced a reset; `osc` the oscillator cycles in progress while device time runs from it;
`tests` brick tests by slice: 1 running, 2 deferred, 3 waiting for a wake, 4 and 5 as 1 and 3 with a deferred one behind; `cals` HBM calibrations; `badGroups` column groups found bad
(R634); `cleared` lock-outs whose clearing awaits a reset (R631); `subs` the spare at each replaced position (R622); `stopQ` the items recorded at a global stop, by crossing (R601, R612);
`stopSeen` whether a `brkpt` has stopped a group since the last RESUME (R690); `peek` the operands of a peek in progress (R691). -/
structure Sys where
  fuses : Fuses
  store : Store
  hist : List HistEnt
  cfg : Option TowerCfg
  rails : Nat
  aux : Bool
  vcoreBad : Bool
  railAt : Option Nat
  rst : RstStage
  selftest : Bool
  boot : Boot
  osc : Option Nat
  regions : SMap Region
  therm : Therm
  wear : Wear
  tests : SMap Nat
  cals : List Nat
  badGroups : SMap Nat
  cleared : List Nat
  subs : SMap Nat
  mgmt : Mgmt
  stopQ : SMap (List StopItem)
  stopSeen : Bool
  peek : Option Nat
  trace : Trace
  deriving DecidableEq, Repr

/-- The module's pins and input (R531, R699): input within range for 10 ms, `COLD_RST_n` asserted, fluid on the sense trace. -/
structure Pins where
  input : Bool
  coldRst : Bool
  leak : Bool
  deriving DecidableEq, Repr

def Banks.init : Banks := ⟨[], []⟩
def Region.init : Region := ⟨[], 0, false, 0, 0, 0, 0, none, none, none⟩
def Sensor.init : Sensor := ⟨0, 0, []⟩
def Therm.init : Therm := ⟨[], [], 0⟩
def Wear.init : Wear := ⟨none, 0, [], 0⟩
def Boot.init : Boot := ⟨0, 0, 0, false, false, 0, [], [], 0, false⟩
def Mgmt.init : Mgmt := ⟨false, 0, none, 0, [], 0, false, 0, 0, 0, none⟩
def Trace.init : Trace := ⟨none, none, 0, 0, false, 575, [], none⟩
def Store.init : Store := ⟨none, none, [], []⟩

end Sys2Proof.Machine
end

