-- ==== Sys2Proof/Machine/State.lean ====
section
/-! DEFINITION. The state of the module as plain data. -/

namespace Sys2Proof.Machine

open Sys2Proof

/-- A fault reported to the command processor (R81, R507); `info` is the faulting address, or the code of a TRAP (R512). -/
structure FaultRep where
  launch : Nat
  slice : Nat
  gid : Nat
  code : Nat
  lane : Nat
  pc : R32
  info : Nat
  deriving DecidableEq, Repr

/-- What the module sends to the outside, in order: the model's own record of its outputs. -/
inductive Out where
  | msix (t : TowerId) (vector : Nat)
  | bisnp (line : Nat) (inv : Bool)
  | cxlRead (addr : Nat) (bytes : Nat)
  | cxlWrite (addr : Nat) (data : Nat) (mask : Nat)
  | memData (addr : Nat) (data : Nat) (poison : Bool)
  | barData (off : Nat) (data : Option Nat)
  | snoopRsp (addr : Nat) (data : Option Nat)
  | platform (t : TowerId) (event : Nat)
  | mctp (t : TowerId) (transport : Transport) (typ : Nat) (data : Nat)
  | flit (t : TowerId) (port : Nat) (f : Flit)
  deriving DecidableEq, Repr

/-- A tower of the module. `time17` is device time in 1/17 ns; `cyc` counts ARITH cycles, `counted` those in which the
counters count, `fwd` and `fwdCounted` those of each in forwarded mode (R585), `cdBase` the counted ones when the bricks last began to
count; `setNow` holds the W1C bits, by register offset, that hardware has set in the present MGMT cycle (R9); `eng` holds the counter records of base-die
engines (R670); `irq` vectors whose message is pending; `faultIn` faults on their way to the command processor; `cdrReq`,
`warmReq` and `brickReq` resets asked for. -/
structure Tower where
  id : TowerId
  regs : SMap Word
  setNow : SMap Nat
  bricks : SMap Brick
  mem : MemSys
  ports : SMap Port
  rtr : Rtr
  routes : SMap RtUnit
  nbu : Nbu
  cp : Cp
  dm : Dm
  lmap : SMap Nat
  irq : List Nat
  enabled : BitVec 576
  lock : SMap Nat
  time17 : Nat
  cyc : Nat
  fwd : Nat
  counted : Nat
  fwdCounted : Nat
  cdBase : Nat
  eng : SMap Rec
  faultIn : List FaultRep
  cdrReq : Option Nat
  warmReq : Option Nat
  brickReq : List (Nat × Nat)
  sys : Sys
  deriving DecidableEq, Repr

structure State where
  t0 : Tower
  t1 : Tower
  host : HostPort
  pins : Pins
  out : List Out
  pending : List Instr
  deriving DecidableEq, Repr

def Sys.init (f : Fuses) (st : Store) : Sys where
  fuses := f
  store := { st with due := [] }
  hist := []
  cfg := none
  rails := 0
  aux := false
  vcoreBad := false
  railAt := none
  rst := .none
  selftest := false
  boot := Boot.init
  osc := none
  regions := []
  therm := Therm.init
  wear := Wear.init
  tests := []
  cals := []
  badGroups := []
  cleared := []
  subs := []
  mgmt := Mgmt.init
  stopQ := []
  stopSeen := false
  peek := none
  trace := Trace.init

/-- A tower without power, or at the start of a cold reset (R548, R590): every register at its Reset column, every unit empty, but
for its fuses and its persistent store. -/
def Tower.cold (t : TowerId) (f : Fuses) (st : Store) : Tower where
  id := t
  regs := []
  setNow := []
  bricks := []
  mem := MemSys.init
  ports := []
  rtr := Rtr.init
  routes := []
  nbu := Nbu.init
  cp := Cp.init
  dm := Dm.init
  lmap := []
  irq := []
  enabled := 0
  lock := []
  time17 := 0
  cyc := 0
  fwd := 0
  counted := 0
  fwdCounted := 0
  cdBase := 0
  eng := []
  faultIn := []
  cdrReq := none
  warmReq := none
  brickReq := []
  sys := Sys.init f st

/-- The fuses of a module (R1, R2, R20, R622): STZ-1024-576, with the first 512 positions of each tower enabled and the
others spare. Which positions of a module are enabled, its serial number, steppings, HBM limits, refresh interval and key hashes differ
from module to module: a DESIGN CHOICE (log entry 1), and unsafe to lean on. -/
def Fuses.sample : Fuses where
  part := 0
  enabled := BitVec.ofNat 576 (2 ^ 512 - 1)
  spare := BitVec.ofNat 576 (2 ^ 576 - 2 ^ 512)
  stackN := 6
  links := 8
  serial := 1
  hbmThrot := 760
  hbmShut := 840
  trefi := 122
  cdieRev := 1
  bdieRev := 1
  keyHash := [0, 0, 0, 0]
  revoked := 0
  arb := 0
  licHash := 0

/-- A tower at the start of a cold reset (R590, R594, R615): step 1 of bring-up is in progress. -/
def Tower.coldStart (t : TowerId) (f : Fuses) (st : Store) : Tower :=
  let x := Tower.cold t f st
  { x with sys := { x.sys with boot := { x.sys.boot with step := 1 } } }

/-- The module at the start of a cold reset, its input within range and no rail up yet (R531, R548, R615): every register at its
Reset column, every memory empty, the persistent store erased. Nothing waits. -/
def State.reset : State where
  t0 := Tower.coldStart .t0 Fuses.sample Store.init
  t1 := Tower.coldStart .t1 Fuses.sample Store.init
  host := { HostPort.init with railBad := true }
  pins := ⟨true, false, false⟩
  out := []
  pending := []

/-- Why a command stops the machine. -/
inductive Fault where
  /-- Raised by `THERMAL_SAMPLE`, `POWER_CAP_EVALUATE`, `TRAIN_COMPLETE`, `MCTP_PACKET` and `PLDM_FIRMWARE_UPDATE` on an operand that spells no
  command (`Instr.wf`): a sample without a reading for each sensor or monitor, lanes that are no order of the four, bytes beyond a stated
  length. No such command reaches the module. Safe: the machine stops where nothing happens on the hardware. -/
  | illFormed
  deriving DecidableEq, Repr

/-- Why a command has no meaning. -/
inductive Refusal where
  /-- Raised by no command: every row of the table has its meaning. Safe. -/
  | notModelled (mnemonic : String)
  deriving DecidableEq, Repr

end Sys2Proof.Machine
end

