-- ==== Sys2Proof/Machine/RegFile.lean ====
section
/-! DEFINITION. The stored registers of a tower: reset values, reading and writing fields, and the decoding of a
control-space offset (R7, R13, R29, R30). Registers whose content is other state are computed in Observe.lean. -/

namespace Sys2Proof.Machine

open Sys2Proof

/-- Offset of a register within a tower's control space. -/
def Reg.off (r : Reg) (i j : Nat) : Nat := r.info.base + r.info.s1 * i + r.info.s2 * j

/-- Reset values of `HBM_MASTER[m]` (R352, R366): RT, DL_DEFAULT, GUAR and WEIGHT. -/
def hbmMasterReset (m : Nat) : Nat :=
  let rt := decide (m = 27) || decide (m = 28) || decide (m = 31)
  let dl := if m = 27 then 1000 else if m = 28 then 125 else if m = 31 then 250 else 0
  let guar := if m < 24 then 6 else if m < 27 then 8 else if m = 27 then 24 else if m = 28 then 16
    else if m = 29 then 16 else if m = 30 then 2 else 4
  let wt := if m = 30 then 4 else 16
  (if rt then 2 ^ 63 else 0) + dl * 2 ^ 32 + guar * 2 ^ 16 + wt

/-- The Reset column of a register as one word. -/
def Reg.reset (t : TowerId) (r : Reg) (i : Nat) : Nat :=
  match r with
  | .hbmMaster => hbmMasterReset i
  | .pwrCfg => 288 * 2 ^ 48
  | .thmLimits => 125
  | .glbId => (r.info.flds.foldl (fun a f => a + f.reset * 2 ^ f.lo) 0) + t.nat * 2 ^ 16
  | .mgtStat => (r.info.flds.foldl (fun a f => a + f.reset * 2 ^ f.lo) 0) + (1 - t.nat) * 2 ^ 63
  | _ => r.info.flds.foldl (fun a f => a + f.reset * 2 ^ f.lo) 0

/-- The stored value of a register. -/
def Tower.reg (x : Tower) (r : Reg) (i : Nat := 0) (j : Nat := 0) : Nat :=
  match sfind x.regs (r.off i j) with
  | some w => w.toNat
  | none => r.reset x.id i

/-- Stores a register. -/
def Tower.setReg (x : Tower) (r : Reg) (i j v : Nat) : Tower :=
  { x with regs := sset x.regs (r.off i j) (BitVec.ofNat 64 v) }

/-- A field of a stored register. -/
def Tower.fget (x : Tower) (f : Fld) (i : Nat := 0) (j : Nat := 0) : Nat := bits (x.reg f.reg i j) f.hi f.lo

/-- Sets a field of a stored register. -/
def Tower.fset (x : Tower) (f : Fld) (v : Nat) (i : Nat := 0) (j : Nat := 0) : Tower :=
  x.setReg f.reg i j (putBits (x.reg f.reg i j) f.hi f.lo v)

/-- Device time in nanoseconds; State counts it in 1/17 ns, the unit in which one ARITH cycle is a whole number. -/
def Tower.timeNs (t : Tower) : Nat := t.time17 / 17 % 2 ^ 64

/-- MEM cycles among `n` ARITH cycles, `fwd` of them in forwarded mode (R585): three to two, one to one in forwarded mode. -/
def memCycles (n fwd : Nat) : Nat := fwd + (n - fwd) * 3 / 2

/-- 1 in forwarded mode (R585, R587). -/
def Tower.forwarded (x : Tower) : Nat := 1 - x.fget Fld.clkStat_MODE

/-- MEM cycles of a tower (R35, R585). -/
def Tower.memCyc (x : Tower) : Nat := memCycles x.cyc x.fwd

/-- Saturating addition to a field. -/
def Tower.fadd (x : Tower) (f : Fld) (k : Nat) (i : Nat := 0) (j : Nat := 0) : Tower :=
  x.fset f (satAdd (f.hi + 1 - f.lo) (x.fget f i j) k) i j

/-- A vector's message becomes pending; while it is pending, further events merge into it (R492). -/
def Tower.raise (x : Tower) (n : Nat) : Tower := if x.irq.contains n then x else { x with irq := x.irq ++ [n] }

/-- A PlatformEventMessage becomes pending (R649): bits of `THM_EVENT` by number, of `PWR_FAULT` from 16, `ECC_INT.UE` 32, entry
to HOLD 33. It is kept with the vectors, from 64 on. -/
def Tower.notify (x : Tower) (k : Nat) : Tower := x.raise (64 + k)

/-- Hardware sets W1C bits of a register: a write of 1 in the same MGMT cycle does not clear them (R9). -/
def Tower.setW1c (x : Tower) (r : Reg) (i bits : Nat) : Tower :=
  { x.setReg r i 0 (x.reg r i ||| bits) with setNow := smod 0 x.setNow (r.off i 0) fun m => m ||| bits }

/-- Hardware sets a W1C bit (R9). -/
def Tower.setFlag (x : Tower) (f : Fld) : Tower := x.setW1c f.reg 0 (2 ^ f.lo)

/-- 1 clears a W1C bit (R8) that hardware does not set in the same MGMT cycle (R9); `m` are the W1C bits written 1. -/
def Tower.clearBits (x : Tower) (r : Reg) (i m : Nat) : Tower :=
  let c := x.reg r i &&& m
  x.setReg r i 0 (x.reg r i - (c - (c &&& sget 0 x.setNow (r.off i 0))))

/-- Sets bits of `ECC_INT`; each newly set bit raises the ECC interrupt (R398, R492). -/
def Tower.eccSet (x : Tower) (f : Fld) (v : Nat) : Tower :=
  let y := x.setW1c f.reg 0 (v <<< f.lo)
  if y.reg .eccInt = x.reg .eccInt then y
  else (if y.fget Fld.eccInt_UE = x.fget Fld.eccInt_UE then y else y.notify 32).raise 8

def Tower.modSys (x : Tower) (f : Sys → Sys) : Tower := { x with sys := f x.sys }

/-- A trace trigger with its cause (R687): 1 TRIGGER, 2 fault, 3 TYPE, 4 marker. Only the first since the writer was armed counts. -/
def Tower.raiseTrig (x : Tower) (cause : Nat) : Tower :=
  if x.fget Fld.dbgTraceCtl_EN = 1 ∧ x.fget Fld.dbgTraceStat_STATE = 1 ∧ x.fget Fld.dbgTraceStat_TRIGGERED = 0 then
    (x.fset Fld.dbgTraceStat_TRIGGERED 1).modSys fun y => { y with trace := { y.trace with want := some cause } }
  else x

/-- A record of the persistent store awaits a write of its latest content (R662). -/
def Tower.markDue (x : Tower) (typ : Nat) : Tower :=
  x.modSys fun y => if y.store.due.contains typ then y else { y with store := { y.store with due := y.store.due ++ [typ] } }

/-- An entry of the error history, a ring of 256 (R663). -/
def Tower.histAdd (x : Tower) (code detail : Nat) : Tower :=
  let e : HistEnt := ⟨x.time17 / 17 % 2 ^ 64, x.reg .fusTime, code, detail⟩
  (x.modSys fun y => { y with hist := y.hist.drop (y.hist.length - 255) ++ [e] }).markDue 3

/-- Sets a bit of `LNK_ERR`; a newly set bit raises the link interrupt (R439, R492). -/
def Tower.lnkErr (x : Tower) (p n : Nat) : Tower :=
  let y := x.setW1c .lnkErr p (2 ^ n)
  if (x.fget Fld.lnkErr_ERR p).testBit n then y else y.raise 9

/-- The register, with its indices, at an offset of the control space. -/
def regAt (off : Nat) : Option (Reg × Nat × Nat) :=
  Reg.all.findSome? fun r =>
    let d := r.info
    if off < d.base then none
    else
      let x := off - d.base
      let i := if d.n1 = 1 then 0 else x / d.s1
      let y := if d.n1 = 1 then x else x % d.s1
      let j := if d.n2 = 1 then 0 else y / d.s2
      let z := if d.n2 = 1 then y else y % d.s2
      if z = 0 ∧ i < d.n1 ∧ j < d.n2 then some (r, i, j) else none

/-- A write of the RW fields of a register, in the bits of `mask` (R8, R482). -/
def Tower.writeRw (x : Tower) (r : Reg) (i j v mask : Nat) : Tower :=
  let m := r.info.flds.foldl (fun a f => if f.acc = .rw then a + ((2 ^ (f.hi + 1 - f.lo) - 1) <<< f.lo) else a) 0 &&& mask
  let old := x.reg r i j
  x.setReg r i j ((old - (old &&& m)) + (v &&& m))

/-- A field of a `RTR_CFG` value is out of range (R442, R471). -/
def rtrCfgBad (e : Nat) : Bool :=
  let dx := bits e 58 54
  let dy := bits e 53 50
  let dz := bits e 49 46
  decide (dx = 0) || decide (16 < dx) || decide (dy = 0) || decide (8 < dy) || decide (dz = 0) || decide (8 < dz) ||
    decide (dx ≤ bits e 35 32) || decide (dy ≤ bits e 38 36) || decide (dz ≤ bits e 41 39) || decide (bits e 31 16 = 0) ||
    decide (bits e 15 0 = 0)

/-- The fields of `RTR_CFG` that LOCK closes (R471). -/
def Tower.rtrLocked (x : Tower) (e : Nat) : Tower :=
  (((((x.fset Fld.rtrCfg_LOCK (bits e 63 63)).fset Fld.rtrCfg_EXPRESS_EN (bits e 62 62)).fset Fld.rtrCfg_DX (bits e 58 54)).fset
    Fld.rtrCfg_DY (bits e 53 50)).fset Fld.rtrCfg_DZ (bits e 49 46)).fset Fld.rtrCfg_NODE (bits e 41 32)

/-- A write of `RTR_CFG` (R444, R471): once LOCK is 1 only the RW fields change; EXPRESS_EN stays 0 on STZ-896-480. -/
def Tower.rtrWrite (x : Tower) (e : Nat) : Tower :=
  if rtrCfgBad e then x
  else
    let low := (x.fset Fld.rtrCfg_E2E_US (bits e 31 16)).fset Fld.rtrCfg_TOPO_S (bits e 15 0)
    if x.fget Fld.rtrCfg_LOCK = 1 then low
    else
      let x := low.rtrLocked e
      if x.sys.fuses.part = 2 then x.fset Fld.rtrCfg_EXPRESS_EN 0 else x

/-- A write of `RTR_TOPO[i]` or `RTR_TOPO_SN[i]` (R473). -/
def Tower.topoWrite (x : Tower) (r : Reg) (i e : Nat) : Tower :=
  if x.fget Fld.rtrCfg_LOCK = 1 ∨ (r = .rtrTopo ∧ bits e 63 62 = 3) then x else x.writeRw r i 0 e (2 ^ 64 - 1)

/-- Removes the stored values of every register of the given domains, which then read their Reset column (R13). -/
def Tower.resetRegs (x : Tower) (keep : Reg → Bool) : Tower :=
  { x with regs := x.regs.filter fun p => match regAt p.1 with
      | some (r, _, _) => keep r
      | none => true }

end Sys2Proof.Machine
end

