-- ==== Sys2Proof/Machine/Fp.lean ====
section
/-! DEFINITION. Floating-point arithmetic by exact values and one explicit rounding (R96 to R107): decoding a format
of R100 to an exact dyadic value, arithmetic on exact values, and encoding under a rounding direction with the
flags of R99. Rounding codes are those of R97 and R101: 0 RN, 1 RZ, 2 RD, 3 RU, 4 SR. -/

namespace Sys2Proof.Machine

/-- An exact floating-point value: a NaN (signalling or quiet), an infinity by sign, or (−1)^s · m · 2^e. -/
inductive FV where
  | nan (sig : Bool)
  | inf (s : Bool)
  | fin (s : Bool) (m : Nat) (e : Int)
  deriving DecidableEq, Repr

/-- How a format uses its top exponent: as IEEE 754, as OCP E4M3 (one NaN, no infinity), or for finite values only. -/
inductive FKind where
  | ieee | e4m3 | finite
  deriving DecidableEq, Repr

/-- A binary format: exponent width, fraction width, bias and kind. -/
structure FFmt where
  eb : Nat
  mb : Nat
  bias : Nat
  kind : FKind
  deriving DecidableEq, Repr

def fp32 : FFmt := ⟨8, 23, 127, .ieee⟩
def fp16 : FFmt := ⟨5, 10, 15, .ieee⟩
def bf16 : FFmt := ⟨8, 7, 127, .ieee⟩
def e4m3 : FFmt := ⟨4, 3, 7, .e4m3⟩
def e5m2 : FFmt := ⟨5, 2, 15, .ieee⟩
def e3m2 : FFmt := ⟨3, 2, 3, .finite⟩
def e2m3 : FFmt := ⟨2, 3, 1, .finite⟩
def e2m1 : FFmt := ⟨2, 1, 1, .finite⟩

/-- The float format of a code of R100 (element format for the MX codes). -/
def fmtOf : Nat → Option FFmt
  | 0 => some fp32
  | 1 => some fp16
  | 2 => some bf16
  | 3 => some e4m3
  | 4 => some e5m2
  | 5 => some e4m3
  | 6 => some e5m2
  | 7 => some e3m2
  | 8 => some e2m3
  | 9 => some e2m1
  | _ => none

/-- Width and signedness of an integer format code of R100. -/
def intFmt : Nat → Option (Nat × Bool)
  | 0xA => some (8, true)
  | 0xB => some (8, false)
  | 0xC => some (32, true)
  | 0xD => some (32, false)
  | 0xE => some (16, true)
  | 0xF => some (16, false)
  | _ => none

/-- Width in bits of a format code of R100. -/
def fmtWidth (c : Nat) : Nat :=
  match fmtOf c with
  | some f => f.eb + f.mb + 1
  | none => match intFmt c with
    | some p => p.1
    | none => 0

/-- FPSTAT bits of R99. -/
def flNV : Nat := 16
def flDZ : Nat := 8
def flOF : Nat := 4
def flUF : Nat := 2
def flNX : Nat := 1

/-- Encoding of the largest finite magnitude. -/
def FFmt.maxBits (f : FFmt) : Nat :=
  match f.kind with
  | .ieee => (2 ^ f.eb - 1) * 2 ^ f.mb - 1
  | .e4m3 => 2 ^ (f.eb + f.mb) - 2
  | .finite => 2 ^ (f.eb + f.mb) - 1

/-- Encoding of infinity of an IEEE-like format. -/
def FFmt.infBits (f : FFmt) : Nat := (2 ^ f.eb - 1) * 2 ^ f.mb

/-- Canonical NaN (R96, R102). -/
def FFmt.nanBits (f : FFmt) : Nat :=
  match f.kind with
  | .ieee => f.infBits + 2 ^ (f.mb - 1)
  | .e4m3 => 2 ^ (f.eb + f.mb) - 1
  | .finite => 0

def FFmt.signBit (f : FFmt) (s : Bool) : Nat := if s then 2 ^ (f.eb + f.mb) else 0

/-- The smallest normal exponent. -/
def FFmt.emin (f : FFmt) : Int := 1 - (f.bias : Int)

/-- Decodes an encoding; with ftz a subnormal is a zero of its sign (R97). -/
def fDecode (f : FFmt) (ftz : Bool) (x : Nat) : FV :=
  let s := x.testBit (f.eb + f.mb)
  let ex := bits x (f.eb + f.mb - 1) f.mb
  let fr := x % 2 ^ f.mb
  if f.kind = .ieee ∧ ex = 2 ^ f.eb - 1 then
    if fr = 0 then .inf s else .nan (!(fr.testBit (f.mb - 1)))
  else if f.kind = .e4m3 ∧ ex = 2 ^ f.eb - 1 ∧ fr = 2 ^ f.mb - 1 then .nan false
  else if ex = 0 then
    if ftz then .fin s 0 0 else .fin s fr (f.emin - f.mb)
  else .fin s (2 ^ f.mb + fr) ((ex : Int) - f.bias - f.mb)

/-- Rounds m · 2^e to a multiple of 2^q under a rounding code: the multiple, and whether it is inexact. SR follows
R107 with the given draw. -/
def roundAt (rm : Nat) (s : Bool) (m : Nat) (e q : Int) (draw : Nat) : Nat × Bool :=
  if e ≥ q then (m <<< (e - q).toNat, false)
  else
    let d := (q - e).toNat
    let t := m >>> d
    let r := m % 2 ^ d
    let half := 2 ^ (d - 1)
    let up : Bool :=
      match rm with
      | 0 => decide (r > half) || (decide (r = half) && t.testBit 0)
      | 2 => s && decide (r ≠ 0)
      | 3 => (!s) && decide (r ≠ 0)
      | 4 =>
        let d' := min d 16
        decide ((r >>> (d - d')) + (draw % 2 ^ 32) >>> (32 - d') ≥ 2 ^ d')
      | _ => false
    (if up then t + 1 else t, decide (r ≠ 0))

/-- The overflow result of R96 and R102 by rounding direction and saturation. -/
def fOverflow (f : FFmt) (rm : Nat) (sat : Bool) (s : Bool) : Nat :=
  let toMax : Bool := match rm with
    | 1 => true
    | 2 => !s
    | 3 => s
    | _ => false
  f.signBit s +
    (if sat || toMax then f.maxBits else
      match f.kind with
      | .ieee => f.infBits
      | .e4m3 => f.nanBits
      | .finite => f.maxBits)

/-- Encodes a finite non-zero value: bits and flags (R96, R99, R102, R107). -/
def fRound (f : FFmt) (rm : Nat) (ftz sat : Bool) (draw : Nat) (s : Bool) (m : Nat) (e : Int) : Nat × Nat :=
  let top : Int := e + (Nat.log2 m : Nat)
  let q : Int := max top f.emin - f.mb
  let r := roundAt rm s m e q draw
  let enc := (q + f.mb - f.emin).toNat * 2 ^ f.mb + r.1
  if enc > f.maxBits then (fOverflow f rm sat s, flOF + flNX)
  else
    let free := roundAt rm s m e (top - f.mb) draw
    let tiny : Bool := decide (top < f.emin) &&
      !(decide (top = f.emin - 1) && decide (free.1 = 2 ^ (f.mb + 1)))
    if ftz && decide (enc < 2 ^ f.mb) then (f.signBit s, flUF + flNX)
    else (f.signBit s + enc, if r.2 then (if tiny then flUF + flNX else flNX) else 0)

/-- Encodes an exact value. `sat` is the conversion saturation of R101 and R102. -/
def fEncode (f : FFmt) (rm : Nat) (ftz sat : Bool) (draw : Nat) : FV → Nat × Nat
  | .nan _ => (f.nanBits, 0)
  | .inf s =>
    match f.kind with
    | .ieee => (f.signBit s + f.infBits, 0)
    | .e4m3 => (f.signBit s + (if sat then f.maxBits else f.nanBits), 0)
    | .finite => (f.signBit s + f.maxBits, 0)
  | .fin s m e => if m = 0 then (f.signBit s, 0) else fRound f rm ftz sat draw s m e

def FV.isNan : FV → Bool
  | .nan _ => true
  | _ => false

def FV.isSig : FV → Bool
  | .nan b => b
  | _ => false

def FV.neg : FV → FV
  | .nan b => .nan b
  | .inf s => .inf (!s)
  | .fin s m e => .fin (!s) m e

def FV.abs : FV → FV
  | .nan b => .nan b
  | .inf _ => .inf false
  | .fin _ m e => .fin false m e

/-- The signed mantissa of m · 2^e brought to exponent e0 ≤ e. -/
def dyAt (s : Bool) (m : Nat) (e e0 : Int) : Int :=
  let v : Int := ((m <<< (e - e0).toNat : Nat) : Int)
  if s then -v else v

/-- The value of a signed mantissa; zero takes the given sign. -/
def dyVal (zs : Bool) (v e : Int) : FV :=
  if v = 0 then .fin zs 0 0 else .fin (decide (v < 0)) v.natAbs e

/-- Exact addition with the sign of an exact zero by rounding direction; the flags are NV or none (R96). -/
def fvAdd (rm : Nat) : FV → FV → FV × Nat
  | .nan a, y => (.nan false, if a || y.isSig then flNV else 0)
  | x, .nan b => (.nan false, if x.isSig || b then flNV else 0)
  | .inf a, .inf b => if a = b then (.inf a, 0) else (.nan false, flNV)
  | .inf a, _ => (.inf a, 0)
  | _, .inf b => (.inf b, 0)
  | .fin a m e, .fin b n d =>
    let e0 := min e d
    let zs : Bool := if a = b then a else decide (rm = 2)
    (dyVal zs (dyAt a m e e0 + dyAt b n d e0) e0, 0)

/-- Exact multiplication (R96). -/
def fvMul : FV → FV → FV × Nat
  | .nan a, y => (.nan false, if a || y.isSig then flNV else 0)
  | x, .nan b => (.nan false, if x.isSig || b then flNV else 0)
  | .inf a, .inf b => (.inf (xor a b), 0)
  | .inf a, .fin b n _ => if n = 0 then (.nan false, flNV) else (.inf (xor a b), 0)
  | .fin a m _, .inf b => if m = 0 then (.nan false, flNV) else (.inf (xor a b), 0)
  | .fin a m e, .fin b n d => (.fin (xor a b) (m * n) (e + d), 0)

/-- Exact fused multiply-add: zero times infinity raises NV even when the addend is a quiet NaN (R96). -/
def fvFma (rm : Nat) (x y z : FV) : FV × Nat :=
  let p := fvMul x y
  let r := fvAdd rm p.1 z
  (r.1, p.2 ||| r.2 ||| (if z.isSig then flNV else 0))

/-- Order of two values that are no NaN. -/
def fvCmp : FV → FV → Ordering
  | .inf a, .inf b => if a = b then .eq else if a then .lt else .gt
  | .inf a, _ => if a then .lt else .gt
  | _, .inf b => if b then .gt else .lt
  | .fin a m e, .fin b n d =>
    let e0 := min e d
    compare (dyAt a m e e0) (dyAt b n d e0)
  | _, _ => .eq

def FV.sign : FV → Bool
  | .nan _ => false
  | .inf s => s
  | .fin s _ _ => s

/-- `fmin` and `fmax` with the NaN and zero rules of R98; a signalling NaN raises NV (R96). -/
def fvMinMax (wantMax : Bool) (x y : FV) : FV × Nat :=
  let fl := if x.isSig || y.isSig then flNV else 0
  if x.isNan then (if y.isNan then .nan false else y, fl)
  else if y.isNan then (x, fl)
  else
    let less : Bool := match fvCmp x y with
      | .lt => true
      | .gt => false
      | .eq => x.sign && !y.sign
    (if less = wantMax then y else x, fl)

/-- The compare codes of R87 on an order. -/
def cmpHolds (c : Nat) (o : Ordering) : Bool :=
  match c, o with
  | 0, .eq => true
  | 1, .lt => true
  | 1, .gt => true
  | 2, .lt => true
  | 3, .lt => true
  | 3, .eq => true
  | 4, .gt => true
  | 5, .gt => true
  | 5, .eq => true
  | _, _ => false

/-- Floating-point compare of R88: a comparison with a NaN gives UO; a signalling NaN raises NV (R96). -/
def fvCompare (c : Nat) (uo : Bool) (x y : FV) : Bool × Nat :=
  let fl := if x.isSig || y.isSig then flNV else 0
  if x.isNan || y.isNan then (uo, fl) else (cmpHolds c (fvCmp x y), fl)

/-- SAT of R97: the result clamped to [0.0, 1.0], a NaN becoming +0.0; −0.0 is within the range and stays. -/
def satUnit (f : FFmt) (x : Nat) : Nat :=
  match fDecode f false x with
  | .nan _ => 0
  | v =>
    if fvCmp v (.fin false 0 0) = .lt then 0
    else if fvCmp v (.fin false 1 0) = .gt then (fEncode f 0 false false 0 (.fin false 1 0)).1
    else x

/-- AA and NA (or their B and C forms) of R97: absolute value before negation. -/
def fvMods (neg ab : Bool) (v : FV) : FV :=
  let w := if ab then v.abs else v
  if neg then w.neg else w

/-- An exact value as an integer rounded under a direction, and whether the rounding changed it. -/
def fvToInt (rm : Nat) : FV → Int × Bool
  | .fin s m e =>
    let r := roundAt rm s m e 0 0
    (if s then -((r.1 : Nat) : Int) else ((r.1 : Nat) : Int), r.2)
  | _ => (0, false)

/-- Smallest and largest value of an integer format. -/
def intLimits (w : Nat) (sg : Bool) : Int × Int :=
  if sg then (-((2 ^ (w - 1) : Nat) : Int), ((2 ^ (w - 1) : Nat) : Int) - 1) else (0, ((2 ^ w : Nat) : Int) - 1)

def clampInt (lo hi x : Int) : Int := if x < lo then lo else if hi < x then hi else x

/-- The integer value of an encoding. -/
def intDecode (w : Nat) (sg : Bool) (x : Nat) : Int := if sg then sext w x else ((x % 2 ^ w : Nat) : Int)

/-- An integer as an exact value. -/
def fvOfInt (i : Int) : FV := .fin (decide (i < 0)) i.natAbs 0

/-- A conversion between two format codes of R100 under R101 and R102: destination bits and flags. -/
def convert (src dst rm : Nat) (sat ftz : Bool) (draw x : Nat) : Nat × Nat :=
  match intFmt src, intFmt dst with
  | some (w, sg), some (v, tg) =>
    let l := intLimits v tg
    (wrapN v (clampInt l.1 l.2 (intDecode w sg x)), 0)
  | some (w, sg), none =>
    match fmtOf dst with
    | some g => fEncode g rm false sat draw (fvOfInt (intDecode w sg x))
    | none => (0, 0)
  | none, some (v, tg) =>
    match fmtOf src with
    | some f =>
      let l := intLimits v tg
      match fDecode f ftz (x % 2 ^ (f.eb + f.mb + 1)) with
      | .nan _ => (0, flNV)
      | .inf s => (wrapN v (if s then l.1 else l.2), flNV)
      | .fin s m e =>
        let r := fvToInt rm (.fin s m e)
        let fl := if r.2 then flNX else 0
        if r.1 < l.1 ∨ l.2 < r.1 then (wrapN v (clampInt l.1 l.2 r.1), flNV + fl) else (wrapN v r.1, fl)
    | none => (0, 0)
  | none, none =>
    match fmtOf src, fmtOf dst with
    | some f, some g =>
      let v := fDecode f ftz (x % 2 ^ (f.eb + f.mb + 1))
      let r := fEncode g rm ftz sat draw v
      (r.1, r.2 ||| (if v.isSig then flNV else 0))
    | _, _ => (0, 0)

/-- One draw of a stochastic-rounding generator: three xor-shift steps (R105). -/
def srStep (s : R32) : R32 :=
  let a := s ^^^ (s <<< 13)
  let b := a ^^^ (a >>> 17)
  b ^^^ (b <<< 5)

/-- The generator after n draws. -/
def srAfter : Nat → R32 → R32
  | 0, s => s
  | n + 1, s => srAfter n (srStep s)

/-- The seed rule of R105: zero is replaced by 0x9E37_79B9. -/
def srSeed (x : R32) : R32 := if x = 0 then 0x9E3779B9 else x

end Sys2Proof.Machine
end

