-- ==== Sys2Proof/Machine/Operands.lean ====
section
/-! DEFINITION. Instruction words: the fields of R67 to R71, the operand forms an instruction offers, and the decode
checks of R72, R73, R76 and R78. -/

namespace Sys2Proof.Machine

open Sys2Proof

/-- The fields of an instruction's words (R67 to R69, R71). In format I, B, C, USEL and XMOD are zero. -/
structure Fields where
  op : Nat
  fmt : Nat
  gEn : Bool
  gNeg : Bool
  gP : Nat
  d : Nat
  a : Nat
  b : Nat
  c : Nat
  mod : Nat
  usel : Nat
  xmod : Nat
  imm24 : Nat
  w2 : Nat
  deriving DecidableEq, Repr

/-- Splits a first word and a second word into fields. -/
def fieldsOf (w0 w2 : Word) : Fields :=
  let x := w0.toNat
  let i : Bool := bits x 55 54 = 1
  { op := bits x 63 56
    fmt := bits x 55 54
    gEn := x.testBit 53
    gNeg := x.testBit 52
    gP := bits x 51 49
    d := bits x 48 41
    a := bits x 40 33
    b := if i then 0 else bits x 32 25
    c := if i then 0 else bits x 24 17
    mod := if i then bits x 32 24 else bits x 16 8
    usel := if i then 0 else bits x 7 5
    xmod := if i then 0 else bits x 4 0
    imm24 := if i then bits x 23 0 else 0
    w2 := w2.toNat }

/-- Length in bytes (R64). -/
def Fields.len (f : Fields) : Nat := if f.fmt = 2 then 16 else 8

def Fields.ua (f : Fields) : Bool := f.usel.testBit 2
def Fields.ub (f : Fields) : Bool := f.usel.testBit 1
def Fields.uc (f : Fields) : Bool := f.usel.testBit 0

/-- What an operand position names: nothing; n consecutive g registers, or u registers when `u` allows USEL (R75,
R78); a u register in D (class U); a predicate, an even predicate; or a plain number. -/
inductive OpK where
  | none
  | g (n : Nat) (u : Bool)
  | ud
  | pred
  | predEven
  | num
  deriving DecidableEq, Repr

/-- The instruction classes of R44. -/
inductive Cls where
  | i | f | s | u | b | m
  deriving DecidableEq, Repr

/-- What the opcode map and the per-instruction sections say of an encoding: the formats offered (R83), whether format
X carries an immediate in place of B (R71), the class, whether it is group-level (R72), the operand positions, the
allowed MOD and XMOD bits, further conditions, and the predicates read and
written besides the guard. -/
structure OpInfo where
  r : Bool
  i : Bool
  x : Bool
  immX : Bool := true
  cls : Cls
  grp : Bool := false
  kd : Fields → OpK
  ka : Fields → OpK
  kb : Fields → OpK
  kc : Fields → OpK
  modMask : Nat := 0
  xmodMask : Nat := 0
  ok : Fields → Bool := fun _ => true
  ps : Fields → List Nat := fun _ => []
  pd : Fields → List Nat := fun _ => []

/-- One operand position is well formed (R73, R76, R78). -/
def opkOk (k : OpK) (v : Nat) (u : Bool) : Bool :=
  match k with
  | .none => decide (v = 0) && !u
  | .g n ua => decide (v % n = 0) && (!u || (ua && decide (v < 64)))
  | .ud => decide (v < 64) && !u
  | .pred => decide (v < 8) && !u
  | .predEven => decide (v < 8) && decide (v % 2 = 0) && !u
  | .num => !u

/-- The g registers a position covers, without g255. -/
def opkG (k : OpK) (v : Nat) (u : Bool) : List Nat :=
  match k with
  | .g n _ => if u then [] else ((List.range n).map fun j => v + j).filter fun r => r < 255
  | _ => []

/-- The u registers a position covers. -/
def opkU (k : OpK) (v : Nat) (u : Bool) : List Nat :=
  match k with
  | .g n _ => if u then (List.range n).map fun j => v + j else []
  | .ud => [v]
  | _ => []

/-- Whether B is replaced by an immediate. -/
def Fields.bImm (f : Fields) (o : OpInfo) : Bool := decide (f.fmt = 1) || (decide (f.fmt = 2) && o.immX)

/-- The allowed bits of a field. -/
def within (v mask : Nat) : Bool := decide (v &&& mask = v)

/-- The decode check of R72 and R73: everything but reserved opcodes. -/
def legal (o : OpInfo) (f : Fields) : Bool :=
  (match f.fmt with
    | 0 => o.r
    | 1 => o.i
    | 2 => o.x
    | _ => false) &&
  (f.gEn || (!f.gNeg && decide (f.gP = 0))) &&
  (!o.grp || !f.gEn) &&
  opkOk (o.kd f) f.d false &&
  opkOk (o.ka f) f.a f.ua &&
  (if f.bImm o then decide (f.b = 0) && !f.ub else opkOk (o.kb f) f.b f.ub) &&
  (decide (f.fmt = 1) || opkOk (o.kc f) f.c f.uc) &&
  (!(decide (f.fmt = 2) && o.immX) || decide (f.w2 % 2 ^ 32 = 0)) &&
  within f.mod o.modMask && within f.xmod o.xmodMask && o.ok f

/-- The g registers an instruction names: destination, then sources. -/
def gDst (o : OpInfo) (f : Fields) : List Nat := opkG (o.kd f) f.d false
def gSrc (o : OpInfo) (f : Fields) : List Nat :=
  opkG (o.ka f) f.a f.ua ++ (if f.bImm o then [] else opkG (o.kb f) f.b f.ub) ++
    (if f.fmt = 1 then [] else opkG (o.kc f) f.c f.uc)
def uDst (o : OpInfo) (f : Fields) : List Nat := opkU (o.kd f) f.d false
def uSrc (o : OpInfo) (f : Fields) : List Nat :=
  opkU (o.ka f) f.a f.ua ++ (if f.bImm o then [] else opkU (o.kb f) f.b f.ub) ++
    (if f.fmt = 1 then [] else opkU (o.kc f) f.c f.uc)

/-- REG_RANGE of R50 and R76: a covered g register at or above the allocation. -/
def gRangeBad (o : OpInfo) (f : Fields) (alloc : Nat) : Bool :=
  (gDst o f ++ gSrc o f).any fun r => decide (alloc ≤ r)

/-- The opcodes of R83; every other OP is reserved. -/
def opListed (op : Nat) : Bool :=
  decide (op ≤ 0x0A) || (decide (0x10 ≤ op) && decide (op ≤ 0x1B)) || (decide (0x20 ≤ op) && decide (op ≤ 0x29)) ||
  (decide (0x30 ≤ op) && decide (op ≤ 0x38)) || (decide (0x40 ≤ op) && decide (op ≤ 0x49)) ||
  (decide (0x50 ≤ op) && decide (op ≤ 0x54)) || (decide (0x60 ≤ op) && decide (op ≤ 0x64)) ||
  (decide (0x70 ≤ op) && decide (op ≤ 0x75)) || decide (op = 0x80) ||
  (decide (0xA0 ≤ op) && decide (op ≤ 0xA6)) || (decide (0xB0 ≤ op) && decide (op ≤ 0xB5)) ||
  (decide (0xC0 ≤ op) && decide (op ≤ 0xC5)) || (decide (0xD0 ≤ op) && decide (op ≤ 0xD4)) ||
  (decide (0xE0 ≤ op) && decide (op ≤ 0xE4))

/-- The immediate in place of a 32-bit B (R69 to R71). -/
def immB (o : OpInfo) (flt : Bool) (f : Fields) : R32 :=
  if f.fmt = 1 then
    if flt then BitVec.ofNat 32 (f.imm24 * 256) else BitVec.ofNat 32 (wrapN 32 (sext 24 f.imm24))
  else if f.fmt = 2 && o.immX then BitVec.ofNat 32 (f.w2 >>> 32) else 0

/-- Offset in second-word bits [63:32], signed (R117, R120, R123). -/
def Fields.offset (f : Fields) : Int := sext 32 (f.w2 >>> 32)

/-- Reads a g register of a thread; g255 reads zero (R75). -/
def rdG (th : Thread) (n : Nat) : R32 := if n = 255 then 0 else sget 0 th.g n

/-- Writes a g register of a thread; g255 discards (R75). -/
def wrG (th : Thread) (n : Nat) (v : R32) : Thread := if n = 255 then th else { th with g := sset th.g n v }

def rdU (g : Group) (n : Nat) : R32 := sget 0 g.u n

/-- Reads predicate n (R77). -/
def rdP (th : Thread) (n : Nat) : Bool := th.p.getLsbD (n % 8)

/-- Writes predicate n. -/
def wrP (th : Thread) (n : Nat) (v : Bool) : Thread :=
  { th with p := if v then th.p ||| (1#8 <<< (n % 8)) else th.p &&& ~~~(1#8 <<< (n % 8)) }

def Group.thread (g : Group) (l : Nat) : Thread := g.threads.getD l Thread.init

/-- Reads one register of a position in a lane: a u register of the group or a g register of the thread. -/
def rdReg (g : Group) (l n : Nat) (u : Bool) : R32 := if u then rdU g n else rdG (g.thread l) n

/-- A 64-bit operand from a pair, the even register holding bits [31:0] (R75). -/
def rdPair (g : Group) (l n : Nat) (u : Bool) : Word := (rdReg g l (n + 1) u) ++ (rdReg g l n u)

end Sys2Proof.Machine
end

