-- ==== Sys2Proof/Machine/Flags.lean ====
section
/-! DEFINITION. Flag and predicate computations: carries of R84 and R85, the compare codes of R87, the FPSTAT bits of
R99. -/

namespace Sys2Proof.Machine

/-- Sum with carry-out of A + B + c in 32 bits. -/
def addC (a b : R32) (c : Bool) : R32 × Bool :=
  let x := a.toNat + b.toNat + (if c then 1 else 0)
  (BitVec.ofNat 32 x, decide (2 ^ 32 ≤ x))

/-- The carry of A + NOT B + 1: 1 when no borrow occurs (R85). -/
def subC (a b : R32) : R32 × Bool := addC a (~~~b) true

/-- 64-bit pair sum with carry-out. -/
def addC64 (a b : Word) : Word × Bool :=
  let x := a.toNat + b.toNat
  (BitVec.ofNat 64 x, decide (2 ^ 64 ≤ x))

/-- Order of two words, unsigned or signed. -/
def intCmp (uns : Bool) (a b : R32) : Ordering :=
  if uns then compare a.toNat b.toNat else compare a.toInt b.toInt

/-- BOP of R87: none, and, or, exclusive or with the combining predicate. -/
def bopWith (bop : Nat) (r pc : Bool) : Bool :=
  match bop with
  | 1 => r && pc
  | 2 => r || pc
  | 3 => xor r pc
  | _ => r

end Sys2Proof.Machine
end

