-- ==== Sys2Proof/Machine/Forms.lean ====
section
/-! DEFINITION. The operand form of every instruction of the opcode map (R72 to R125): formats, class, operand positions, the MOD,
XMOD and second-word bits it may set, and the predicates it reads and writes. -/

namespace Sys2Proof.Machine

open Sys2Proof

def isMx (c : Nat) : Bool := decide (5 ≤ c) && decide (c ≤ 9)

/-- The MOD rules of R87: CMP 6 and 7 are reserved; with BOP none, PC and XMOD[0] are zero. -/
def cmpOk (f : Fields) : Bool :=
  decide (bits f.mod 8 6 < 6) &&
    (decide (bits f.mod 4 3 ≠ 0) || (decide (bits f.mod 2 0 = 0) && !f.xmod.testBit 0))

/-- The combining predicate is a source when BOP is used. -/
def cmpPs (f : Fields) : List Nat := if bits f.mod 4 3 = 0 then [] else [bits f.mod 2 0]

def maskBits8 (m : Nat) : List Nat := (List.range 8).filter fun i => m.testBit i

/-- Stochastic rounding is allowed from FP32 to FP16, BF16, E4M3 and E5M2 only (R101). -/
def srOk (src dst : Nat) : Bool := decide (src = 0) && decide (1 ≤ dst) && decide (dst ≤ 4)

/-- The codes and rounding that `cvt` accepts (R101). -/
def cvtOk (f : Fields) : Bool :=
  let s := bits f.xmod 4 1
  let d := bits f.mod 8 5
  let rm := bits f.mod 4 2
  !(decide (5 ≤ s) && decide (s ≤ 9)) && !(decide (5 ≤ d) && decide (d ≤ 9)) &&
    (decide (rm < 4) || (decide (rm = 4) && srOk s d))

/-- The operand form D, A, B of 32-bit registers (R75, R78). -/
def infoDAB (i : Bool) (modMask : Nat) : OpInfo :=
  { r := true, i := i, x := true, cls := .i, kd := fun _ => .g 1 false, ka := fun _ => .g 1 true, kb := fun _ => .g 1 true
    kc := fun _ => .none, modMask := modMask }

/-- The operand form D, A, B, C of 32-bit registers. -/
def infoDABC (i x : Bool) (modMask : Nat) : OpInfo :=
  { infoDAB i modMask with x := x, kc := fun _ => .g 1 true }

/-- The operand form D, A of 32-bit registers, format R only. -/
def infoDA : OpInfo :=
  { infoDAB false 0 with x := false, kb := fun _ => .none }

/-- The predicate that takes a carry-out when MOD[6] is 1 (R84). -/
def carryPd (f : Fields) : List Nat := if f.mod.testBit 6 then [bits f.mod 5 3] else []

def infoIadd : OpInfo := { infoDAB true 0x078 with pd := carryPd }

def infoIaddc : OpInfo := { infoDAB false 0x07F with pd := carryPd, ps := fun f => [bits f.mod 2 0] }

def infoImac64 : OpInfo :=
  { infoDABC false false 0x100 with kd := fun _ => .g 2 false, kc := fun _ => .g 2 true }

def infoIadd64 : OpInfo :=
  { infoDAB false 0x078 with
    kd := fun _ => .g 2 false, ka := fun _ => .g 2 true, kb := fun _ => .g 2 true, pd := carryPd }

def infoPcmp : OpInfo :=
  { infoDAB true 0x1FF with
    kd := fun _ => .pred, xmodMask := 1, ok := cmpOk, ps := cmpPs, pd := fun f => [f.d] }

def infoPcmpH : OpInfo :=
  { infoPcmp with i := false, kd := fun _ => .predEven, xmodMask := 0x11, pd := fun f => [f.d, f.d + 1] }

def infoPfun : OpInfo :=
  { infoDABC false false 0x0FF with
    kd := fun _ => .pred, ka := fun _ => .pred, kb := fun _ => .pred, kc := fun _ => .pred
    ps := fun f => [f.a, f.b, f.c], pd := fun f => [f.d] }

def infoSel : OpInfo := { infoDAB true 0x00F with ps := fun f => [bits f.mod 2 0] }

def infoPredw : OpInfo :=
  { infoDA with ka := fun _ => .none, ps := fun _ => List.range 8 }

def infoWpred : OpInfo :=
  { infoDA with kd := fun _ => .none, modMask := 0x0FF, pd := fun f => maskBits8 f.mod }

def infoTally : OpInfo :=
  { infoDA with
    grp := true, ka := fun _ => .none, modMask := 0x18F
    kd := fun f => if f.mod.testBit 8 then .g 1 false else .pred
    ps := fun f => [bits f.mod 2 0], pd := fun f => if f.mod.testBit 8 then [] else [f.d] }

def infoXlane : OpInfo :=
  { infoDAB true 0x1F8 with
    grp := true
    ok := fun f => decide (bits f.mod 6 4 < 6) &&
      (!f.mod.testBit 3 || decide (bits f.mod 8 7 = 1) || decide (bits f.mod 8 7 = 2)) }

def infoNop : OpInfo :=
  { infoDA with grp := true, kd := fun _ => .none, ka := fun _ => .none }

/-- A is a source of `mov` and `uni.mov` in format R only; B never is. -/
def infoMov : OpInfo :=
  { infoDAB true 0 with
    ka := fun f => if f.fmt = 0 then .g 1 true else .none
    kb := fun _ => .none }

def infoMov64 : OpInfo :=
  { infoDA with r := false, x := true, immX := false, kd := fun _ => .g 2 false, ka := fun _ => .none }

def infoGetsr : OpInfo :=
  { infoDA with ka := fun _ => .none, kb := fun _ => .num, ok := fun f => decide (f.b ≤ 0x15) }

def infoPutsr : OpInfo :=
  { infoDA with grp := true, kd := fun _ => .none, kb := fun _ => .num, ok := fun f => decide (f.b = 0x14) }

/-- The operand form of class U: u D, sources A, B and C (R94). -/
def infoUni (modMask : Nat) : OpInfo :=
  { infoDAB true modMask with cls := .u, grp := true, kd := fun _ => .ud }

def infoUniMov : OpInfo := { infoMov with cls := .u, grp := true, kd := fun _ => .ud }

def infoUniTern : OpInfo := { infoUni 0x0FF with kc := fun _ => .g 1 true }

def infoUniCmp : OpInfo := { infoPcmp with cls := .u, grp := true }

/-- The RM rule of R97. -/
def rmArith (f : Fields) : Bool := decide (bits f.mod 8 6 < 4)

def rmZero (f : Fields) : Bool := decide (bits f.mod 8 6 = 0)

def infoF (i : Bool) (ok : Fields → Bool) : OpInfo := { infoDAB i 0x1FF with cls := .f, ok := ok }

def infoFmac : OpInfo := { infoDABC false true 0x1FF with cls := .f, xmodMask := 3, ok := rmArith }

def infoH (ok : Fields → Bool) : OpInfo := { infoF false ok with xmodMask := 0x10 }

def infoHmac : OpInfo := { infoFmac with xmodMask := 0x13 }

/-- Format X gives A's place to no immediate: B is unused, and the immediate of R71 stands in B's place. -/
def infoCvt : OpInfo :=
  { infoDA with x := true, cls := .f, modMask := 0x1FF, xmodMask := 0x1E, ok := cvtOk }

def infoCvtpk : OpInfo :=
  { infoDAB false 0x1FF with
    x := false, cls := .f, xmodMask := 1
    ok := fun f =>
      let d := bits f.mod 8 5
      decide (1 ≤ d) && decide (d ≤ 4) && decide (bits f.mod 4 2 ≤ 4) && (decide (3 ≤ d) || decide (f.xmod = 0)) }

def infoCvtupk : OpInfo :=
  { infoDA with
    cls := .f, modMask := 0x1E3
    ok := fun f =>
      let d := bits f.mod 8 5
      decide (1 ≤ d) && decide (d ≤ 4) && (decide (3 ≤ d) || decide (bits f.mod 1 0 < 2)) }

def infoFint : OpInfo :=
  { infoDA with cls := .f, modMask := 0x01D, ok := fun f => decide (bits f.mod 4 2 < 4) }

def mxCode (f : Fields) : Bool := decide (5 ≤ bits f.mod 8 5) && decide (bits f.mod 8 5 ≤ 9)

def infoMxpack : OpInfo :=
  { infoDA with
    cls := .s, grp := true, modMask := 0x1FC
    ok := fun f => mxCode f && (decide (bits f.mod 4 2 = 0) || decide (bits f.mod 4 2 = 4)) }

def infoMxunpack : OpInfo := { infoMxpack with modMask := 0x1E0, ok := mxCode }

def infoTrans : OpInfo :=
  { infoDA with cls := .s, modMask := 0x1FC, ok := fun f => decide (bits f.mod 8 5 < 10) }

/-- The operand form of control-flow instructions. -/
def infoBr (fmtI : Bool) (d a : Bool) : OpInfo :=
  { r := !fmtI, i := fmtI, x := false, cls := .b, kd := fun _ => if d then .g 1 false else .none
    ka := fun _ => if a then .g 1 true else .none, kb := fun _ => .none, kc := fun _ => .none }

def infoPlainB (fmtI grp : Bool) (ok : Fields → Bool) : OpInfo :=
  { infoBr fmtI false false with grp := grp, ok := ok }

/-- Fields of the second word (R117). -/
def Fields.mSize (f : Fields) : Nat := bits f.w2 31 29

def Fields.mBytes (f : Fields) : Nat := 2 ^ f.mSize

def Fields.mSx (f : Fields) : Bool := f.w2.testBit 28

def Fields.mOrder (f : Fields) : Nat := bits f.w2 27 26

def Fields.mScope (f : Fields) : Nat := bits f.w2 25 23

def Fields.mHint (f : Fields) : Nat := bits f.w2 22 20

def Fields.mAop (f : Fields) : Nat := bits f.w2 19 16

def Fields.mAu (f : Fields) : Bool := f.w2.testBit 15

/-- The address spaces of memory instructions (R126). -/
inductive MSpace where
  | sp | csp | g
  deriving DecidableEq, Repr

/-- Registers of an operand of a size code: one, a pair, a quad (R116). -/
def mRegs (size : Nat) : Nat := if size ≤ 2 then 1 else if size = 3 then 2 else 4

def MemKind.isAtomic (k : MemKind) : Bool := decide (k = .atom) || decide (k = .red)

/-- The second-word checks of R117 and R118. -/
def memOk (spc : MSpace) (k : MemKind) (f : Fields) : Bool :=
  decide (f.w2 % 2 ^ 15 = 0) && decide (f.mSize ≤ 4) && (!f.mSx || (decide (k = .load) && decide (f.mSize < 2))) &&
  (match f.mOrder with
    | 0 => true
    | 1 => decide (k = .load) || decide (k = .atom)
    | 2 => decide (k = .store) || k.isAtomic
    | _ => k.isAtomic) &&
  decide (f.mScope ≤ 5) && decide (f.mHint ≤ 4) && (decide (spc = .g) || decide (f.mHint = 0)) &&
  (if k.isAtomic then
    decide (f.mAop ≤ 10) && (decide (f.mSize = 2) || (decide (f.mSize = 3) && decide (f.mAop < 8)))
   else decide (f.mAop = 0)) &&
  (!f.mAu || (k.isAtomic && (decide (f.mAop = 1) || decide (f.mAop = 2))))

/-- The operand form of a memory instruction (R116). -/
def infoMem (spc : MSpace) (k : MemKind) : OpInfo :=
  { r := false, i := false, x := true, immX := false, cls := .m
    kd := fun f => if k = .red ∨ k = .prefetch then .none else .g (mRegs f.mSize) false
    ka := fun _ => .g (if spc = .g then 2 else 1) false
    kb := fun f => if k.isAtomic then .g (mRegs f.mSize) false else .none
    kc := fun f => if k.isAtomic && decide (f.mAop = 7) then .g (mRegs f.mSize) false else .none
    ok := memOk spc k }

/-- `trap` and `sleep`: format I with a 16-bit immediate (R114); `sleep` is group-level. -/
def infoTrap (grp : Bool) : OpInfo := infoPlainB true grp fun f => decide (f.imm24 < 2 ^ 16)

def infoFence : OpInfo :=
  { infoPlainB false true (fun f => decide (bits f.mod 8 7 ≠ 0) && decide (bits f.mod 6 4 ≤ 5)) with
    cls := .m, modMask := 0x1F0 }

/-- The operand form of `bar` (R119): MOD[8] cluster, MOD[7:6] operation, IMM24[3:0] barrier number. -/
def infoBar : OpInfo :=
  { infoPlainB true true (fun f => decide (bits f.mod 7 6 ≠ 3) && decide (f.imm24 < 16)) with cls := .m, modMask := 0x1C0 }

/-- Second-word fields (R123). -/
def Fields.xFmt (f : Fields) : Nat := bits f.w2 31 28

def Fields.xSparse (f : Fields) : Nat := bits f.w2 27 25

def Fields.xRm (f : Fields) : Nat := bits f.w2 24 22

def Fields.xBuf (f : Fields) : Nat := bits f.w2 21 21

def Fields.xZero (f : Fields) : Bool := f.w2.testBit 20

def Fields.xTimeout (f : Fields) : Nat := bits f.w2 19 7

/-- The operand form of a matrix instruction: the second-word bits it uses, and its checks (R123, R124). -/
def infoMx (mask : Nat) (a : OpK) (ok : Fields → Bool) : OpInfo :=
  { r := false, i := false, x := true, immX := false, cls := .m, grp := true
    kd := fun _ => .none, ka := fun _ => a, kb := fun _ => .none, kc := fun _ => .none
    ok := fun f => within f.w2 mask && ok f }

def mOffs : Nat := 0xFFFFFFFF00000000

def weightOk (fmt sparse : Nat) : Bool :=
  decide (1 ≤ fmt) && decide (fmt ≤ 0xA) && decide (sparse ≤ 4) && (!isMx fmt || decide (sparse = 0))

def rmDrainOk (fmt rm : Nat) : Bool :=
  if fmt = 0 ∨ fmt = 0xC then decide (rm = 0)
  else if 1 ≤ fmt ∧ fmt ≤ 4 then decide (rm ≤ 4)
  else isMx fmt && (decide (rm = 0) || decide (rm = 4))

def infoWload : OpInfo := infoMx (mOffs + 0xFE000000) (.g 2 false) fun f => weightOk f.xFmt f.xSparse

def infoSwap : OpInfo := infoMx 0 .none fun _ => true

def infoStream : OpInfo :=
  { infoMx (mOffs + 0xF0300000) (.g 2 false) (fun f => decide (1 ≤ f.xFmt) && decide (f.xFmt ≤ 0xB)) with
    kb := fun _ => .g 1 false, kc := fun _ => .g 2 false }

def infoDrain : OpInfo := infoMx (mOffs + 0xF1E00000) (.g 2 false) fun f => rmDrainOk f.xFmt f.xRm

def infoMma : OpInfo :=
  { infoMx 0xF0000000 (.g 8 false) (fun f =>
      [1, 2, 3, 4, 0xA, 0xB].contains f.xFmt && decide (f.d ≠ f.a) && decide (f.d ≠ f.b)) with
    kd := fun _ => .g 8 false, kb := fun _ => .g 8 false, kc := fun _ => .g 8 false }

def infoBatch : OpInfo := infoMx (mOffs + 0xFFF80) (.g 2 false) fun f => decide (f.xTimeout ≤ 4096)

/-- The form of `tp.issue`, `rt.issue` and `nbu.issue` (R120). -/
def infoIssue : OpInfo :=
  { r := false, i := false, x := true, immX := false, cls := .i, grp := true
    kd := fun _ => .g 1 false, ka := fun _ => .g 2 false, kb := fun _ => .none, kc := fun _ => .none
    ok := fun f => decide (f.w2 % 2 ^ 32 = 0) }

/-- The form of `eng.wait` and `eng.poll` (R121). -/
def infoWait : OpInfo :=
  { r := true, i := false, x := false, cls := .i, grp := true
    kd := fun _ => .g 1 false, ka := fun _ => .g 1 false, kb := fun _ => .none, kc := fun _ => .none }

def infoMark (fmtI : Bool) (ok : Fields → Bool) : OpInfo := { infoPlainB fmtI true ok with cls := .m }

def infoEvPut : OpInfo :=
  { infoMark false fun _ => true with modMask := 1, ka := fun f => .g (if f.mod.testBit 0 then 2 else 1) false }

/-- The operand form of the instruction in a word (Appendix of the instruction set, R72 to R125). -/
def infoOf (f : Fields) : OpInfo :=
  match f.op with
  | 0x00 => infoNop
  | 0x01 => infoBr true false false
  | 0x02 | 0x05 => infoBr false false true
  | 0x03 => infoBr true true false
  | 0x04 => infoBr false true true
  | 0x06 => infoPlainB false false fun _ => true
  | 0x07 | 0x09 => infoPlainB false true fun _ => true
  | 0x08 => infoTrap false
  | 0x0A => infoTrap true
  | 0x10 | 0x11 => infoIadd
  | 0x12 => infoIaddc
  | 0x13 => infoDAB true 0
  | 0x14 | 0x18 | 0x19 => infoDAB true 0x100
  | 0x15 => infoDABC false true 0
  | 0x16 => infoImac64
  | 0x17 => infoIadd64
  | 0x1A | 0x26 | 0x27 | 0x28 => infoDA
  | 0x1B => infoDABC false true 0x180
  | 0x20 => infoDABC true true 0x0FF
  | 0x21 => infoDAB true 0
  | 0x22 | 0x24 => infoDAB true 0x100
  | 0x23 => infoDABC false false 0x100
  | 0x25 => infoDABC false true 0
  | 0x29 => infoDABC false true 0x0FF
  | 0x30 | 0x31 => infoPcmp
  | 0x32 => infoPcmpH
  | 0x33 => infoPfun
  | 0x34 => infoSel
  | 0x35 => infoPredw
  | 0x36 => infoWpred
  | 0x37 => infoTally
  | 0x38 => infoXlane
  | 0x40 => infoMov
  | 0x41 => infoMov64
  | 0x42 => infoGetsr
  | 0x43 => infoPutsr
  | 0x44 => infoUniMov
  | 0x45 | 0x46 => infoUni 0
  | 0x47 => infoUniTern
  | 0x48 => infoUni 0x100
  | 0x49 => infoUniCmp
  | 0x50 | 0x51 => infoF true rmArith
  | 0x52 => infoFmac
  | 0x53 | 0x54 => infoF true rmZero
  | 0x60 | 0x61 => infoH rmArith
  | 0x62 => infoHmac
  | 0x63 | 0x64 => infoH rmZero
  | 0x70 => infoCvt
  | 0x71 => infoCvtpk
  | 0x72 => infoCvtupk
  | 0x73 => infoMxpack
  | 0x74 => infoMxunpack
  | 0x75 => infoFint
  | 0x80 => infoTrans
  | 0xA0 => infoMem .sp .load
  | 0xA1 => infoMem .sp .store
  | 0xA2 => infoMem .csp .load
  | 0xA3 => infoMem .csp .store
  | 0xA4 => infoMem .g .load
  | 0xA5 => infoMem .g .store
  | 0xA6 => infoMem .g .prefetch
  | 0xB0 => infoMem .sp .atom
  | 0xB1 => infoMem .csp .atom
  | 0xB2 => infoMem .g .atom
  | 0xB3 => infoMem .g .red
  | 0xB4 => infoFence
  | 0xB5 => infoBar
  | 0xC0 => infoWload
  | 0xC1 => infoSwap
  | 0xC2 => infoStream
  | 0xC3 => infoDrain
  | 0xC4 => infoMma
  | 0xC5 => infoBatch
  | 0xD0 | 0xD1 | 0xD2 => infoIssue
  | 0xD3 | 0xD4 => infoWait
  | 0xE3 => infoEvPut
  | 0xE0 => infoMark true fun f => decide (f.imm24 < 2 ^ 16)
  | 0xE2 => infoMark true fun f => decide (f.imm24 < 0xF0)
  | _ => infoMark false fun _ => true

end Sys2Proof.Machine
end

