-- ==== Sys2Proof/Machine/Resource.lean ====
section
/-! DEFINITION. The resources of a brick that an instruction needs before it may issue (R43): acknowledgements and returns that a
release awaits (R140), the operation table (R122), the array queue and the batch slots (R173, R184), the event FIFO (R679), and the
scratchpad that engine work holds (R56). -/

namespace Sys2Proof.Machine

open Sys2Proof

/-- The first element of a list with the least key. -/
def leastBy {α : Type} (f : α → Nat) : List α → Option α
  | [] => none
  | a :: r => match leastBy f r with
    | some b => if f b < f a then some b else some a
    | none => some a

/-- Takes the next n numbers for reads, writes and operations. -/
def Brick.take (b : Brick) (n : Nat) : Brick := { b with nextId := b.nextId + n }

def AckLvl.rank : AckLvl → Nat
  | .none => 0
  | .tower => 1
  | .device => 2
  | .system => 3

/-- Every earlier load of the group has returned and every earlier store and atomic is performed at a scope (R140). Drains of the brick's
engines are no stores of a group. -/
def Brick.released (b : Brick) (gid scope : Nat) : Bool :=
  !(b.l1in.any fun p => decide (p.2.gid = gid)) &&
  !(b.inflight.any fun p => decide (p.2.gid = gid) && decide (p.2.kind ≠ .prefetch)) &&
  b.outst.all fun o => decide (o.gid ≠ gid) || o.eng.isSome ||
    (match scope with
      | 0 | 1 => true
      | 2 | 3 => !o.csp && decide (1 ≤ o.ack.rank)
      | 4 => !o.csp && decide (2 ≤ o.ack.rank)
      | _ => false)

/-- A matrix instruction of the group has not completed: in the array queue or in a batch (R178). -/
def Brick.mxOut (b : Brick) (gid : Nat) : Bool :=
  (b.mx.queue.any fun e => decide (e.gid = gid) && match e.kind with
    | .tile _ _ => false
    | _ => true) ||
  b.mx.batches.any fun t => t.reqs.any fun r => decide (r.gid = gid)

/-- An address in scratchpad under R171. -/
def isSp (a : Nat) : Bool := a.testBit 63

/-- Engine work of a block that names its scratchpad (R56): unfinished tile programs and route descriptors that name it (log entry
56), queued matrix entries with a scratchpad image, and batched requests. -/
def Brick.blockBusy (b : Brick) (k : Nat) : Bool :=
  (b.ops.any fun p => decide (p.2.block = k) && p.2.status.isNone && p.2.names) ||
  (b.mx.queue.any fun e => decide (e.block = k) && match e.kind with
    | .wload a _ _ => isSp a
    | .stream a _ _ _ _ _ => isSp a
    | .drain a _ _ _ => isSp a
    | _ => false) ||
  b.mx.batches.any fun t => t.reqs.any fun r => decide (r.block = k)

def Brick.modMx (b : Brick) (f : Mx → Mx) : Brick := { b with mx := f b.mx }

/-- Fired batches enter the queue in firing order while entries are free (R183, R186). -/
def Brick.enqueueFired (b : Brick) : Brick :=
  b.mx.batches.foldl (fun (b : Brick) t =>
    if t.fired && !t.queued && decide (b.mx.queue.length < 16) then
      b.modMx fun m => { m with
        queue := m.queue ++ [⟨t.id, 0, 0, 0, 0, .queued, .batch t.id⟩]
        batches := m.batches.map fun x => if x.id = t.id then { x with queued := true } else x }
    else b) b

/-- Fires a batch: it goes behind the batches fired before it. -/
def Brick.fireBatch (b : Brick) (id : Nat) : Brick :=
  (b.modMx fun m =>
    { m with batches := (m.batches.filter fun t => decide (t.id ≠ id)) ++
        (m.batches.filter fun t => decide (t.id = id)).map fun t => { t with fired := true } }).enqueueFired

/-- A batch that fires at the join: 64 rows, or a timeout of zero (R185). -/
def Batch.full (t : Batch) : Bool :=
  decide (64 ≤ t.reqs.foldl (fun n q => n + q.rows) 0) || t.reqs.any fun q => decide (q.timeout = 0)

/-- A request joins a batch (R184, R185), at the issue of its bound stream: `none` while no slot can be had. DESIGN CHOICE, unsafe: R184
does not say whether a displaced batch fires before the joining request has a slot; here, with every slot occupied and the array queue
full, it stays open while the stream waits, and still takes requests (log entry 62). -/
def joinBatch (b : Brick) (addr fmt : Nat) (r : BatchReq) : Option Brick :=
  let fits := fun (t : Batch) => decide (t.reqs.foldl (fun n q => n + q.rows) 0 + r.rows ≤ 64)
  let same := b.mx.batches.find? fun t => !t.fired && decide (t.addr = addr) && decide (t.fmt = fmt)
  let newIn : Brick → Option (Brick × Nat) := fun b =>
    if 4 ≤ (b.mx.batches.filter fun t => !t.queued).length then none
    else some ((b.take 1).modMx fun m => { m with batches := m.batches ++ [⟨b.nextId, addr, fmt, [r], false, false, false⟩] }, b.nextId)
  let placed : Option (Brick × Nat) := match same with
    | some t =>
      if fits t then
        some (b.modMx fun m => { m with batches := m.batches.map fun (u : Batch) =>
          if u.id = t.id then { u with reqs := u.reqs ++ [r] } else u }, t.id)
      else newIn (b.fireBatch t.id)
    | none =>
      if (b.mx.batches.filter fun t => !t.queued).length < 4 then newIn b
      else match leastBy Batch.id (b.mx.batches.filter fun t => !t.fired) with
        | some t => newIn (b.fireBatch t.id)
        | none => none
  placed.map fun (p : Brick × Nat) =>
    let full := (p.1.mx.batches.find? fun (t : Batch) => decide (t.id = p.2)).any Batch.full
    if full = true then p.1.fireBatch p.2 else p.1

/-- The entry an issue takes (R122): the free entry of lowest number, else the oldest whose completed status word has not
been consumed. -/
def Brick.opSlot (b : Brick) : Option Nat :=
  ((List.range 64).find? fun k => (sfind b.ops k).isNone).orElse fun _ =>
    (leastBy (fun p => p.2.order) (b.ops.filter fun (p : Nat × OpEntry) => p.2.status.isSome)).map Prod.fst

/-- The entry a handle names for a group's block (R122). -/
def Brick.opFind (b : Brick) (h : R32) (block : Nat) : Option (Nat × OpEntry) :=
  let k := bits h.toNat 29 24
  match sfind b.ops k with
  | some e => if bits h.toNat 31 30 ≠ 0 ∧ e.handle = h ∧ e.block = block then some (k, e) else none
  | none => none

/-- Another group of the brick has a packet open (R679). -/
def Brick.evBusy (b : Brick) (gid : Nat) : Bool := match b.ev.opened with
  | some o => decide (o.gid ≠ gid)
  | none => false

/-- This group has a packet open. -/
def Brick.evMine (b : Brick) (gid : Nat) : Bool := match b.ev.opened with
  | some o => decide (o.gid = gid)
  | none => false

end Sys2Proof.Machine
end

