-- ==== Sys2Proof/Machine/Ops.lean ====
section
/-! DEFINITION. The shared operations over bricks and groups: access to towers, bricks and groups, subsets and rotation
(R45 to R48), the issue of one instruction (R42, R43, R72 to R74), fault reports (R81, R82) and the retirement of groups
and blocks (R56). -/

namespace Sys2Proof.Machine

open Sys2Proof

/-- The outcome of a command. -/
abbrev Res := Host.Outcome State Fault Refusal

def State.tw (s : State) : TowerId → Tower
  | .t0 => s.t0
  | .t1 => s.t1

def State.setTw (s : State) (t : TowerId) (x : Tower) : State :=
  match t with
  | .t0 => { s with t0 := x }
  | .t1 => { s with t1 := x }

def State.modTw (s : State) (t : TowerId) (f : Tower → Tower) : State := s.setTw t (f (s.tw t))

/-- A brick of a tower; an unlisted brick is as after reset. -/
def Tower.brick (t : Tower) (i : Nat) : Brick := sget Brick.init t.bricks i
def Tower.setBrick (t : Tower) (i : Nat) (b : Brick) : Tower := { t with bricks := sset t.bricks i b }
def Tower.modBrick (t : Tower) (i : Nat) (f : Brick → Brick) : Tower := t.setBrick i (f (t.brick i))

/-- The clocks of the compute die and the MEM-clocked units are stopped by a global stop (R600, R611). -/
def Tower.gstopped (x : Tower) : Bool := decide (x.fget Fld.rstGstop_STATE = 2)

/-- Neither the compute die nor the MEM-clocked units of a tower advance: at a global stop, in bring-up and in HOLD. -/
def Tower.frozen (x : Tower) : Bool := x.gstopped || decide (x.fget Fld.glbTower_STATE ≤ 1)

/-- The throttle level in force in a region (R549, R569). -/
def Tower.throttle (x : Tower) (r : Nat) : Nat :=
  [x.fget Fld.pwrCap_LEVEL, x.fget Fld.thmStat_LT, x.fget Fld.thmRegion_LC r, x.fget Fld.thmRegion_LB r].foldl max 0

/-- The throttle withholds this ARITH cycle from the schedulers, array and tile sequencer of a brick (R549). -/
def Tower.withheld (x : Tower) (slice : Nat) : Bool := decide (x.cyc % 16 < x.throttle (slice / 8))

/-- The throttle withholds this MEM cycle from the NBU of a slice (R569). -/
def Tower.nbuWithheld (x : Tower) (slice : Nat) : Bool := decide (x.memCyc % 16 < x.fget Fld.thmRegion_LB (slice / 8))

/-- Work that begins only in a cycle that no throttle level withholds (R549, R569). -/
def unthrottled (held : Bool) (f : State → Res) (s : State) : Res := if held then .next s else f s

/-- A command of a tower's clocked units, which does nothing while they do not advance (R600, R602). -/
def gate (t : TowerId) (f : State → Res) (s : State) : Res := if (s.tw t).frozen then .next s else f s

/-- A command after which the records of its engine are marked as `m` does, when `p` says that work has advanced (R669). -/
def marking (p : State → Bool) (m : State → State) (f : State → Res) (s : State) : Res :=
  match f s with
  | .next s' => .next (if p s' then m s' else s')
  | r => r

/-- A base-die engine has advanced work (R669, R670). -/
def State.advEng (s : State) (t : TowerId) (e : Nat) : State :=
  s.modTw t fun x => { x with eng := smod Rec.init x.eng e fun r => { r with adv := true } }

def State.brick (s : State) (b : BrickRef) : Brick := (s.tw b.t).brick b.s.val
def State.setBrick (s : State) (b : BrickRef) (x : Brick) : State := s.modTw b.t fun t => t.setBrick b.s.val x
def State.modBrick (s : State) (b : BrickRef) (f : Brick → Brick) : State := s.setBrick b (f (s.brick b))

/-- PBID = tower × 576 + slice index (R19). -/
def pbid (b : BrickRef) : Nat := b.t.nat * 576 + b.s.val

/-- The key of a group's slot: scheduler × 16 + slot. -/
def gkey (g : GroupRef) : Nat := g.sched.val * 16 + g.slot.val

def Brick.group? (b : Brick) (k : Nat) : Option Group := sfind b.groups k
def Brick.setGroup (b : Brick) (k : Nat) (g : Group) : Brick := { b with groups := sset b.groups k g }

def State.modGroup (s : State) (g : GroupRef) (f : Group → Group) : State :=
  s.modBrick g.b fun b =>
    match b.group? (gkey g) with
    | some x => b.setGroup (gkey g) (f x)
    | none => b

/-- The key of the slot that holds a group, by its identity. -/
def Brick.keyOf (b : Brick) (gid : Nat) : Option Nat := (b.groups.find? fun p => decide (p.2.gid = gid)).map Prod.fst

/-- A thread belongs to a subset when it has neither exited nor waits at a barrier (R45). -/
def Thread.runs (th : Thread) : Bool := !th.exited && th.bar.isNone

/-- The lanes whose threads run and sit at an address. -/
def Group.atPc (g : Group) (pc : R32) : LaneMask :=
  maskOf fun l => let th := g.thread l; th.runs && decide (th.pc = pc)

/-- The current subset with the merge of R45 applied. -/
def Group.merged (g : Group) : LaneMask :=
  match lowLane g.cur with
  | none => 0
  | some l => g.atPc (g.thread l).pc

/-- The lanes of all threads that belong to some subset. -/
def Group.running (g : Group) : LaneMask := maskOf fun l => (g.thread l).runs

/-- The choice of R47 at a rotation point: the subset whose lowest lane is the smallest lowest lane above the reference
lane, else the one with the smallest lowest lane. Where this choice and the bound of R48 cannot both hold, the choice stands (log
entry 57). -/
def Group.rotate (g : Group) (ref : Nat) : Group :=
  let low := (lanesOf g.running).filter fun l => decide (lowLane (g.atPc (g.thread l).pc) = some l)
  let pick := (low.find? fun l => decide (ref < l)).orElse fun _ => low.head?
  { g with refLane := ref, cur := match pick with
      | some l => g.atPc (g.thread l).pc
      | none => 0 }

/-- The current subset after an issue that is no rotation point: the running threads of the old subset at the lowest
address (R46); when none runs, the issue is a rotation point (R47). -/
def Group.settle (g : Group) (old : LaneMask) : Group :=
  let ls := (lanesOf old).filter fun l => (g.thread l).runs
  match ls with
  | [] => g.rotate ((lowLane old).getD 0)
  | l :: r =>
    let m := r.foldl (fun a k => min a (g.thread k).pc.toNat) (g.thread l).pc.toNat
    { g with cur := maskOf fun k => old.toNat.testBit k && (g.thread k).runs && decide ((g.thread k).pc.toNat = m) }

/-- Applies a function to the threads of a mask. -/
def Group.mapLanes (g : Group) (m : LaneMask) (f : Nat → Thread → Thread) : Group :=
  { g with threads := g.threads.mapIdx fun l th => if m.toNat.testBit l then f l th else th }

/-- The context of an instruction that issues. -/
structure Ctx where
  ref : GroupRef
  br : Brick
  grp : Group
  run : RunCtx
  blk : Block
  f : Fields
  o : OpInfo
  pc : R32
  cur : LaneMask
  exec : LaneMask

/-- The result of an attempt to issue: nothing happens, the group faults, or the instruction executes. -/
inductive IssueR where
  | no
  | fault (g : Group) (code lane : Nat) (pc : R32) (info : Nat)
  | go (x : Ctx)

/-- The 64-bit word at an offset of the code window, if the instruction cache holds its line (R43, R255). -/
def Brick.fetch (b : Brick) (off : Nat) : Option Word :=
  (sfind b.icache (off / 128)).map fun l => BitVec.ofNat 64 (l.toNat >>> (8 * (off % 128)))

/-- Registers of the instruction with a pending write (R43). -/
def Group.busy (g : Group) (o : OpInfo) (f : Fields) : Bool :=
  let gs := gDst o f ++ gSrc o f
  let us := uDst o f ++ uSrc o f
  let ps := (if f.gEn then [f.gP] else []) ++ o.ps f ++ o.pd f
  g.pend.any fun p => (gs.any fun r => p.g.contains r) || (us.any fun r => p.u.contains r) ||
    (ps.any fun r => p.p.contains r)

/-- The guard of R72. -/
def guardOk (f : Fields) (th : Thread) : Bool := !f.gEn || xor (rdP th f.gP) f.gNeg

/-- FAULT_ADDR of a fault that comes with no address: a free value (R512, log entry 54). -/
def noAddr (br : BrickRef) (gid : Nat) : Nat := (Config.faultAddr (pbid br) gid).toNat

/-- The offset of the current subset's next instruction. -/
def Group.nextPc (g : Group) : Option R32 := (lowLane g.merged).map fun l => (g.thread l).pc

/-- A resource that the instruction needs is not free (R43): the special-function lanes, the L1 input of the scheduler, an entry of
the array queue, a batch slot, an entry of the operation table, a command queue or the event FIFO; or an order that it obeys is not
yet reached (R79, R140 to R144, R178). -/
def blocked (x : Tower) (slice sched : Nat) (b : Brick) (grp : Group) (f : Fields) : Bool :=
  let l := (lowLane grp.merged).getD 0
  let any := grp.merged.toNat ≠ 0 && (lanesOf grp.merged).any fun l => guardOk f (grp.thread l)
  let l1 := (sfind b.l1in sched).isSome || grp.acq.isSome
  let queueFull := decide (16 ≤ b.mx.queue.length)
  let rel := fun scope => !b.released grp.gid scope
  if (infoOf f).cls = .s && (sget Sched.init b.scheds sched).sfu then true
  else if f.op = 0x43 then grp.pend.any fun p => decide (p.cls = .f) || decide (p.cls = .s)
  else if 0xA0 ≤ f.op ∧ f.op ≤ 0xB3 then l1 || (f.mOrder.testBit 1 && any && rel f.mScope)
  else if f.op = 0xB4 then l1 || b.mxOut grp.gid || (f.mod.testBit 8 && rel (bits f.mod 6 4))
  else if f.op = 0xB5 then l1 || (decide (bits f.mod 7 6 ≠ 2) && rel (if f.mod.testBit 8 then 2 else 1))
  else if f.op = 0xC5 then grp.acq.isSome
  else if 0xC0 ≤ f.op ∧ f.op ≤ 0xC4 then
    grp.acq.isSome || (match grp.bound with
      | none => queueFull
      | some bd =>
        let rows := (rdReg grp l f.b f.ub).toNat
        decide (f.op = 0xC2) && (joinBatch (b.take 1) bd.addr f.xFmt ⟨0, grp.gid, grp.block, l, 0, 0, rows, 0, bd.timeout, none⟩).isNone)
  else if 0xD0 ≤ f.op ∧ f.op ≤ 0xD2 then
    grp.acq.isSome || rel 4 || b.mxOut grp.gid || b.opSlot.isNone || (decide (f.op = 0xD0) && queueFull) ||
      (decide (f.op = 0xD1) && decide (16 ≤ (sget RtUnit.init x.routes (slice / 24)).load)) ||
      (decide (f.op = 0xD2) && decide (32 ≤ x.nbu.cmds.length))
  else if f.op = 0xD3 ∨ f.op = 0xD4 then
    grp.acq.isSome || (decide (f.op = 0xD3) && match b.opFind (rdReg grp l f.a f.ua) grp.block with
      | some (_, e) => e.status.isNone
      | none => false)
  else if f.op = 0xE0 ∨ f.op = 0xE1 ∨ f.op = 0xE2 then b.evBusy grp.gid
  else false

/-- A group would issue now (R43): its next instruction is in the instruction cache, no register that it names has a pending write,
and its resources are free. An instruction that faults needs no resource. -/
def eligible (x : Tower) (slice key : Nat) (b : Brick) : Bool :=
  match b.group? key, b.run with
  | some grp, some run =>
    if grp.fault.isSome || grp.held || grp.gap || grp.sleep.isSome then false
    else match grp.nextPc with
      | none => false
      | some pc =>
        if run.codeSize < pc.toNat + 8 then true
        else match b.fetch pc.toNat with
        | none => false
        | some w0 =>
          let two := decide (bits w0.toNat 55 54 = 2)
          if two && decide (run.codeSize < pc.toNat + 16) then true
          else if two && (b.fetch (pc.toNat + 8)).isNone then false
          else
            let f := fieldsOf w0 ((b.fetch (pc.toNat + 8)).getD 0)
            let o := infoOf f
            if !opListed f.op || !legal o f || gRangeBad o f grp.alloc then true
            else !grp.busy o f && !blocked x slice (key / 16) b { grp with cur := grp.merged } f
  | _, _ => false

/-- It is a slot's turn: no eligible group stands before it in its scheduler's rotating order, which starts after the slot that
issued last (R43). -/
def inTurn (x : Tower) (slice key : Nat) (b : Brick) : Bool :=
  let last := (sget Sched.init b.scheds (key / 16)).last
  (List.range ((key % 16 + 15 - last) % 16)).all fun i => !eligible x slice (key / 16 * 16 + (last + 1 + i) % 16) b

/-- Attempts to issue the instruction `op` with words `w` for a group: the throttle (R549), eligibility and the scheduler's turn (R43), the merge of R45,
and the decode faults in the order of R82. `sel` tells rows that share an opcode apart. -/
def prepare (op : Nat) (sel : Fields → Bool) (o : OpInfo) (g : GroupRef) (w : IWord) (s : State) : IssueR :=
  let b := s.brick g.b
  match b.group? (gkey g), b.run with
  | some grp0, some run =>
    match sfind b.blocks grp0.block with
    | none => .no
    | some blk =>
      let cur := grp0.merged
      let grp := { grp0 with cur := cur }
      match lowLane cur with
      | none => .no
      | some l0 =>
        if (s.tw g.b.t).frozen || (s.tw g.b.t).withheld g.b.s.val || b.phase ≠ .up || grp.fault.isSome || grp.held || grp.gap || grp.sleep.isSome ||
            !inTurn (s.tw g.b.t) g.b.s.val (gkey g) b then .no
        else
          let pc := (grp.thread l0).pc
          if run.codeSize < pc.toNat + 8 then .fault grp 0x03 l0 pc (noAddr g.b grp.gid)
          else match b.fetch pc.toNat with
          | none => .no
          | some w0 =>
            let f := fieldsOf w0 w.w2
            if f.fmt = 2 && decide (run.codeSize < pc.toNat + 16) then .fault grp 0x03 l0 pc (noAddr g.b grp.gid)
            else if !opListed f.op then .fault grp 0x01 l0 pc (noAddr g.b grp.gid)
            else if f.op ≠ op || w0 ≠ BitVec.ofNat 64 (op * 2 ^ 56 + w.lo.toNat) || !sel f then .no
            else if f.fmt = 2 && decide (b.fetch (pc.toNat + 8) ≠ some w.w2) then .no
            else if !legal o f then .fault grp 0x01 l0 pc (noAddr g.b grp.gid)
            else if gRangeBad o f grp.alloc then .fault grp 0x02 l0 pc (noAddr g.b grp.gid)
            else if grp.busy o f then .no
            else .go
              { ref := g, br := b, grp := grp, run := run, blk := blk, f := f, o := o, pc := pc, cur := cur
                exec := maskOf fun l => cur.toNat.testBit l && guardOk f (grp.thread l) }
  | _, _ => .no

/-- A miss register that has no more to wait for is FREE (R253). -/
def MReg.settled (m : MReg) : Bool := m.waiters.isEmpty && m.reads.all fun r => r.ret.isSome

/-- Releases the waiter entries of a group up to operation `upto` without delivery (R253). Operations that wait for nothing in the L1
complete normally (R133). -/
def Brick.dropWaiters (b : Brick) (gid upto : Nat) : Brick :=
  let gone := (b.inflight.filter fun p => decide (p.2.gid = gid) && decide (p.1 ≤ upto) && b.mregs.any fun m => m.waiters.contains p.1).map Prod.fst
  { b with
    inflight := b.inflight.filter fun p => !gone.contains p.1
    mregs := (b.mregs.map fun m => { m with waiters := m.waiters.filter fun i => !gone.contains i }).filter fun m => !m.settled
    groups := b.groups.map fun p => if p.2.gid = gid then
      (p.1, { p.2 with pend := p.2.pend.filter fun q => !(decide (q.cls = .m) && gone.contains q.op) }) else p }

/-- Ends the open packet of a group, as `ev.end` with TRUNC set (R681). -/
def Brick.endPacketOf (b : Brick) (gid : Nat) : Brick :=
  match b.ev.opened with
  | some o => if o.gid = gid then { b with ev := evClose true b.ev } else b
  | none => b

/-- The drains of a group that has faulted write nothing: its batched requests only occupy their rows (R186). -/
def Brick.dropDrains (b : Brick) (gid : Nat) : Brick :=
  { b with mx := { b.mx with batches := b.mx.batches.map fun t => if t.sent then t else
      { t with reqs := t.reqs.map fun r => if r.gid = gid then { r with drain := none } else r } } }

/-- Faults a group: nothing is written, the group issues no more, and the fault is reported (R81, R82, R681). Its waiter entries up to
the faulting operation `op` are released (R253); what it issued after that operation completes normally (R133, log entry 61). -/
def stopGroup (g : GroupRef) (grp : Group) (op code lane : Nat) (pc : R32) (info : Nat) (s : State) : State :=
  let b := s.brick g.b
  let b := (b.setGroup (gkey g) { grp with fault := some ⟨code, lane, pc, info⟩ }).endPacketOf grp.gid
  let b := (b.dropWaiters grp.gid op).dropDrains grp.gid
  (s.setBrick g.b b).modTw g.b.t fun t =>
    { t with faultIn := t.faultIn ++ [⟨(b.run.map RunCtx.launch).getD 0, g.b.s.val, grp.gid, code, lane, pc, info⟩] }

/-- Faults a group at the issue of an instruction: every waiter entry that it holds is released. -/
def raiseFault (g : GroupRef) (grp : Group) (code lane : Nat) (pc : R32) (info : Nat) (s : State) : State :=
  stopGroup g grp (s.brick g.b).nextId code lane pc info s

/-- Rows streamed by the matrix array (R671): it advances, and X0 counts them. -/
def Brick.advRows (b : Brick) (n : Nat) : Brick :=
  { b with recs := smod Rec.init b.recs 4 fun r => { r with adv := true, x0 := r.x0 + n } }

/-- Marks a counter record's engine as having advanced work in this cycle (R669). -/
def Brick.adv (b : Brick) (j : Nat) : Brick := { b with recs := smod Rec.init b.recs j fun r => { r with adv := true } }

/-- What one lane of an instruction writes: g registers, predicates, and the flags it raises. -/
structure LaneW where
  g : List (Nat × R32) := []
  p : List (Nat × Bool) := []
  fl : Nat := 0

def LaneW.apply (w : LaneW) (th : Thread) : Thread :=
  w.p.foldl (fun th x => wrP th x.1 x.2) (w.g.foldl (fun th x => wrG th x.1 x.2) th)

/-- The pending entry of an instruction's results (R44). -/
def pendOf (cls : LatClass) (op : Nat) (o : OpInfo) (f : Fields) (fl : Nat) : List Pend :=
  let e : Pend := ⟨cls, op, gDst o f, uDst o f, o.pd f, fl⟩
  if e.g.isEmpty && e.u.isEmpty && e.p.isEmpty && decide (fl = 0) then [] else [e]

def Cls.lat : Cls → LatClass
  | .i => .i
  | .f => .f
  | .s => .s
  | .u => .u
  | .b => .i
  | .m => .m

/-- The lines of the code window that an instruction's words lie in are hit in the instruction cache (R249, R255). -/
def codeHit (m : SMap Nat) (pc len : Nat) : SMap Nat :=
  let hit := fun (m : SMap Nat) (l : Nat) => sset m (l % 64) (l + 1)
  hit (hit m (pc / 128)) ((pc + len - 1) / 128)

/-- The bookkeeping of an issue: the scheduler's turn, the special-function lanes, the counters, and the instruction cache's hits
(R43, R44, R255, R669). -/
def Brick.issued (b : Brick) (x : Ctx) (sfu : Bool) : Brick :=
  { b with
    scheds := smod Sched.init b.scheds x.ref.sched.val fun c => { c with last := x.ref.slot.val, sfu := c.sfu || sfu }
    romru := codeHit b.romru x.pc.toNat x.f.len }.adv x.ref.sched.val

/-- Completes an instruction that is no branch: the executing lanes write, every current thread advances (R64), the
results become pending under the class (R44), and u registers are written. -/
def finish (x : Ctx) (wr : Nat → LaneW) (uw : List (Nat × R32)) (sr : R32) (s : State) : State :=
  let fl := (lanesOf x.exec).foldl (fun a l => a ||| (wr l).fl) 0
  let grp := x.grp.mapLanes x.exec fun l th => (wr l).apply th
  let grp := grp.mapLanes x.cur fun _ th => { th with pc := th.pc + BitVec.ofNat 32 x.f.len }
  let grp := { grp with
    u := uw.foldl (fun u p => sset u p.1 p.2) grp.u
    pend := grp.pend ++ pendOf x.o.cls.lat 0 x.o x.f fl }
  let b := (x.br.setGroup (gkey x.ref) grp).issued x (decide (x.o.cls = .s))
  s.setBrick x.ref.b { b with sr := sr }

/-- Issues an instruction whose whole effect is a write per executing lane. -/
def issueLanes (op : Nat) (o : OpInfo) (lane : Ctx → Nat → LaneW) (g : GroupRef) (w : IWord) (s : State) : Res :=
  match prepare op (fun _ => true) o g w s with
  | .no => .next s
  | .fault grp c l pc i => .next (raiseFault g grp c l pc i s)
  | .go x =>
    if x.o.cls = .s && (sget Sched.init x.br.scheds g.sched.val).sfu then .next s
    else .next (finish x (lane x) [] x.br.sr s)

/-- Issues an instruction that draws from the brick's stochastic-rounding generator: `n` draws in all, the lane function
being given the draw of an index (R105, R106). -/
def issueDraws (op : Nat) (o : OpInfo) (n : Ctx → Nat) (lane : Ctx → (Nat → Nat) → Nat → LaneW)
    (g : GroupRef) (w : IWord) (s : State) : Res :=
  match prepare op (fun _ => true) o g w s with
  | .no => .next s
  | .fault grp c l pc i => .next (raiseFault g grp c l pc i s)
  | .go x =>
    if x.o.cls = .s && (sget Sched.init x.br.scheds g.sched.val).sfu then .next s
    else .next (finish x (lane x fun k => (srAfter (k + 1) x.br.sr).toNat) [] (srAfter (n x) x.br.sr) s)

/-- Issues a class U instruction: one value, taken at the lowest lane of the current subset (R49), written to u D. -/
def issueUni (op : Nat) (o : OpInfo) (val : Ctx → Nat → R32) (g : GroupRef) (w : IWord) (s : State) : Res :=
  match prepare op (fun _ => true) o g w s with
  | .no => .next s
  | .fault grp c l pc i => .next (raiseFault g grp c l pc i s)
  | .go x => .next (finish x (fun _ => {}) [(x.f.d, val x ((lowLane x.cur).getD 0))] x.br.sr s)

/-- The rank of a lane among the lanes of a mask, ascending. -/
def rankIn (m : LaneMask) (l : Nat) : Nat := ((lanesOf m).filter fun k => k < l).length

/-- Source operands in a lane. -/
def Ctx.a (x : Ctx) (l : Nat) : R32 := rdReg x.grp l x.f.a x.f.ua
def Ctx.b (x : Ctx) (l : Nat) : R32 :=
  if x.f.bImm x.o then immB x.o (decide (x.o.cls = .f)) x.f else rdReg x.grp l x.f.b x.f.ub
def Ctx.c (x : Ctx) (l : Nat) : R32 := if x.f.fmt = 1 then 0 else rdReg x.grp l x.f.c x.f.uc
def Ctx.aPair (x : Ctx) (l : Nat) : Word := rdPair x.grp l x.f.a x.f.ua
def Ctx.bPair (x : Ctx) (l : Nat) : Word :=
  if x.f.bImm x.o then (immB x.o false x.f).signExtend 64 else rdPair x.grp l x.f.b x.f.ub
def Ctx.cPair (x : Ctx) (l : Nat) : Word := if x.f.fmt = 1 then 0 else rdPair x.grp l x.f.c x.f.uc
/-- The old value of D, for instructions that keep part of it. -/
def Ctx.dOld (x : Ctx) (l : Nat) : R32 := rdG (x.grp.thread l) x.f.d
def Ctx.low (x : Ctx) : Nat := (lowLane x.cur).getD 0

/-- A write of g D. -/
def dW (x : Ctx) (v : R32) : LaneW := { g := [(x.f.d, v)] }
/-- A write of the D pair. -/
def dPairW (x : Ctx) (v : Word) : LaneW := { g := [(x.f.d, v.setWidth 32), (x.f.d + 1, (v >>> 32).setWidth 32)] }

/-- Frees a retired block's slot, and its scratchpad unless engine work still names it (R56). `busy` says whether it
does. -/
def Brick.blockEnds (b : Brick) (k : Nat) (busy : Bool) : Brick :=
  if b.groups.any fun p => decide (p.2.block = k) then b
  else
    { b with
      blocks := if busy then smod Block.init b.blocks k fun x => { x with retired := true }
                else sdel b.blocks k
      used := b.used || !busy
      ops := b.ops.filter fun p => !(decide (p.2.block = k) && p.2.status.isSome) }

end Sys2Proof.Machine
end

