-- ==== Sys2Proof/Machine/IntLogic.lean ====
section
/-! DEFINITION. Integer, logic and shift instructions 0x10 to 0x29 (R84 to R86). -/

namespace Sys2Proof.Machine

open Sys2Proof

/-- CC and PC of R84: the carry-out predicate is written when MOD[6] is 1. -/
def carryW (x : Ctx) (c : Bool) (w : LaneW) : LaneW :=
  if x.f.mod.testBit 6 then { w with p := [(bits x.f.mod 5 3, c)] } else w

def laneIadd (x : Ctx) (l : Nat) : LaneW :=
  let r := addC (x.a l) (x.b l) false
  carryW x r.2 (dW x r.1)
/-- `iadd` (R84, R85). -/
def execIadd (g : GroupRef) (w : IWord) (s : State) : Res := issueLanes 0x10 infoIadd laneIadd g w s

def laneIsub (x : Ctx) (l : Nat) : LaneW :=
  let r := subC (x.a l) (x.b l)
  carryW x r.2 (dW x r.1)
/-- `isub`: the carry-out is 1 when no borrow occurs (R85). -/
def execIsub (g : GroupRef) (w : IWord) (s : State) : Res := issueLanes 0x11 infoIadd laneIsub g w s

def laneIaddc (x : Ctx) (l : Nat) : LaneW :=
  let r := addC (x.a l) (x.b l) (rdP (x.grp.thread l) (bits x.f.mod 2 0))
  carryW x r.2 (dW x r.1)
/-- `iaddc`: carry-in predicate PI (R84). -/
def execIaddc (g : GroupRef) (w : IWord) (s : State) : Res := issueLanes 0x12 infoIaddc laneIaddc g w s

def laneImul (x : Ctx) (l : Nat) : LaneW := dW x (x.a l * x.b l)
/-- `imul` (R83, R85). -/
def execImul (g : GroupRef) (w : IWord) (s : State) : Res := issueLanes 0x13 (infoDAB true 0) laneImul g w s

/-- The exact product of two words, unsigned or signed. -/
def product (uns : Bool) (a b : R32) : Int :=
  if uns then ((a.toNat * b.toNat : Nat) : Int) else a.toInt * b.toInt

def laneImulh (x : Ctx) (l : Nat) : LaneW :=
  dW x (BitVec.ofInt 32 (product (x.f.mod.testBit 8) (x.a l) (x.b l) / 2 ^ 32))
/-- `imulh` (R83, R84). -/
def execImulh (g : GroupRef) (w : IWord) (s : State) : Res := issueLanes 0x14 (infoDAB true 0x100) laneImulh g w s

def laneImac (x : Ctx) (l : Nat) : LaneW := dW x (x.a l * x.b l + x.c l)
/-- `imac` (R83). -/
def execImac (g : GroupRef) (w : IWord) (s : State) : Res := issueLanes 0x15 (infoDABC false true 0) laneImac g w s

def laneImac64 (x : Ctx) (l : Nat) : LaneW :=
  dPairW x (BitVec.ofInt 64 (product (x.f.mod.testBit 8) (x.a l) (x.b l)) + x.cPair l)
/-- `imac64`: pair result (R75, R84, R85). -/
def execImac64 (g : GroupRef) (w : IWord) (s : State) : Res := issueLanes 0x16 infoImac64 laneImac64 g w s

def laneIadd64 (x : Ctx) (l : Nat) : LaneW :=
  let r := addC64 (x.aPair l) (x.bPair l)
  carryW x r.2 (dPairW x r.1)
/-- `iadd64` (R71, R84, R85). -/
def execIadd64 (g : GroupRef) (w : IWord) (s : State) : Res := issueLanes 0x17 infoIadd64 laneIadd64 g w s

def laneImin (x : Ctx) (l : Nat) : LaneW :=
  dW x (if intCmp (x.f.mod.testBit 8) (x.a l) (x.b l) = .gt then x.b l else x.a l)
/-- `imin` (R83, R84). -/
def execImin (g : GroupRef) (w : IWord) (s : State) : Res := issueLanes 0x18 (infoDAB true 0x100) laneImin g w s

def laneImax (x : Ctx) (l : Nat) : LaneW :=
  dW x (if intCmp (x.f.mod.testBit 8) (x.a l) (x.b l) = .lt then x.b l else x.a l)
/-- `imax` (R83, R84). -/
def execImax (g : GroupRef) (w : IWord) (s : State) : Res := issueLanes 0x19 (infoDAB true 0x100) laneImax g w s

def laneIabs (x : Ctx) (l : Nat) : LaneW := dW x (if (x.a l).msb then 0 - x.a l else x.a l)
/-- `iabs`: 0x8000_0000 stays (R85). -/
def execIabs (g : GroupRef) (w : IWord) (s : State) : Res := issueLanes 0x1A infoDA laneIabs g w s

/-- Byte i of a word as an integer. -/
def byteInt (uns : Bool) (x : R32) (i : Nat) : Int :=
  let b := bits x.toNat (8 * i + 7) (8 * i)
  if uns then (b : Int) else sext 8 b

def dot4 (ua ub : Bool) (a b c : R32) : R32 :=
  c + BitVec.ofInt 32 ((List.range 4).foldl (fun acc i => acc + byteInt ua a i * byteInt ub b i) 0)

def laneDot4 (x : Ctx) (l : Nat) : LaneW :=
  dW x (dot4 (x.f.mod.testBit 8) (x.f.mod.testBit 7) (x.a l) (x.b l) (x.c l))
/-- `dot4`: four byte products added to C (R84, R85). -/
def execDot4 (g : GroupRef) (w : IWord) (s : State) : Res := issueLanes 0x1B (infoDABC false true 0x180) laneDot4 g w s

/-- The bitwise function of R86: index bit 0 from A, 1 from B, 2 from C. -/
def ternWord (t : Nat) (a b c : R32) : R32 :=
  BitVec.ofNat 32 ((List.range 32).foldl (fun acc i =>
    let k := (if a.getLsbD i then 1 else 0) + (if b.getLsbD i then 2 else 0) + (if c.getLsbD i then 4 else 0)
    if t.testBit k then acc + 2 ^ i else acc) 0)

def laneTern (x : Ctx) (l : Nat) : LaneW := dW x (ternWord (bits x.f.mod 7 0) (x.a l) (x.b l) (x.c l))
/-- `tern` (R86). -/
def execTern (g : GroupRef) (w : IWord) (s : State) : Res := issueLanes 0x20 (infoDABC true true 0x0FF) laneTern g w s

def laneShl (x : Ctx) (l : Nat) : LaneW := dW x (x.a l <<< (x.b l).toNat)
/-- `shl`: a shift of 32 or more gives zero (R86). -/
def execShl (g : GroupRef) (w : IWord) (s : State) : Res := issueLanes 0x21 (infoDAB true 0) laneShl g w s

def laneShr (x : Ctx) (l : Nat) : LaneW :=
  dW x (if x.f.mod.testBit 8 then (x.a l).sshiftRight (x.b l).toNat else x.a l >>> (x.b l).toNat)
/-- `shr`: logical or arithmetic by MOD[8] (R86). -/
def execShr (g : GroupRef) (w : IWord) (s : State) : Res := issueLanes 0x22 (infoDAB true 0x100) laneShr g w s

def laneDsh (x : Ctx) (l : Nat) : LaneW :=
  let v : Word := x.b l ++ x.a l
  let n := (x.c l).toNat % 64
  dW x (if x.f.mod.testBit 8 then (v >>> n).setWidth 32 else ((v <<< n) >>> 32).setWidth 32)
/-- `dsh`: V = {B, A}, n = C[5:0] (R86). -/
def execDsh (g : GroupRef) (w : IWord) (s : State) : Res := issueLanes 0x23 (infoDABC false false 0x100) laneDsh g w s

/-- Position and reduced length of R86: p = B[5:0], q = B[13:8] reduced to 32 − p; none when the result is the empty
field. -/
def fieldPQ (b : R32) : Option (Nat × Nat) :=
  let p := bits b.toNat 5 0
  let q := bits b.toNat 13 8
  if q = 0 ∨ 32 ≤ p then none else some (p, min q (32 - p))

def xfield (sg : Bool) (a b : R32) : R32 :=
  match fieldPQ b with
  | none => 0
  | some (p, q) =>
    let v := bits a.toNat (p + q - 1) p
    if sg then BitVec.ofNat 32 (wrapN 32 (sext q v)) else BitVec.ofNat 32 v

def laneXfield (x : Ctx) (l : Nat) : LaneW := dW x (xfield (x.f.mod.testBit 8) (x.a l) (x.b l))
/-- `xfield` (R86). -/
def execXfield (g : GroupRef) (w : IWord) (s : State) : Res := issueLanes 0x24 (infoDAB true 0x100) laneXfield g w s

def ifield (a b c : R32) : R32 :=
  match fieldPQ b with
  | none => c
  | some (p, q) => BitVec.ofNat 32 (putBits c.toNat (p + q - 1) p a.toNat)

def laneIfield (x : Ctx) (l : Nat) : LaneW := dW x (ifield (x.a l) (x.b l) (x.c l))
/-- `ifield` (R86). -/
def execIfield (g : GroupRef) (w : IWord) (s : State) : Res := issueLanes 0x25 (infoDABC false true 0) laneIfield g w s

def laneOnes (x : Ctx) (l : Nat) : LaneW := dW x (BitVec.ofNat 32 (popN 32 (x.a l).toNat))
/-- `ones` (R86). -/
def execOnes (g : GroupRef) (w : IWord) (s : State) : Res := issueLanes 0x26 infoDA laneOnes g w s

/-- Number of leading zeros, 32 for zero (R86). -/
def lzc32 (a : R32) : Nat := if a = 0 then 32 else 31 - Nat.log2 a.toNat

def laneLzc (x : Ctx) (l : Nat) : LaneW := dW x (BitVec.ofNat 32 (lzc32 (x.a l)))
/-- `lzc` (R86). -/
def execLzc (g : GroupRef) (w : IWord) (s : State) : Res := issueLanes 0x27 infoDA laneLzc g w s

def laneBitrev (x : Ctx) (l : Nat) : LaneW := dW x (x.a l).reverse
/-- `bitrev` (R86). -/
def execBitrev (g : GroupRef) (w : IWord) (s : State) : Res := issueLanes 0x28 infoDA laneBitrev g w s

/-- `bytesel` of R86: byte selectors in C, zeroing in MOD[3:0], sign filling in MOD[7:4]. -/
def bytesel (mod : Nat) (a b c : R32) : R32 :=
  let v := (b ++ a : Word).toNat
  BitVec.ofNat 32 (leNat ((List.range 4).map fun i =>
    let k := bits c.toNat (3 * i + 2) (3 * i)
    let y := bits v (8 * k + 7) (8 * k)
    if mod.testBit i then 0 else if mod.testBit (4 + i) then (if y.testBit 7 then 255 else 0) else y))

def laneBytesel (x : Ctx) (l : Nat) : LaneW := dW x (bytesel x.f.mod (x.a l) (x.b l) (x.c l))
/-- `bytesel` (R86). -/
def execBytesel (g : GroupRef) (w : IWord) (s : State) : Res := issueLanes 0x29 (infoDABC false true 0x0FF) laneBytesel g w s

end Sys2Proof.Machine
end

