-- ==== Sys2Proof/Machine/Compare.lean ====
section
/-! DEFINITION. Compare, predicate, select and lane-exchange instructions 0x30 to 0x38 (R87 to R92). -/

namespace Sys2Proof.Machine

open Sys2Proof

/-- The combining predicate of a thread, negated by XMOD[0]. -/
def cmpPc (f : Fields) (th : Thread) : Bool := xor (rdP th (bits f.mod 2 0)) (f.xmod.testBit 0)

def lanePcmpI (x : Ctx) (l : Nat) : LaneW :=
  let r := cmpHolds (bits x.f.mod 8 6) (intCmp (x.f.mod.testBit 5) (x.a l) (x.b l))
  { p := [(x.f.d, bopWith (bits x.f.mod 4 3) r (cmpPc x.f (x.grp.thread l)))] }
/-- `pcmp.i` (R87). -/
def execPcmpI (g : GroupRef) (w : IWord) (s : State) : Res := issueLanes 0x30 infoPcmp lanePcmpI g w s

/-- B of `pcmp.f`: the immediate of format I is an FP32 value (R70). -/
def Ctx.bF (x : Ctx) (l : Nat) : R32 := if x.f.bImm x.o then immB x.o true x.f else x.b l

def lanePcmpF (x : Ctx) (l : Nat) : LaneW :=
  let r := fvCompare (bits x.f.mod 8 6) (x.f.mod.testBit 5) (fDecode fp32 false (x.a l).toNat)
    (fDecode fp32 false (x.bF l).toNat)
  { p := [(x.f.d, bopWith (bits x.f.mod 4 3) r.1 (cmpPc x.f (x.grp.thread l)))] }
/-- `pcmp.f` (R87, R88). As a class I instruction it raises no FPSTAT flag (R99). -/
def execPcmpF (g : GroupRef) (w : IWord) (s : State) : Res := issueLanes 0x31 infoPcmp lanePcmpF g w s

/-- Half k of a word. -/
def half16 (x : R32) (k : Nat) : Nat := bits x.toNat (16 * k + 15) (16 * k)

def lanePcmpH (x : Ctx) (l : Nat) : LaneW :=
  let fm := if x.f.xmod.testBit 4 then bf16 else fp16
  let r := fun k => fvCompare (bits x.f.mod 8 6) (x.f.mod.testBit 5) (fDecode fm false (half16 (x.a l) k))
    (fDecode fm false (half16 (x.b l) k))
  let pc := cmpPc x.f (x.grp.thread l)
  { p := [(x.f.d, bopWith (bits x.f.mod 4 3) (r 0).1 pc), (x.f.d + 1, bopWith (bits x.f.mod 4 3) (r 1).1 pc)] }
/-- `pcmp.h`: Pd for bits [15:0], Pd + 1 for bits [31:16] (R88). -/
def execPcmpH (g : GroupRef) (w : IWord) (s : State) : Res := issueLanes 0x32 infoPcmpH lanePcmpH g w s

def lanePfun (x : Ctx) (l : Nat) : LaneW :=
  let th := x.grp.thread l
  let k := (if rdP th x.f.a then 1 else 0) + (if rdP th x.f.b then 2 else 0) + (if rdP th x.f.c then 4 else 0)
  { p := [(x.f.d, x.f.mod.testBit k)] }
/-- `pfun` (R90). -/
def execPfun (g : GroupRef) (w : IWord) (s : State) : Res := issueLanes 0x33 infoPfun lanePfun g w s

def laneSel (x : Ctx) (l : Nat) : LaneW :=
  dW x (if xor (rdP (x.grp.thread l) (bits x.f.mod 2 0)) (x.f.mod.testBit 3) then x.a l else x.b l)
/-- `sel` (R90). -/
def execSel (g : GroupRef) (w : IWord) (s : State) : Res := issueLanes 0x34 infoSel laneSel g w s

def lanePredw (x : Ctx) (l : Nat) : LaneW := dW x ((x.grp.thread l).p.setWidth 32)
/-- `predw` (R90). -/
def execPredw (g : GroupRef) (w : IWord) (s : State) : Res := issueLanes 0x35 infoPredw lanePredw g w s

def laneWpred (x : Ctx) (l : Nat) : LaneW :=
  { p := (maskBits8 x.f.mod).map fun i => (i, (x.a l).getLsbD i) }
/-- `wpred` (R90). -/
def execWpred (g : GroupRef) (w : IWord) (s : State) : Res := issueLanes 0x36 infoWpred laneWpred g w s

/-- The current lanes whose source predicate is 1 (R91). -/
def tallyMask (x : Ctx) : LaneMask :=
  maskOf fun l => x.cur.toNat.testBit l &&
    xor (rdP (x.grp.thread l) (bits x.f.mod 2 0)) (x.f.mod.testBit 3)

def laneTally (x : Ctx) (_ : Nat) : LaneW :=
  match bits x.f.mod 8 7 with
  | 0 => { p := [(x.f.d, decide (tallyMask x = x.cur))] }
  | 1 => { p := [(x.f.d, decide (tallyMask x ≠ 0))] }
  | 2 => dW x (tallyMask x)
  | _ => dW x (BitVec.ofNat 32 (popN 32 (tallyMask x).toNat))
/-- `tally`: all, any, mask or count over the current subset (R91). -/
def execTally (g : GroupRef) (w : IWord) (s : State) : Res := issueLanes 0x37 infoTally laneTally g w s

/-- The source lane of R92. -/
def xlaneSrc (mod : Nat) (b l : Nat) : Nat :=
  let w := 2 ^ bits mod 6 4
  let r := l % w
  let e := l - r
  let b := b % 32 % w
  let cl := mod.testBit 3
  match bits mod 8 7 with
  | 0 => e + b
  | 1 => if cl && decide (w ≤ r + b) then l else e + (r + b) % w
  | 2 => if cl && decide (r < b) then l else e + (r + w - b) % w
  | _ => e + (r ^^^ b)

def laneXlane (x : Ctx) (l : Nat) : LaneW :=
  let k := xlaneSrc x.f.mod (x.b l).toNat l
  dW x (if x.cur.toNat.testBit k then x.a k else x.a l)
/-- `xlane`: broadcast, rotate or exchange within a segment (R92). -/
def execXlane (g : GroupRef) (w : IWord) (s : State) : Res := issueLanes 0x38 infoXlane laneXlane g w s

end Sys2Proof.Machine
end

