-- ==== Sys2Proof/Machine/Move.lean ====
section
/-! DEFINITION. Moves, special registers and group-uniform instructions 0x40 to 0x49, and `nop` (R49, R79, R80, R89,
R93 to R95). -/

namespace Sys2Proof.Machine

open Sys2Proof

/-- `nop` (R83). -/
def execNop (g : GroupRef) (w : IWord) (s : State) : Res := issueLanes 0x00 infoNop (fun _ _ => {}) g w s

def movVal (x : Ctx) (l : Nat) : R32 := if x.f.fmt = 0 then x.a l else immB x.o false x.f
def laneMov (x : Ctx) (l : Nat) : LaneW := dW x (movVal x l)
/-- `mov` (R93). -/
def execMov (g : GroupRef) (w : IWord) (s : State) : Res := issueLanes 0x40 infoMov laneMov g w s

def laneMov64 (x : Ctx) (_ : Nat) : LaneW := dPairW x (BitVec.ofNat 64 x.f.w2)
/-- `mov64` (R93). -/
def execMov64 (g : GroupRef) (w : IWord) (s : State) : Res := issueLanes 0x41 infoMov64 laneMov64 g w s

/-- The content of a special register in a lane (R79). -/
def specialReg (s : State) (x : Ctx) (n l : Nat) : R32 :=
  let t := s.tw x.ref.b.t
  match n with
  | 0x00 => BitVec.ofNat 32 l
  | 0x01 => BitVec.ofNat 32 x.grp.index
  | 0x02 => BitVec.ofNat 32 x.blk.groups
  | 0x03 => BitVec.ofNat 32 x.blk.threads
  | 0x04 => BitVec.ofNat 32 x.blk.index
  | 0x05 => BitVec.ofNat 32 x.run.nblock
  | 0x06 => BitVec.ofNat 32 x.blk.rank
  | 0x07 => BitVec.ofNat 32 x.run.cluster
  | 0x08 => BitVec.ofNat 32 x.blk.clusterId
  | 0x09 => BitVec.ofNat 32 x.run.lbrick
  | 0x0A => BitVec.ofNat 32 (pbid x.ref.b)
  | 0x0B => BitVec.ofNat 32 x.ref.sched.val
  | 0x0C => x.run.ident
  | 0x0D => x.cur
  | 0x0E => maskOf fun k => !(x.grp.thread k).exited
  | 0x0F => BitVec.ofNat 32 x.blk.spBytes
  | 0x10 => BitVec.ofNat 32 t.timeNs
  | 0x11 => x.grp.timeHi
  | 0x12 => BitVec.ofNat 32 x.br.cyc
  | 0x13 => x.grp.cycHi
  | 0x14 => BitVec.ofNat 32 x.grp.fpstat
  | _ => BitVec.ofNat 32 (t.fget Fld.brkArray_WIDTH x.ref.b.s.val)

/-- A read of TIME_LO or CYC_LO latches the high half for the group (R79, R80). -/
def latchHigh (n timeNs cyc : Nat) (grp : Group) : Group :=
  if n = 0x10 then { grp with timeHi := BitVec.ofNat 32 (timeNs / 2 ^ 32) }
  else if n = 0x12 then { grp with cycHi := BitVec.ofNat 32 (cyc / 2 ^ 32) }
  else grp

/-- `getsr` (R79). -/
def execGetsr (g : GroupRef) (w : IWord) (s : State) : Res :=
  match prepare 0x42 (fun _ => true) infoGetsr g w s with
  | .no => .next s
  | .fault grp c l pc i => .next (raiseFault g grp c l pc i s)
  | .go x =>
    let x := if x.exec = 0 then x else
      { x with grp := latchHigh x.f.b (s.tw g.b.t).timeNs x.br.cyc x.grp }
    .next (finish x (fun l => dW x (specialReg s x x.f.b l)) [] x.br.sr s)

/-- `putsr` to FPSTAT: it issues only when every earlier class F and S result of the group is written (R79, R95). -/
def execPutsr (g : GroupRef) (w : IWord) (s : State) : Res :=
  match prepare 0x43 (fun _ => true) infoPutsr g w s with
  | .no => .next s
  | .fault grp c l pc i => .next (raiseFault g grp c l pc i s)
  | .go x =>
    if x.grp.pend.any fun p => decide (p.cls = .f) || decide (p.cls = .s) then .next s
    else
      let x := { x with grp := { x.grp with fpstat := (x.a x.low).toNat % 32 } }
      .next (finish x (fun _ => {}) [] x.br.sr s)

/-- `uni.mov` (R49, R94). -/
def execUniMov (g : GroupRef) (w : IWord) (s : State) : Res := issueUni 0x44 infoUniMov movVal g w s

/-- `uni.add` (R94). -/
def execUniAdd (g : GroupRef) (w : IWord) (s : State) : Res :=
  issueUni 0x45 (infoUni 0) (fun x l => x.a l + x.b l) g w s

/-- `uni.mul` (R94). -/
def execUniMul (g : GroupRef) (w : IWord) (s : State) : Res :=
  issueUni 0x46 (infoUni 0) (fun x l => x.a l * x.b l) g w s

/-- `uni.tern` (R94). -/
def execUniTern (g : GroupRef) (w : IWord) (s : State) : Res :=
  issueUni 0x47 infoUniTern (fun x l => ternWord (bits x.f.mod 7 0) (x.a l) (x.b l) (x.c l)) g w s

/-- `uni.sh`: left, or right with zeros entering when MOD[8] is 1 (R94). -/
def execUniSh (g : GroupRef) (w : IWord) (s : State) : Res :=
  issueUni 0x48 (infoUni 0x100)
    (fun x l => if x.f.mod.testBit 8 then x.a l >>> (x.b l).toNat else x.a l <<< (x.b l).toNat) g w s

/-- `uni.cmp`: one result, from the lowest lane, to Pd of every current thread (R89). -/
def execUniCmp (g : GroupRef) (w : IWord) (s : State) : Res :=
  issueLanes 0x49 infoUniCmp (fun x _ => lanePcmpI x x.low) g w s

end Sys2Proof.Machine
end

