-- ==== Sys2Proof/Machine/Float.lean ====
section
/-! DEFINITION. FP32, FP16 and BF16 arithmetic 0x50 to 0x64 (R96 to R99). -/

namespace Sys2Proof.Machine

open Sys2Proof

/-- The operations of R96 and R98. -/
inductive FOp where
  | add | mul | mac | min | max
  deriving DecidableEq, Repr

/-- One operation of a format under the modifiers of R97: result and flags. -/
def fArith (op : FOp) (fm : FFmt) (mod xmod a b c : Nat) : Nat × Nat :=
  let rm := bits mod 8 6
  let ftz := mod.testBit 5
  let va := fvMods (mod.testBit 3) (mod.testBit 2) (fDecode fm ftz a)
  let vb := fvMods (mod.testBit 1) (mod.testBit 0) (fDecode fm ftz b)
  let vc := fvMods (xmod.testBit 1) (xmod.testBit 0) (fDecode fm ftz c)
  let r := match op with
    | .add => fvAdd rm va vb
    | .mul => fvMul va vb
    | .mac => fvFma rm va vb vc
    | .min => fvMinMax false va vb
    | .max => fvMinMax true va vb
  let e := fEncode fm rm ftz false 0 r.1
  (if mod.testBit 4 then satUnit fm e.1 else e.1, r.2 ||| e.2)

/-- The FP32 operation in a lane. -/
def laneF (op : FOp) (x : Ctx) (l : Nat) : LaneW :=
  let r := fArith op fp32 x.f.mod x.f.xmod (x.a l).toNat (x.b l).toNat (x.c l).toNat
  { g := [(x.f.d, BitVec.ofNat 32 r.1)], fl := r.2 }

/-- The packed operation in a lane: each modifier applies to both halves; XMOD[4] selects BF16 (R97). -/
def laneH (op : FOp) (x : Ctx) (l : Nat) : LaneW :=
  let fm := if x.f.xmod.testBit 4 then bf16 else fp16
  -- in format X the immediate is one 32-bit word of two halves
  let r := fun k => fArith op fm x.f.mod x.f.xmod (half16 (x.a l) k) (half16 (immOrB x l) k) (half16 (x.c l) k)
  { g := [(x.f.d, BitVec.ofNat 32 ((r 0).1 + (r 1).1 * 2 ^ 16))], fl := (r 0).2 ||| (r 1).2 }
where
  immOrB (x : Ctx) (l : Nat) : R32 := if x.f.bImm x.o then immB x.o false x.f else x.b l

/-- `fadd`. -/
def execFadd (g : GroupRef) (w : IWord) (s : State) : Res := issueLanes 0x50 (infoF true rmArith) (laneF .add) g w s
/-- `fmul`. -/
def execFmul (g : GroupRef) (w : IWord) (s : State) : Res := issueLanes 0x51 (infoF true rmArith) (laneF .mul) g w s
/-- `fmac`: rounds once (R96). -/
def execFmac (g : GroupRef) (w : IWord) (s : State) : Res := issueLanes 0x52 infoFmac (laneF .mac) g w s
/-- `fmin` (R98). -/
def execFmin (g : GroupRef) (w : IWord) (s : State) : Res := issueLanes 0x53 (infoF true rmZero) (laneF .min) g w s
/-- `fmax` (R98). -/
def execFmax (g : GroupRef) (w : IWord) (s : State) : Res := issueLanes 0x54 (infoF true rmZero) (laneF .max) g w s
/-- `vadd.h`. -/
def execVaddH (g : GroupRef) (w : IWord) (s : State) : Res := issueLanes 0x60 (infoH rmArith) (laneH .add) g w s
/-- `vmul.h`. -/
def execVmulH (g : GroupRef) (w : IWord) (s : State) : Res := issueLanes 0x61 (infoH rmArith) (laneH .mul) g w s
/-- `vmac.h`. -/
def execVmacH (g : GroupRef) (w : IWord) (s : State) : Res := issueLanes 0x62 infoHmac (laneH .mac) g w s
/-- `vmin.h`. -/
def execVminH (g : GroupRef) (w : IWord) (s : State) : Res := issueLanes 0x63 (infoH rmZero) (laneH .min) g w s
/-- `vmax.h`. -/
def execVmaxH (g : GroupRef) (w : IWord) (s : State) : Res := issueLanes 0x64 (infoH rmZero) (laneH .max) g w s

end Sys2Proof.Machine
end

