-- ==== Sys2Proof/Machine/Special.lean ====
section
/-! DEFINITION. The functions that R111 bounds by an error, as fixed-point numbers: an integer stands for itself over 2^256. Each is
computed to within 2^-200, far below the least bound, so that a free value can be held to its bound. -/

namespace Sys2Proof.Machine

/-- One, π, the natural logarithm of 2, and 2 / √π in fixed point. -/
def fxOne : Int := 2 ^ 256
def fxPi : Int := 0x3243f6a8885a308d313198a2e03707344a4093822299f31d0082efa98ec4e6c89
def fxLn2 : Int := 0xb17217f7d1cf79abc9e3b39803f2f6af40f343267298b62d8a0d175b8baafa2b
def fxErfC : Int := 0x120dd750429b6d11ae3a914fed7fd8688281341d7587cea2e7342b06199cc4161

def fxMul (a b : Int) : Int := a * b / fxOne
def fxDiv (a b : Int) : Int := a * fxOne / b

/-- The value of a finite number, whose exponent is at least -256. -/
def fxOf (s : Bool) (m : Nat) (e : Int) : Int := dyAt s m e (-256)

/-- A series whose n-th term is the previous one times `x` and over `d n`: the sum of its first terms, each over `q n`. -/
def fxSeries (x : Int) (d q : Nat → Nat) : Nat → Nat → Int → Int → Int
  | 0, _, _, acc => acc
  | k + 1, n, term, acc => fxSeries x d q k (n + 1) (fxMul term x / (d (n + 1) : Nat)) (acc + term / (q n : Nat))

/-- e^-t for t at least 0: the tenth repeated square of e^(-t / 1024); zero beyond 256. -/
def fxExpNeg (t : Int) : Int :=
  if 256 * fxOne < t then 0
  else
    let e := fxSeries (-(t / 1024)) (fun n => n) (fun _ => 1) 64 0 fxOne 0
    (List.range 10).foldl (fun a _ => fxMul a a) e

/-- 2^x. -/
def fxExp2 (x : Int) : Int :=
  let n := x / fxOne
  if n < -256 then 0
  else
    let v := fxExpNeg (fxMul (fxOne - x % fxOne) fxLn2)
    if 0 ≤ n + 1 then v * 2 ^ (n + 1).toNat else v / 2 ^ (-(n + 1)).toNat

/-- log2 of m · 2^e, for m not 0: the exponent and the series of the inverse hyperbolic tangent. -/
def fxLog2 (m : Nat) (e : Int) : Int :=
  let k := Nat.log2 m
  let x := ((m : Int) * fxOne) / 2 ^ k
  let z := fxDiv (x - fxOne) (x + fxOne)
  let t := fxSeries (fxMul z z) (fun _ => 1) (fun n => 2 * n + 1) 96 0 z 0
  (e + (k : Nat)) * fxOne + fxDiv (2 * t) fxLn2

/-- sin(π x), the argument reduced exactly. -/
def fxSinPi (x : Int) : Int :=
  let r := x % (2 * fxOne)
  let h := r % fxOne
  let q := if fxOne < 2 * h then fxOne - h else h
  let t := fxMul q fxPi
  let v := fxSeries (-(fxMul t t)) (fun n => 2 * n * (2 * n + 1)) (fun _ => 1) 48 0 t 0
  if fxOne ≤ r then -v else v

/-- 1 / (1 + e^-x) and tanh x. -/
def fxSigm (x : Int) : Int :=
  let e := fxExpNeg x.natAbs
  if x < 0 then fxDiv e (fxOne + e) else fxDiv fxOne (fxOne + e)
def fxTanh (x : Int) : Int :=
  let e := fxExpNeg (2 * x.natAbs)
  let v := fxDiv (fxOne - e) (fxOne + e)
  if x < 0 then -v else v

/-- erf x; it is 1 to within 2^-51 from 6 on. -/
def fxErf (x : Int) : Int :=
  let y : Int := x.natAbs
  let v := if 6 * fxOne < y then fxOne
    else fxMul fxErfC (fxSeries (-(fxMul y y)) (fun n => n) (fun n => 2 * n + 1) 240 0 y 0)
  if x < 0 then -v else v

/-- The exact value of a function of R111 at (−1)^s · m · 2^e, and the greatest error that its bound allows. -/
def transExact (code : Nat) (s : Bool) (m : Nat) (e : Int) : Int × Int :=
  let x := fxOf s m e
  let ulps := fun (k : Nat) (v : Int) => (v, (k * 2 ^ (max (Nat.log2 v.natAbs) 130 - 23) : Nat) + (2 ^ 60 : Int))
  let abs' := fun (v : Int) => (v, (2 ^ 234 + 2 ^ 60 : Int))
  match code with
  | 3 => ulps 2 (fxExp2 x)
  | 4 => if fxOne ≤ 2 * x ∧ x ≤ 2 * fxOne then abs' (fxLog2 m e) else ulps 2 (fxLog2 m e)
  | 5 => abs' (fxSinPi x)
  | 6 => abs' (fxSinPi (x + fxOne / 2))
  | 7 => ulps 4 (fxTanh x)
  | 8 => ulps 4 (fxSigm x)
  | _ => ulps 4 (fxErf x)

/-- A free value held to the bound of R111: the free constant where it meets the bound, else the exact result rounded to nearest. -/
def transHeld (code : Nat) (s : Bool) (m : Nat) (e : Int) (free : Nat) : Nat :=
  let r := transExact code s m e
  let near : Bool := match fDecode fp32 false free with
    | .fin a n d => decide (((fxOf a n d - r.1).natAbs : Int) ≤ r.2)
    | _ => false
  if near then free else (fEncode fp32 0 false false 0 (.fin (decide (r.1 < 0)) r.1.natAbs (-256))).1

end Sys2Proof.Machine
end

