-- ==== Sys2Proof/Machine/Convert.lean ====
section
/-! DEFINITION. Conversions, MX packing and special functions 0x70 to 0x80 (R101 to R111). -/

namespace Sys2Proof.Machine

open Sys2Proof

def laneCvt (x : Ctx) (draw : Nat → Nat) (l : Nat) : LaneW :=
  let r := convert (bits x.f.xmod 4 1) (bits x.f.mod 8 5) (bits x.f.mod 4 2) (x.f.mod.testBit 1) (x.f.mod.testBit 0)
    (draw (rankIn x.exec l)) (x.a l).toNat
  { g := [(x.f.d, BitVec.ofNat 32 r.1)], fl := r.2 }

/-- Draws of an instruction: n per executing thread when RM is SR (R106). -/
def srCount (n : Nat) (x : Ctx) : Nat := if bits x.f.mod 4 2 = 4 then n * (lanesOf x.exec).length else 0

/-- `cvt` (R101, R102, R106). -/
def execCvt (g : GroupRef) (w : IWord) (s : State) : Res := issueDraws 0x70 infoCvt (srCount 1) laneCvt g w s

def laneCvtpk (x : Ctx) (draw : Nat → Nat) (l : Nat) : LaneW :=
  let d := bits x.f.mod 8 5
  let k := 2 * rankIn x.exec l
  let cv := fun (v : R32) i => convert 0 d (bits x.f.mod 4 2) (x.f.mod.testBit 1) (x.f.mod.testBit 0) (draw (k + i)) v.toNat
  let ra := cv (x.a l) 0
  let rb := cv (x.b l) 1
  let old := (x.dOld l).toNat
  let v :=
    if d < 3 then ra.1 + rb.1 * 2 ^ 16
    else if x.f.xmod.testBit 0 then putBits old 31 16 (ra.1 + rb.1 * 2 ^ 8) else putBits old 15 0 (ra.1 + rb.1 * 2 ^ 8)
  { g := [(x.f.d, BitVec.ofNat 32 v)], fl := ra.2 ||| rb.2 }
/-- `cvtpk`: two draws per executing thread under SR, A's then B's (R103, R106). -/
def execCvtpk (g : GroupRef) (w : IWord) (s : State) : Res := issueDraws 0x71 infoCvtpk (srCount 2) laneCvtpk g w s

def laneCvtupk (x : Ctx) (l : Nat) : LaneW :=
  let c := bits x.f.mod 8 5
  let w := fmtWidth c
  let r := convert c 0 0 false false 0 (bits (x.a l).toNat (w * (bits x.f.mod 1 0) + w - 1) (w * (bits x.f.mod 1 0)))
  { g := [(x.f.d, BitVec.ofNat 32 r.1)], fl := r.2 }
/-- `cvtupk` (R104). -/
def execCvtupk (g : GroupRef) (w : IWord) (s : State) : Res := issueLanes 0x72 infoCvtupk laneCvtupk g w s

/-- An FP32 value rounded to an integral value; zero results keep the sign of the input (R104, R96). -/
def fint32 (rm : Nat) (ftz : Bool) (x : Nat) : Nat × Nat :=
  match fDecode fp32 ftz x with
  | .nan sg => (fp32.nanBits, if sg then flNV else 0)
  | .inf s => ((fEncode fp32 0 false false 0 (.inf s)).1, 0)
  | .fin s m e =>
    let r := roundAt rm s m e 0 0
    ((fEncode fp32 0 false false 0 (.fin s r.1 0)).1, 0)
def laneFint (x : Ctx) (l : Nat) : LaneW :=
  let r := fint32 (bits x.f.mod 4 2) (x.f.mod.testBit 0) (x.a l).toNat
  { g := [(x.f.d, BitVec.ofNat 32 r.1)], fl := r.2 }
/-- `fint` (R104). -/
def execFint (g : GroupRef) (w : IWord) (s : State) : Res := issueLanes 0x75 infoFint laneFint g w s

/-- emax of R108 for an MX format code. -/
def mxEmax (c : Nat) : Int :=
  match c with
  | 5 => 8
  | 6 => 15
  | 7 => 4
  | _ => 2

/-- The scale of a block of FP32 values: none when a value is a NaN or infinity; otherwise the scale byte and X
(R108). An all-zero block has scale byte 0. -/
def mxScale (c : Nat) (vs : List FV) : Option (Nat × Int) :=
  if vs.any fun v => match v with
    | .fin _ _ _ => false
    | _ => true then none
  else
    let tops := vs.filterMap fun v => match v with
      | .fin _ m e => if m = 0 then none else some (e + (Nat.log2 m : Nat))
      | _ => none
    match tops with
    | [] => some (0, 0)
    | t :: r =>
      let x := clampInt (-127) 127 (r.foldl max t - mxEmax c)
      some ((x + 127).toNat, x)

/-- An MX block: scale byte and element encodings (R108). Where amax is zero, R108 says that the elements are zero and not of which
sign: an element keeps the sign of its value (log entry 58). -/
def mxBlock (c rm : Nat) (draw : Nat → Nat) (vs : List FV) : Nat × List Nat :=
  match mxScale c vs, fmtOf c with
  | some (sb, x), some f =>
    (sb, vs.mapIdx fun i v => match v with
      | .fin s m e => (fEncode f rm false true (draw i) (.fin s m (e - x))).1
      | _ => 0)
  | _, _ => (0xFF, vs.map fun _ => 0)

/-- The flags of an MX block: NV for a NaN or infinity, else those of the element conversions (R99, R108; log entry 53). -/
def mxFlags (c rm : Nat) (draw : Nat → Nat) (vs : List FV) : Nat :=
  match mxScale c vs, fmtOf c with
  | some (_, x), some f =>
    (vs.mapIdx fun i v => match v with
      | .fin s m e => (fEncode f rm false true (draw i) (.fin s m (e - x))).2
      | _ => 0).foldl (· ||| ·) 0
  | _, _ => flNV

/-- The packed bit string of elements of a width (R109). -/
def packBits (w : Nat) : List Nat → Nat
  | [] => 0
  | e :: r => e % 2 ^ w + packBits w r * 2 ^ w

def laneMxpack (x : Ctx) (draw : Nat → Nat) (l : Nat) : LaneW :=
  let c := bits x.f.mod 8 5
  let vs := (List.range 32).map fun k => fDecode fp32 false (x.a k).toNat
  let blk := mxBlock c (bits x.f.mod 4 2) draw vs
  let w := fmtWidth c
  let str := packBits w blk.2
  let v := if l < w then bits str (32 * l + 31) (32 * l) else if l = 31 then blk.1 else 0
  { g := [(x.f.d, BitVec.ofNat 32 v)]
    fl := mxFlags c (bits x.f.mod 4 2) draw vs }
/-- `mxpack`: 32 draws under SR, whatever the values (R108, R109). -/
def execMxpack (g : GroupRef) (w : IWord) (s : State) : Res :=
  issueDraws 0x73 infoMxpack (fun x => if bits x.f.mod 4 2 = 4 then 32 else 0) laneMxpack g w s

/-- An MX element with its scale byte as an exact value (R110). R110 names no flag: no NaN element is taken as signalling (log entry
58). -/
def mxElem (c sb e : Nat) : FV :=
  if sb = 0xFF then .nan false
  else match fmtOf c with
    | some f => match fDecode f false e with
      | .fin s m ex => .fin s m (ex + (sb : Int) - 127)
      | .nan _ => .nan false
      | v => v
    | none => .nan false

/-- One lane of `mxunpack`. A value beyond the range of FP32, of which R110 says nothing, is rounded to nearest and raises OF and NX
(log entry 58). -/
def laneMxunpack (x : Ctx) (l : Nat) : LaneW :=
  let c := bits x.f.mod 8 5
  let w := fmtWidth c
  let str := packBits 32 ((List.range w).map fun k => (x.a k).toNat)
  let e := bits str (w * l + w - 1) (w * l)
  let r := fEncode fp32 0 false false 0 (mxElem c ((x.a 31).toNat % 256) e)
  { g := [(x.f.d, BitVec.ofNat 32 r.1)], fl := r.2 }
/-- `mxunpack` (R110). -/
def execMxunpack (g : GroupRef) (w : IWord) (s : State) : Res := issueLanes 0x74 infoMxunpack laneMxunpack g w s

/-- Whether a finite value r is within one ulp of the k-th root-type function of x, decided exactly by squaring and
multiplying: used for rcp, rsqrt and sqrt, whose bound of R111 is 1 ulp. `cmp v` orders the candidate v against the
exact result. -/
def withinUlp (cmp : FV → Ordering) (b : Nat) : Bool :=
  let v := fDecode fp32 false b
  match v with
  | .fin s m e =>
    let up := dyVal s (dyAt s m e e + 1) e
    let dn := dyVal s (dyAt s m e e - 1) e
    decide (cmp dn ≠ .gt) && decide (cmp up ≠ .lt)
  | _ => false

/-- Order of a candidate v against 1 / x, for finite non-zero x (R111, rcp). -/
def cmpRcp (x v : FV) : Ordering :=
  let p := (fvMul v x).1
  if x.sign then fvCmp (.fin false 1 0) p else fvCmp p (.fin false 1 0)

/-- Order of a candidate v against 1 / √x, for finite x > 0. -/
def cmpRsqrt (x v : FV) : Ordering :=
  if v.sign then .lt else fvCmp (fvMul (fvMul v v).1 x).1 (.fin false 1 0)

/-- Order of a candidate v against √x, for finite x > 0. -/
def cmpSqrt (x v : FV) : Ordering :=
  if v.sign then .lt else fvCmp (fvMul v v).1 x

/-- The largest encoding at or below the exact result among positive encodings, by bisection over the bits. -/
def bisectF (below : Nat → Bool) : Nat → Nat → Nat
  | 0, acc => acc
  | k + 1, acc => if below (acc + 2 ^ k) then bisectF below k (acc + 2 ^ k) else bisectF below k acc

/-- The free value of R111 held to the 1-ulp bound: the free constant where it meets the bound, otherwise the encoding
next below the exact result, which meets it. -/
def boundedFree (free : Nat) (sg : Bool) (cmp : FV → Ordering) : Nat :=
  if withinUlp cmp free then free
  else
    let below := fun b => decide (b ≤ fp32.maxBits) &&
      (let c := cmp (fDecode fp32 false (fp32.signBit sg + b)); if sg then decide (c ≠ .lt) else decide (c ≠ .gt))
    fp32.signBit sg + bisectF below 31 0

/-- The result and flags of `trans` (R111). The value of a function that the table bounds and does not fix is free within its bound. -/
def transVal (code : Nat) (arg : FV) (argBits : R32) : Nat × Nat :=
  let free := (Config.trans code argBits).toNat
  let nan := fp32.nanBits
  let inf := fun s => fp32.signBit s + fp32.infBits
  let one := fun s => fp32.signBit s + 0x3F800000
  match arg with
  | .nan sg => (nan, if sg then flNV else 0)
  | .inf s =>
    match code with
    | 0 => (fp32.signBit s, 0)
    | 1 => if s then (nan, flNV) else (0, 0)
    | 2 => if s then (nan, flNV) else (inf false, 0)
    | 3 => if s then (0, 0) else (inf false, 0)
    | 4 => if s then (nan, flNV) else (inf false, 0)
    | 5 => (nan, flNV)
    | 6 => (nan, flNV)
    | 7 => (one s, 0)
    | 8 => if s then (0, 0) else (one false, 0)
    | _ => (one s, 0)
  | .fin s m e =>
    if m = 0 then
      match code with
      | 0 => (inf s, flDZ)
      | 1 => (inf s, flDZ)
      | 2 => (fp32.signBit s, 0)
      | 4 => (inf true, flDZ)
      | _ => (transHeld code s 0 0 free, 0)
    else if s && (decide (code = 1) || decide (code = 2) || decide (code = 4)) then (nan, flNV)
    else
      match code with
      | 0 =>
        -- the quotient of a subnormal may exceed the largest finite magnitude: infinity without a flag (R111)
        if cmpRcp arg (.fin s (2 ^ 24) 104) ≠ (if s then .gt else .lt) then
          (boundedFree free s (cmpRcp arg), 0)
        else (inf s, 0)
      | 1 => (boundedFree free false (cmpRsqrt arg), 0)
      | 2 => (boundedFree free false (cmpSqrt arg), 0)
      | 3 => if fvCmp arg (.fin false 128 0) = .lt then (transHeld 3 s m e free, 0) else (inf false, flOF)
      | _ => (transHeld code s m e free, 0)

def laneTrans (x : Ctx) (l : Nat) : LaneW :=
  let v := fvMods (x.f.mod.testBit 3) (x.f.mod.testBit 2) (fDecode fp32 (x.f.mod.testBit 4) (x.a l).toNat)
  let r := transVal (bits x.f.mod 8 5) v (x.a l)
  let out := if x.f.mod.testBit 4 && decide (bits r.1 30 23 = 0) then fp32.signBit (r.1.testBit 31) else r.1
  { g := [(x.f.d, BitVec.ofNat 32 out)], fl := r.2 }
/-- `trans` on the special-function lanes (R44, R111). -/
def execTrans (g : GroupRef) (w : IWord) (s : State) : Res := issueLanes 0x80 infoTrans laneTrans g w s

end Sys2Proof.Machine
end

