-- ==== Sys2Proof/Machine/Control.lean ====
section
/-! DEFINITION. Control flow 0x01 to 0x0A (R112 to R114) and the expiry of latencies, branch gaps and sleep (R44). -/

namespace Sys2Proof.Machine

open Sys2Proof

/-- Counts a taken branch, or a taken `ret`, once per issue (R671). -/
def Brick.countBr (b : Brick) (j : Nat) (ret taken : Bool) : Brick :=
  if taken then
    { b with recs := smod Rec.init b.recs j fun r =>
        if ret then { r with rets := satAdd 32 r.rets 1 } else { r with brs := satAdd 32 r.brs 1 } }
  else b

/-- A branch: the executing threads go to their targets, the others fall through; the subset splits (R46) or, at a
rotation point, the next subset is chosen (R47); the branch gap opens (R44). -/
def branchTo (x : Ctx) (call ret rot : Bool) (target : Nat → R32) (s : State) : State :=
  let grp := x.grp.mapLanes x.cur fun l th =>
    if x.exec.toNat.testBit l then
      { (if call then wrG th x.f.d (x.pc + 8) else th) with pc := target l }
    else { th with pc := x.pc + 8 }
  let grp := if rot then grp.rotate x.low else grp.settle x.cur
  let b := (x.br.setGroup (gkey x.ref) { grp with gap := true }).issued x false
  s.setBrick x.ref.b (b.countBr x.ref.sched.val ret (decide (x.exec ≠ 0)))

/-- The target of a relative branch (R112). -/
def relTarget (x : Ctx) : R32 := x.pc + BitVec.ofInt 32 (sext 24 x.f.imm24 * 8)

def issueRel (op : Nat) (call : Bool) (g : GroupRef) (w : IWord) (s : State) : Res :=
  match prepare op (fun _ => true) (infoBr true call false) g w s with
  | .no => .next s
  | .fault grp c l pc i => .next (raiseFault g grp c l pc i s)
  | .go x =>
    .next (branchTo x call false (decide (sext 24 x.f.imm24 ≤ 0) && decide (x.exec ≠ 0)) (fun _ => relTarget x) s)

/-- An indirect branch: BRANCH_TARGET at the lowest lane whose target is misaligned or outside the window (R113). -/
def issueReg (op : Nat) (call ret : Bool) (g : GroupRef) (w : IWord) (s : State) : Res :=
  match prepare op (fun _ => true) (infoBr false call true) g w s with
  | .no => .next s
  | .fault grp c l pc i => .next (raiseFault g grp c l pc i s)
  | .go x =>
    match (lanesOf x.exec).find? fun l => decide ((x.a l).toNat % 8 ≠ 0) || decide (x.run.codeSize ≤ (x.a l).toNat) with
    | some l => .next (raiseFault g x.grp 0x04 l x.pc (noAddr g.b x.grp.gid) s)
    | none =>
      .next (branchTo x call ret ((lanesOf x.exec).any fun l => decide ((x.a l).toNat ≤ x.pc.toNat)) x.a s)

/-- `br.rel` (R112). -/
def execBrRel (g : GroupRef) (w : IWord) (s : State) : Res := issueRel 0x01 false g w s
/-- `br.reg` (R112, R113). -/
def execBrReg (g : GroupRef) (w : IWord) (s : State) : Res := issueReg 0x02 false false g w s
/-- `call.rel`: the return offset goes into D of each thread that branches (R112). -/
def execCallRel (g : GroupRef) (w : IWord) (s : State) : Res := issueRel 0x03 true g w s
/-- `call.reg` (R112, R113). -/
def execCallReg (g : GroupRef) (w : IWord) (s : State) : Res := issueReg 0x04 true false g w s
/-- `ret`: as `br.reg`, counted separately (R113). -/
def execRet (g : GroupRef) (w : IWord) (s : State) : Res := issueReg 0x05 false true g w s

/-- Frees the scratchpad of retired blocks that no engine work names any more (R56). -/
def Brick.freeBlocks (b : Brick) : Brick :=
  let left := b.blocks.filter fun p => !p.2.retired || b.blockBusy p.1
  { b with blocks := left, used := b.used || decide (left.length < b.blocks.length) }

/-- Retires a group whose threads have all exited: slot and registers are free, its packet ends, and its block ends with
its last group (R56, R681). -/
def Brick.retireIfDone (b : Brick) (key : Nat) : Brick :=
  match b.group? key with
  | none => b
  | some g =>
    if g.threads.all Thread.exited then
      let b := b.endPacketOf g.gid
      let b := { b with groups := sdel b.groups key }
      b.blockEnds g.block (b.blockBusy g.block)
    else b

/-- RESULT of a completion word (R218, R241, R336). -/
def statusResult (w : R32) : Nat := bits w.toNat 30 24

/-- Reports failed engine results of a group that has exited without waiting for them (R220). -/
def orphanFaults (br : BrickRef) (es : List OpEntry) (s : State) : State :=
  s.modTw br.t fun t => { t with faultIn := t.faultIn ++ (es.filterMap fun e =>
    match e.status with
    | some w => if statusResult w = 0 then none
      else some ⟨((t.brick br.s.val).run.map RunCtx.launch).getD 0, br.s.val, e.gid, statusResult w, e.lane,
        e.pc, noAddr br e.gid⟩
    | none => none) }

/-- `exit` ends every executing thread; when none of the current subset runs on, the issue is a rotation point (R47,
R114). -/
def execExit (g : GroupRef) (w : IWord) (s : State) : Res :=
  match prepare 0x06 (fun _ => true) (infoPlainB false false fun _ => true) g w s with
  | .no => .next s
  | .fault grp c l pc i => .next (raiseFault g grp c l pc i s)
  | .go x =>
    let grp := x.grp.mapLanes x.cur fun l th =>
      if x.exec.toNat.testBit l then { th with exited := true } else { th with pc := x.pc + 8 }
    let grp := grp.settle x.cur
    let b := (x.br.setGroup (gkey g) { grp with gap := true }).issued x false
    let ends := grp.threads.all Thread.exited
    let es := (b.ops.filter fun p => decide (p.2.gid = grp.gid)).map Prod.snd
    .next ((if ends then orphanFaults g.b es s else s).setBrick g.b (b.retireIfDone (gkey g)))

/-- `yield`: a rotation point whatever the subset holds (R114). -/
def execYield (g : GroupRef) (w : IWord) (s : State) : Res :=
  match prepare 0x07 (fun _ => true) (infoPlainB false true fun _ => true) g w s with
  | .no => .next s
  | .fault grp c l pc i => .next (raiseFault g grp c l pc i s)
  | .go x => .next (branchTo { x with exec := 0 } false false true (fun _ => x.pc) s)

/-- `trap` faults with TRAP and the 16-bit code when at least one thread executes it (R114). -/
def execTrap (g : GroupRef) (w : IWord) (s : State) : Res :=
  match prepare 0x08 (fun _ => true) (infoPlainB true false fun f => decide (f.imm24 < 2 ^ 16)) g w s with
  | .no => .next s
  | .fault grp c l pc i => .next (raiseFault g grp c l pc i s)
  | .go x =>
    match lowLane x.exec with
    | some l => .next (raiseFault g x.grp 0x05 l x.pc (x.f.imm24 % 2 ^ 16) s)
    | none => .next (branchTo x false false false (fun _ => x.pc) s)

/-- `sleep`: the group is not eligible until the sleep count and the branch gap have run out; it is no rotation point
(R114). -/
def execSleep (g : GroupRef) (w : IWord) (s : State) : Res :=
  match prepare 0x0A (fun _ => true) (infoPlainB true true fun f => decide (f.imm24 < 2 ^ 16)) g w s with
  | .no => .next s
  | .fault grp c l pc i => .next (raiseFault g grp c l pc i s)
  | .go x =>
    let n := x.f.imm24 % 2 ^ 16
    let x := { x with grp := { x.grp with sleep := if n = 0 then none else some n } }
    .next (branchTo { x with exec := 0 } false false false (fun _ => x.pc) s)

/-- A group's sleep count runs out (R114). -/
def sleepExpiryOn (g : GroupRef) (s : State) : Res := .next (s.modGroup g fun x => { x with sleep := none })

/-- A group's branch gap runs out (R44). -/
def branchGapExpiryOn (g : GroupRef) (s : State) : Res := .next (s.modGroup g fun x => { x with gap := false })

/-- Removes the oldest pending entry of a class and adds its flags to FPSTAT (R44, R99). -/
def expirePend (c : LatClass) (grp : Group) : Group :=
  match grp.pend.findIdx? fun p => decide (p.cls = c) with
  | some i => { grp with fpstat := grp.fpstat ||| (grp.pend[i]?.map Pend.flags).getD 0, pend := ldel grp.pend i }
  | none => grp

/-- The latency of the oldest result of a class runs out, or the special-function lanes become free (R44). -/
def latencyClassExpiryOn (g : GroupRef) (c : LatItem) (s : State) : Res :=
  match c with
  | .i => .next (s.modGroup g (expirePend .i))
  | .f => .next (s.modGroup g (expirePend .f))
  | .s => .next (s.modGroup g (expirePend .s))
  | .u => .next (s.modGroup g (expirePend .u))
  | .lanes => .next (s.modBrick g.b fun b =>
      { b with scheds := smod Sched.init b.scheds g.sched.val fun k => { k with sfu := false } })

/-! The commands, with the stop of the clocks and the engine records. -/

/-- `BRANCH_GAP_EXPIRY`, held while the tower's clocks are stopped (R600, R602). -/
def execBranchGapExpiry (g : GroupRef) (s : State) : Res :=
  gate g.b.t (branchGapExpiryOn g) s

/-- `LATENCY_CLASS_EXPIRY`, held while the tower's clocks are stopped (R600, R602). -/
def execLatencyClassExpiry (g : GroupRef) (c : LatItem) (s : State) : Res :=
  gate g.b.t (latencyClassExpiryOn g c) s

/-- `SLEEP_EXPIRY`, held while the tower's clocks are stopped (R600, R602). -/
def execSleepExpiry (g : GroupRef) (s : State) : Res :=
  gate g.b.t (sleepExpiryOn g) s

end Sys2Proof.Machine
end

