-- ==== Sys2Proof/Machine/Ecc.lean ====
section
/-! DEFINITION. The stored-data codes bit for bit (R371 to R375) and the CRCs of the link and the store. -/

namespace Sys2Proof.Machine

/-- The 16-bit values of Hamming weight 3 in ascending order: by highest, middle, then lowest bit (R371). -/
def weight3 (n : Nat) : List Nat :=
  (List.range n).flatMap fun h => (List.range h).flatMap fun m => (List.range m).map fun l => 2 ^ h + 2 ^ m + 2 ^ l

/-- Columns w_0 to w_127 of R371. -/
def wCols : List Nat := (weight3 16).take 128

/-- The 16 check bits of half h of a sector (R371). -/
def halfCheck (d : Sector) (h : Nat) : Nat :=
  (wCols.zipIdx).foldl (fun a p => if d.getLsbD (2 * p.2 + h) then a ^^^ p.1 else a) 0

/-- Bits k of a 16-bit value spread to positions 2k + h of a check word. -/
def spread16 (h x : Nat) : Nat :=
  (List.range 16).foldl (fun a k => if x.testBit k then a + 2 ^ (2 * k + h) else a) 0

/-- The bits 2k + h of a check word as a 16-bit value. -/
def gather16 (h : Nat) (c : R32) : Nat :=
  (List.range 16).foldl (fun a k => if c.getLsbD (2 * k + h) then a + 2 ^ k else a) 0

/-- The check word of a sector (R371). -/
def eccEncode (d : Sector) : R32 := BitVec.ofNat 32 (spread16 0 (halfCheck d 0) + spread16 1 (halfCheck d 1))

/-- Classification of a sector by its decoder (R372). -/
inductive EccClass where
  | clean | correctable | uncorrectable | dead
  deriving DecidableEq, Repr

/-- One half: no error, a check-bit error, a data bit in error, or uncorrectable (R372). -/
inductive HalfClass where
  | ok | chk | bit (i : Nat) | bad
  deriving DecidableEq, Repr

/-- Classifies a half syndrome. -/
def halfClass (h s : Nat) : HalfClass :=
  if s = 0 then .ok
  else if popN 16 s = 1 then .chk
  else match wCols.findIdx? fun w => decide (w = s) with
    | some j => .bit (2 * j + h)
    | none => .bad

def HalfClass.fix : HalfClass → Sector → Sector
  | .bit i, d => d ^^^ (1#256 <<< i)
  | _, d => d

/-- Decodes a sector: its class and the delivered data (R372). -/
def eccDecode (d : Sector) (c : R32) : EccClass × Sector :=
  let s0 := halfCheck d 0 ^^^ gather16 0 c
  let s1 := halfCheck d 1 ^^^ gather16 1 c
  if s0 = 0 ∧ s1 = 0 then (.clean, d)
  else if s0 = 0xFFFF ∧ s1 = 0xFFFF then (.dead, d)
  else
    let a := halfClass 0 s0
    let b := halfClass 1 s1
    if a = .bad ∨ b = .bad then (.uncorrectable, d) else (.correctable, b.fix (a.fix d))

/-- The dead marker's check word (R374). -/
def deadChk : R32 := 0xFFFFFFFF

/-- Columns of the (72,64) code (R375). -/
def vCols : List Nat := weight3 8 ++ [0x1F, 0x2F, 0x37, 0x3B, 0x3D, 0x3E, 0x4F, 0x57]

/-- The eight check bits of a word (R375). -/
def eccEncode72 (d : Word) : BitVec 8 :=
  BitVec.ofNat 8 ((vCols.zipIdx).foldl (fun a p => if d.getLsbD p.2 then a ^^^ p.1 else a) 0)

/-- Decodes a (72,64) code word (R375): none when uncorrectable. -/
def eccDecode72 (d : Word) (c : BitVec 8) : Option Word :=
  let s := (eccEncode72 d ^^^ c).toNat
  if s = 0 ∨ popN 8 s = 1 then some d
  else match vCols.findIdx? fun v => decide (v = s) with
    | some j => some (d ^^^ (1#64 <<< j))
    | none => none

/-- One byte step of a reflected CRC of a width: polynomial given reflected. -/
def crcByteR (poly : Nat) : Nat → Nat → Nat
  | 0, c => c
  | n + 1, c => crcByteR poly n (if c % 2 = 1 then (c / 2) ^^^ poly else c / 2)

/-- CRC-32C of a list of bytes (reflected polynomial 0x82F63B78, initial and final inversion). -/
def crc32c (bs : List Nat) : Nat :=
  (bs.foldl (fun c b => crcByteR 0x82F63B78 8 (c ^^^ (b % 256))) 0xFFFFFFFF) ^^^ 0xFFFFFFFF

/-- One bit step of an unreflected CRC of width w. -/
def crcBit (w poly : Nat) (c : Nat) (b : Bool) : Nat :=
  let top := xor (c.testBit (w - 1)) b
  let s := c * 2 % 2 ^ w
  if top then s ^^^ poly else s

/-- The bits of a byte, most significant first, through an unreflected CRC. -/
def crcByteM (w poly c b : Nat) : Nat :=
  (List.range 8).foldl (fun c i => crcBit w poly c (b.testBit (7 - i))) c

end Sys2Proof.Machine
end

