-- ==== Sys2Proof/Machine/Memory.lean ====
section
/-! DEFINITION. Memory: bytes in canonical form, stored code words, the address map (R23 to R28), homes and placement
(R277, R279, R349), and the operations of a home on its lines (R280 to R295). -/

namespace Sys2Proof.Machine

open Sys2Proof

/-- The byte at an address; an unlisted byte reads zero, as the memory fill leaves it (R378). -/
def memRd : List Host.Cell → Nat → Byte
  | [], _ => 0
  | (c, x) :: r, a => if c = a then x else memRd r a

/-- Writes a byte, keeping addresses strictly rising and listing no zero byte. -/
def memWr : List Host.Cell → Nat → Byte → List Host.Cell
  | [], a, b => if b = 0 then [] else [(a, b)]
  | (c, x) :: r, a, b =>
    if c = a then (if b = 0 then r else (a, b) :: r)
    else if a < c then (if b = 0 then (c, x) :: r else (a, b) :: (c, x) :: r)
    else (c, x) :: memWr r a b

/-- The canonical form from an address on: strictly rising, no zero byte listed. -/
def wfFrom : Nat → List Host.Cell → Bool
  | _, [] => true
  | lo, (c, x) :: r => decide (lo ≤ c) && decide (x ≠ 0) && wfFrom (c + 1) r

/-- The canonical form of memory. -/
def Memory.wf (m : List Host.Cell) : Bool := wfFrom 0 m

/-- n bytes from an address, little-endian (R5). -/
def memRdN (m : List Host.Cell) : Nat → Nat → Nat
  | 0, _ => 0
  | n + 1, a => (memRd m a).toNat + 256 * memRdN m n (a + 1)

/-- Writes the n low bytes of a number from an address, little-endian (R5). -/
def memWrN (m : List Host.Cell) : Nat → Nat → Nat → List Host.Cell
  | 0, _, _ => m
  | n + 1, a, v => memWrN (memWr m a (BitVec.ofNat 8 v)) n (a + 1) (v / 256)

/-- What a device address names (R23 to R28). Offsets of host memory are host physical addresses (R28). -/
inductive Target where
  | hbm (t : TowerId)
  | pinned (t : TowerId) (slice : Nat)
  | ctrl (t : TowerId)
  | host
  | hole
  deriving DecidableEq, Repr

/-- Enabled HBM stacks of a tower, as fused (R1, R24). -/
def Tower.stackN (x : Tower) : Nat := x.sys.fuses.stackN

def hbmBase : TowerId → Nat
  | .t0 => 0
  | .t1 => 0x8000000000

def pinBase : TowerId → Nat
  | .t0 => 0x10000000000
  | .t1 => 0x18000000000

/-- The tower's pinned count P (R274). Of a tower that does not serve it is the one it has had in its configuration, or 16 when it has none yet: the other tower's accesses to the window are then UNAVAILABLE, not holes (R17, R27;
log entry 59). -/
def Tower.pinned (x : Tower) : Nat :=
  if 2 ≤ x.fget Fld.glbTower_STATE then x.fget Fld.llcCfg_PINNED
  else match x.sys.cfg with
    | some c => if c.pinned < 15 then c.pinned else x.fget Fld.llcCfg_PINNED
    | none => 16

/-- A slice takes part in pinned memory: its brick is enabled and not locked out (R20, R26). -/
def Tower.sliceLive (x : Tower) (s : Nat) : Bool := x.enabled.getLsbD s && (sfind x.lock s).isNone

/-- A slice has pinned banks: before fuses and lock-outs are read, as the fuses say (R20, R26, log entry 59). -/
def Tower.slicePinned (x : Tower) (s : Nat) : Bool :=
  if x.sys.boot.restored then x.sliceLive s else x.sys.fuses.enabled.getLsbD s

/-- The target of a device address of 48 bits (R23 to R26). -/
def State.target (s : State) (a : Nat) : Target :=
  let hbm := fun (t : TowerId) => decide (hbmBase t ≤ a) && decide (a < hbmBase t + (s.tw t).stackN * 48 * 2 ^ 30)
  let pin := fun (t : TowerId) =>
    if pinBase t ≤ a ∧ a < pinBase t + 576 * 2 ^ 22 then
      let o := a - pinBase t
      let sl := o / 2 ^ 22
      if o % 2 ^ 22 / 2 ^ 18 < (s.tw t).pinned ∧ (s.tw t).slicePinned sl then some sl else none
    else none
  if 2 ^ 48 ≤ a then .hole
  else if 2 ^ 47 ≤ a then .host
  else if hbm .t0 then .hbm .t0
  else if hbm .t1 then .hbm .t1
  else if 0x20000000000 ≤ a ∧ a < 0x20004000000 then .ctrl .t0
  else if 0x20004000000 ≤ a ∧ a < 0x20008000000 then .ctrl .t1
  else match pin .t0 with
    | some sl => .pinned .t0 sl
    | none => match pin .t1 with
      | some sl => .pinned .t1 sl
      | none => .hole

/-- The target of an address for a brick, route unit or NBU, to which control space is a hole (R26). -/
def State.targetB (s : State) (a : Nat) : Target :=
  match s.target a with
  | .ctrl _ => .hole
  | t => t

/-- The enabled kernel windows of a tower, as ranges of bytes (R668). -/
def Tower.kwins (x : Tower) : List (Nat × Nat) :=
  ((List.range 8).filter fun w => decide (x.fget Fld.mgtKwinBase_EN w = 1)).map fun w =>
    (x.fget Fld.mgtKwinBase_LINE w * 128, x.fget Fld.mgtKwinLimit_LINE w * 128 + 128)

/-- How far a list of ranges covers the bytes from an address on. -/
def coverTo (ws : List (Nat × Nat)) : Nat → Nat → Nat
  | 0, a => a
  | f + 1, a => coverTo ws f (ws.foldl (fun a w => if w.1 ≤ a ∧ a < w.2 then w.2 else a) a)

/-- Every byte of device memory of an access by a brick of the tower, or by an engine for it, lies in an enabled kernel
window, where kernel windows apply (R658, R659). -/
def Tower.kwinOk (x : Tower) (a n : Nat) : Bool :=
  decide (x.fget Fld.mgtProtCfg_KWIN_EN = 0) || decide (min (a + n) (2 ^ 47) ≤ coverTo x.kwins 8 a)

/-- The tower whose memory a target is. -/
def Target.home? : Target → Option TowerId
  | .hbm t => some t
  | .pinned t _ => some t
  | _ => none

def Target.isHbm : Target → Bool
  | .hbm _ => true
  | _ => false

/-- A tower serves hinge requests while READY or in compute-domain reset, not from the start of a warm tower reset on (R17, R595). -/
def Tower.serving (x : Tower) : Bool := decide (2 ≤ x.fget Fld.glbTower_STATE) && decide (x.sys.rst ≠ .warmQuiesce)

/-- Enabled slices of a tower (R277). -/
def Tower.homes (x : Tower) : Nat := x.fget Fld.llcStat_HOMES

/-- The k-th enabled slice, counting from 0 in ascending order. -/
def nthEnabled (m : BitVec 576) : Nat → Nat → Nat → Nat
  | 0, i, _ => i
  | f + 1, i, k => if m.getLsbD i then (if k = 0 then i else nthEnabled m f (i + 1) (k - 1)) else nthEnabled m f (i + 1) k

/-- Bits [19:0] reversed. -/
def rev20 (x : Nat) : Nat := (List.range 20).foldl (fun a i => if x.testBit i then a + 2 ^ (19 - i) else a) 0

/-- Line number of an HBM line within its tower's region (R277). -/
def hbmLineNo (t : TowerId) (line : Nat) : Nat := line - hbmBase t / 128

/-- The rank of the home of a line number among n slices (R277 steps 2 to 4). -/
def homeRank (n l : Nat) : Nat :=
  let x := (l ^^^ (l >>> 11) ^^^ (l >>> 22)) % 2 ^ 32
  rev20 (x % 2 ^ 20) * n / 2 ^ 20

/-- The home slice of an HBM line of the tower (R277). -/
def Tower.homeSlice (x : Tower) (line : Nat) : Nat :=
  nthEnabled x.enabled 576 0 (homeRank x.homes (hbmLineNo x.id line))

/-- The set of a line number in a home, as one key with the home's rank (R279). -/
def Tower.setKey (x : Tower) (l : Nat) : Nat := homeRank x.homes l * 4096 + l % (128 * (16 - x.pinned))

/-- Stack and channel-controller index of an HBM line (R349, R351). -/
def Tower.place (x : Tower) (line : Nat) : Nat × Nat :=
  let s := max 1 x.stackN
  let npc := 32 * s
  let l := hbmLineNo x.id line
  let q := l / npc
  let f := (q % 256 ^^^ q / 256 % 256 ^^^ q / 65536 % 256) % npc
  let c := (l % npc + f) % npc
  (c % s, 16 * (c % s) + c / s / 2)

def Tower.modMem (x : Tower) (f : MemSys → MemSys) : Tower := { x with mem := f x.mem }
def State.modMem (s : State) (t : TowerId) (f : MemSys → MemSys) : State := s.modTw t fun x => x.modMem f
/-- The host port takes no CXL.cache request: it is viral, or its partition is in reset (R489, R699). -/
def State.hostDown (s : State) : Bool := s.host.viral || !s.host.up

/-- Data that the host has sent with poison sets Poison_Received (R490). -/
def State.poisoned (s : State) (poison : Bool) : State :=
  if poison && !s.hostDown then { s with host := { s.host with poisonRx := true } } else s

/-- A write on CXL.cache leaves; it awaits its GO message (R487). -/
def State.hostWrite (s : State) (o : Out) (w : HostWr) : State :=
  { s with out := s.out ++ [o], host := { s.host with gos := s.host.gos ++ [w] } }

def State.send (s : State) (o : Out) : State := { s with out := s.out ++ [o] }

/-- The stored code word of a sector, in HBM or a pinned bank: data and check word (R346, R371). -/
def MemSys.stored (m : MemSys) (sec : Nat) : Sector × R32 :=
  let d : Sector := BitVec.ofNat 256 (memRdN m.cells 32 (sec * 32))
  (d, match sfind m.chks sec with
    | some c => c
    | none => eccEncode d)

/-- Stores a code word of a sector exactly as given. -/
def MemSys.store (m : MemSys) (sec : Nat) (d : Sector) (c : R32) : MemSys :=
  { m with
    cells := memWrN m.cells 32 (sec * 32) d.toNat
    chks := if c = eccEncode d then sdel m.chks sec else sset m.chks sec c }

def DirLine.sec (e : DirLine) (k : Nat) : Sector × R32 :=
  (lineSector e.data k, BitVec.ofNat 32 (e.chk.toNat >>> (32 * k)))

def DirLine.setSec (e : DirLine) (k : Nat) (d : Sector) (c : R32) : DirLine :=
  { e with
    data := lineSetSector e.data k d
    chk := BitVec.ofNat 128 (putBits e.chk.toNat (32 * k + 31) (32 * k) c.toNat)
    valid := e.valid ||| 2 ^ k }

/-- A line that may not be chosen as a victim (R282). -/
def DirLine.locked (e : DirLine) : Bool := e.held.isSome || e.red || e.visWait || e.biWait

/-- A line that a write-back or a raw operation holds (R282, R383, R395). -/
def MemSys.engHeld (m : MemSys) (line : Nat) : Bool := (m.wbq.any fun w => w.run && decide (w.sec / 4 = line)) || match m.raw with
  | some r => r.run && decide (r.line = line)
  | none => false

/-- A line that a request of an agent must wait for (R290): locked, but for the agent's own hold. -/
def DirLine.lockedFor (e : DirLine) (me : Option Agent) : Bool := (e.held.isSome && decide (e.held ≠ me)) || e.red || e.visWait || e.biWait

/-- The present code word of a sector at its home: the LLC copy where valid, else the stored one; and whether the LLC
supplied it. Open merge-buffer entries are flushed before a read (R288). -/
def MemSys.now (m : MemSys) (sec : Nat) : (Sector × R32) × Bool :=
  match sfind m.dir (sec / 4) with
  | some e => if e.valid.testBit (sec % 4) then (e.sec (sec % 4), true) else (m.stored sec, false)
  | none => (m.stored sec, false)

/-- Whether an operation at a home went through, or must wait there and be tried again. -/
inductive Ready where
  | ok (s : State)
  | wait (s : State)

def Ready.state : Ready → State
  | .ok s => s
  | .wait s => s

/-- Sends a back-invalidate snoop for a line and locks it until the response (R291, R295). -/
def sendSnoop (s : State) (h : TowerId) (line : Nat) (inv discard : Bool) (acks : List (TowerId × Nat × Nat)) : State :=
  let s := s.modMem h fun m =>
    { m with
      snoops := m.snoops ++ [⟨line, inv, acks, discard⟩]
      dir := smod DirLine.init m.dir line fun e => { e with biWait := true } }
  s.send (.bisnp line inv)

/-- Invalidates the other tower's visitor copy: an invalidation crosses the hinge and the line waits for its
acknowledgement (R291, R293); toward a tower that is not serving it is acknowledged at once (R294). -/
def sendVisInv (s : State) (h : TowerId) (line : Nat) : Ready :=
  if (s.tw h.other).serving then
    .wait ((s.modMem h fun m => { m with dir := smod DirLine.init m.dir line fun e => { e with visWait := true } }).modMem
      h.other fun m => { m with visIn := m.visIn ++ [.inv line] })
  else .ok (s.modMem h fun m => { m with dir := smod DirLine.init m.dir line fun e => { e with v := false } })

/-- Requests a compute-domain reset of a tower, for a cause code of R606; the first request stands (R386). -/
def State.askCdr (s : State) (t : TowerId) (cause : Nat) : State :=
  s.modTw t fun x => { x with cdrReq := x.cdrReq.orElse fun _ => some cause }

/-- Requests a warm tower reset. -/
def State.askWarm (s : State) (t : TowerId) (cause : Nat) : State :=
  s.modTw t fun x => { x with warmReq := x.warmReq.orElse fun _ => some cause }

/-- Requests a brick reset. -/
def State.askBrick (s : State) (t : TowerId) (slice cause : Nat) : State :=
  s.modTw t fun x => { x with brickReq := x.brickReq ++ [(slice, cause)] }

/-- Writes an entry of the ECC log, overwriting the oldest (R403, R404). -/
def Tower.eccLog (x : Tower) (kind source sector : Nat) : Tower :=
  let n := x.fget Fld.eccLogHead_NEXT
  let wrap := decide (x.fget Fld.eccLogAddr_VALID n = 1)
  let x := x.setReg .eccLogAddr n 0 (2 ^ 63 + kind * 2 ^ 60 + source * 2 ^ 56 + sector % 2 ^ 43 * 2 ^ 5)
  let x := x.setReg .eccLogTime n 0 (x.time17 / 17)
  let x := (x.fadd Fld.eccLogHead_TOTAL 1).fset Fld.eccLogHead_NEXT ((n + 1) % 16)
  if wrap then x.eccSet Fld.eccInt_LOG_WRAP 1 else x

/-- A bucket rises by one and overflows at its threshold (R382). -/
def Tower.bucketHit (x : Tower) (b : Nat) : Tower :=
  if b = 5 ∧ x.stackN ≤ 5 then x
  else
    let l := x.fget Fld.eccCeBucket_LEVEL b + 1
    if x.fget Fld.eccCeBucket_THRESH b ≤ l then
      let x := (x.fset Fld.eccCeBucket_LEVEL 0 b).fadd Fld.eccCeBucket_OVF_CNT 1 b
      x.eccSet Fld.eccInt_CE_OVF (x.fget Fld.eccInt_CE_OVF ||| 2 ^ b)
    else x.fset Fld.eccCeBucket_LEVEL l b

/-- Queues a write-back of a sector that HBM or a slice bank supplied (R383): merged when queued already, dropped with
WB_DROP when the queue is full. -/
def Tower.queueWb (x : Tower) (sec : Nat) (bank : Bool) : Tower :=
  if x.mem.wbq.any fun w => decide (w.sec = sec) && w.bank == bank then x
  else if 16 ≤ x.mem.wbq.length then x.eccSet Fld.eccInt_WB_DROP 1
  else x.modMem fun m => { m with wbq := m.wbq ++ [⟨sec, bank, false⟩] }

/-- A consumer's report of a correctable sector to the tower that supplied it: bucket, log, write-back (R377, R381, R397). -/
def State.correctable (s : State) (supply : TowerId) (sec bucket : Nat) : State :=
  s.modTw supply fun x =>
    let x := x.bucketHit bucket
    let x := if x.fget Fld.eccCtl_LOG_CE = 1 then x.eccLog 0 bucket sec else x
    if x.fget Fld.eccCtl_CE_MODE = 1 ∧ bucket < 7 then x.queueWb sec (decide (bucket = 6)) else x

/-- Drops every copy of a line at its home: LLC copy, merge entries, the other tower's visitor copy; dirty sectors are
discarded (R304, R388). -/
def dropLine (s : State) (h : TowerId) (line : Nat) : State :=
  (s.modMem h fun m =>
    { m with dir := sdel m.dir line, merge := m.merge.filter fun e => decide (e.sector / 4 ≠ line) }).modMem h.other
    fun m => { m with vis := sdel m.vis line }

/-- A line that the list of retired lines has no room for (R387, R389). -/
def MemSys.retireFull (m : MemSys) (line : Nat) : Bool := !m.retired.contains line && decide (4096 ≤ m.retired.length)

/-- Retires a line of a home (R387 to R389): entered once, its copies dropped, a host copy recalled and its data
discarded; when the list is full, RETIRE_FULL, a log entry with the SOURCE of the line and a warm tower reset. -/
def retireLine (s : State) (h : TowerId) (line source : Nat) : State :=
  let x := s.tw h
  if x.mem.retired.contains line then s
  else if x.mem.retireFull line then
    (s.modTw h fun x => (x.eccSet Fld.eccInt_RETIRE_FULL 1).eccLog 7 source (line * 4)).askWarm h 0x8
  else
    let host := match sfind x.mem.dir line with
      | some e => decide (e.h ≠ HostSt.hi)
      | none => false
    let s := (s.modMem h fun m => { m with retired := m.retired ++ [line] }).modTw h fun x => x.markDue 2
    let s := dropLine s h line
    if host then
      (s.modMem h fun m => { m with snoops := m.snoops ++ [(⟨line, true, [], true⟩ : Snoop)] }).send (.bisnp line true)
    else s

/-- Why an uncorrectable sector is met, which decides the reset of R384: a consumer of a tower, or a path that resets no
domain; or a parity error that four tries did not clear. -/
inductive UeBy where
  | consumer (t : TowerId)
  | noReset
  | parity (t : Option TowerId)
  deriving DecidableEq, Repr

/-- KIND of the log entry (R404). A fourth parity error of a read is logged as such by its requester (R345, log entry 60). -/
def UeBy.kind : UeBy → Nat
  | .consumer _ => 1
  | .noReset => 2
  | .parity _ => 5

/-- The tower whose compute domain is reset (R384). -/
def UeBy.reset? : UeBy → Option TowerId
  | .consumer t => some t
  | .noReset => none
  | .parity t => t

/-- The home tower of a line, or the given one for an address without a home. -/
def State.homeOr (s : State) (line : Nat) (t : TowerId) : TowerId := ((s.target (line * 128)).home?).getD t

/-- An uncorrectable sector of slice, LLC or HBM data (R384): logged and UE set in the tower that supplied it, the line retired at its
home, and the consumer's compute domain reset where the row says so. Where the home's list is full its warm tower reset takes the place
of a compute-domain reset of the home (R389). -/
def State.uncorrectable (s : State) (supply : TowerId) (sec bucket : Nat) (by' : UeBy) : State :=
  let s := s.modTw supply fun x => ((x.eccLog by'.kind bucket sec).eccSet Fld.eccInt_UE 1).histAdd 1 sec
  let h := s.homeOr (sec / 4) supply
  -- a home in warm tower reset fills its memory anew (R387)
  let full := (s.tw h).serving && (s.tw h).mem.retireFull (sec / 4)
  let s := if (s.tw h).serving then retireLine s h (sec / 4) bucket else s
  match by'.reset? with
  | some t => if full && decide (t = h) then s else s.askCdr t 0x2
  | none => s

/-- The bucket of a sector: its HBM stack, or 6 for a slice bank (R377). -/
def Tower.bucketOf (x : Tower) (tg : Target) (fromLlc : Bool) (sec : Nat) : Nat :=
  match tg with
  | .hbm _ => if fromLlc then 6 else (x.place (sec / 4)).1
  | _ => 6

end Sys2Proof.Machine
end

