-- ==== Sys2Proof/Machine/Channel.lean ====
section
/-! DEFINITION. The way of a request into a channel controller (R352 to R357, R362, R363): masters, deadlines, throttle levels and
tokens, and the room of the queue. -/

namespace Sys2Proof.Machine

open Sys2Proof

/-- The master that an agent's request is charged to at its home (R352, R353): its own, or hinge ingress. -/
def Agent.charged (a : Agent) (h : TowerId) : Nat := if a.t = h then a.master else 29

/-- A brick's engines and atomics as an agent of its course's master; `k` tells their requests apart. -/
def brickAgent (br : BrickRef) (k : Nat) : Agent := ⟨br.t, br.s.val / 24, k * 576 + br.s.val⟩

/-- The deadline of a real-time master's request made now (R354, R355), in units of 8 ns. -/
def Tower.deadlineOf (x : Tower) (m : Nat) : Option Nat :=
  if x.fget Fld.hbmMaster_RT m = 1 then some ((x.timeNs / 8 + x.fget Fld.hbmMaster_DL_DEFAULT m) % 2 ^ 16) else none

/-- The deadline of an agent's request: the one its message carries, else its master's default (R355). -/
def State.deadline (s : State) (a : Agent) (dl : Option Nat) : Option Nat := dl.orElse fun _ => (s.tw a.t).deadlineOf a.master

/-- The slack of a deadline at the tower's device time (R354). -/
def Tower.slack (x : Tower) (d : Nat) : Nat := (d + 2 ^ 16 - x.timeNs / 8 % 2 ^ 16) % 2 ^ 16

/-- Deadlines in the order of time about the present: a past one has the smaller number (R354, R356). -/
def Tower.dueKey (x : Tower) (d : Nat) : Nat := (x.slack d + 2 ^ 15) % 2 ^ 16

/-- Urgent: past, or within the horizon (R354). -/
def Tower.urgent (x : Tower) (d : Option Nat) (past : Bool) : Bool :=
  past || match d with
    | some d => decide (32768 ≤ x.slack d) || decide (x.slack d ≤ x.fget Fld.hbmReg_HORIZON)
    | none => false

/-- The throttle level that governs a request issued now (R361, R363): one changed in this MEM cycle does not yet. -/
def Tower.levelNow (x : Tower) (st m : Nat) : Nat :=
  let new := x.fget Fld.hbmTl_LEVEL st m
  match sfind x.mem.lvlOld (st * 32 + m) with
  | some o => if o.cyc = x.memCyc then o.lvl else new
  | none => new

/-- The key of a source's bucket for a master and a stack (R362). Sources: home slices by index, 576 the scrubber, 577 the trace
writer, 578 the host port. -/
def bucketKey (src m st : Nat) : Nat := (src * 32 + m) * 6 + st

/-- A bucket with what it has gained up to a MEM cycle at a level (R362): LEVEL sixteenths a cycle, at most 4 tokens. -/
def Bucket.gain (b : Bucket) (lvl now : Nat) : Bucket := ⟨max b.last now, min 64 (b.tok + lvl * (now - b.last))⟩

/-- Changes a throttle level (R361, R363, R365): what the buckets gain in the cycles up to this one, they gain at the old level. -/
def Tower.setLevel (x : Tower) (st m v : Nat) : Tower :=
  let old := x.fget Fld.hbmTl_LEVEL st m
  if old = v then x
  else
    let now := x.memCyc
    (x.fset Fld.hbmTl_LEVEL v st m).modMem fun k => { k with
      lvlOld := sset k.lvlOld (st * 32 + m) (match sfind k.lvlOld (st * 32 + m) with
        | some o => if o.cyc = now then o else ⟨now, old⟩
        | none => ⟨now, old⟩)
      buckets := k.buckets.map fun (p : Nat × Bucket) =>
        if p.1 % 6 = st ∧ p.1 / 6 % 32 = m then (p.1, p.2.gain old (now + 1)) else p }

/-- Takes the token that a source needs for a request (R362): none is needed at level 16 or for an urgent request; `none`
when the bucket is empty. A bucket never used before is full (log entry 14). -/
def Tower.takeToken (x : Tower) (src m st : Nat) (urgent : Bool) : Option Tower :=
  let lv := x.levelNow st m
  if lv = 16 ∨ urgent = true then some x
  else
    let key := bucketKey src m st
    let b := (sget (⟨x.memCyc, 64⟩ : Bucket) x.mem.buckets key).gain (x.fget Fld.hbmTl_LEVEL st m) x.memCyc
    if b.tok < 16 then none
    else some (x.modMem fun k => { k with buckets := sset k.buckets key { b with tok := b.tok - 16 } })

/-- A controller's queue has room for a request (R357). -/
def Tower.hbmRoom (x : Tower) (line : Nat) : Bool := decide ((sget Chan.init x.mem.chans (x.place line).2).q.length < 128)

/-- A source sends a request to its channel controller (R353, R357, R362): `none` while it has no token or the queue no room. -/
def Tower.hbmSend (x : Tower) (src : Nat) (r : HbmReq) : Option Tower :=
  if !x.hbmRoom r.line then none
  else (x.takeToken src r.master (x.place r.line).1 (x.urgent r.deadline r.past)).map fun x =>
    x.modMem fun m => { m with chans := smod Chan.init m.chans (x.place r.line).2 fun c => { c with q := c.q ++ [r] } }

/-- Sends the HBM read of a fill for some sectors from the miss unit of its home (R283, R353). -/
def Tower.fillRead (x : Tower) (line mask master : Nat) (dl : Option Nat) : Option Tower :=
  x.hbmSend (x.homeSlice line) ⟨master, line, mask, false, true, dl, false, 0, none⟩

/-- Sends a write of sectors from the miss unit of their home (R353): a write-back or a strict-dead marker. -/
def Tower.backWrite (x : Tower) (line mask master : Nat) : Option Tower :=
  x.hbmSend (x.homeSlice line) ⟨master, line, mask, true, false, none, false, 0, none⟩

/-- A read of HBM past the LLC for an agent, by a source (R353, R362): whether HBM has made it. One that has not been sent yet is sent,
when the source has a token and the queue room. -/
def State.directRead (s : State) (h : TowerId) (a : Agent) (src line mask : Nat) (dl : Option Nat) : State × Bool :=
  let x := s.tw h
  if x.mem.direct.contains (a, line, mask) then (s, true)
  else if (sget Chan.init x.mem.chans (x.place line).2).q.any fun r => decide (r.who = some a) && decide (r.line = line) then (s, false)
  else match x.hbmSend src ⟨a.charged h, line, mask, false, false, dl, false, 0, some a⟩ with
    | some y => (s.setTw h y, false)
    | none => (s, false)

/-- The reads past the LLC of an agent's line have been used. -/
def MemSys.directUsed (m : MemSys) (a : Agent) (line : Nat) : MemSys := { m with
  direct := m.direct.filter fun p => !(decide (p.1 = a) && decide (p.2.1 = line))
  lost := m.lost.filter fun p => !(decide (p.1 = a) && decide (p.2.1 = line)) }

/-- The deadline of a joining real-time request replaces a later one of a read not yet granted (R356). -/
def Tower.hasten (x : Tower) (line : Nat) (dl : Option Nat) : Tower :=
  match dl with
  | none => x
  | some d => x.modMem fun m => { m with chans := smod Chan.init m.chans (x.place line).2 fun c => { c with q := c.q.map fun r =>
      if r.line = line && r.fill then
        { r with deadline := match r.deadline with
          | some e => some (if x.dueKey d < x.dueKey e then d else e)
          | none => some d }
      else r } }

end Sys2Proof.Machine
end

