-- ==== Sys2Proof/Machine/Home.lean ====
section
/-! DEFINITION. What a home does with a line (R280 to R293): merge-buffer flushes, eviction and room, directory actions, writes, reads
with their fills and visitor copies, and the reads and writes of agents (R283, R353). -/

namespace Sys2Proof.Machine

open Sys2Proof

/-- Flushes one merge-buffer entry (R288): reads and decodes the sector, merges, writes it whole. A dead sector merges
into zero (R137, R374); an uncorrectable one is discarded and its line retired. -/
def flushEnt (s : State) (h : TowerId) (e : MergeEnt) : State :=
  let s := s.modMem h fun m => { m with merge := m.merge.filter fun x => decide (x.sector ≠ e.sector) }
  let m := (s.tw h).mem
  let r := m.now e.sector
  let c := eccDecode r.1.1 r.1.2
  let tg := s.target (e.sector * 32)
  let bucket := (s.tw h).bucketOf tg r.2 e.sector
  if c.1 = .uncorrectable then s.uncorrectable h e.sector bucket .noReset
  else
    let s := if c.1 = .correctable then s.correctable h e.sector bucket else s
    let old := if c.1 = .dead then 0 else c.2.toNat
    let d : Sector := BitVec.ofNat 256 (mergeBytes 32 old e.data.toNat e.mask.toNat)
    s.modMem h fun m =>
      match sfind m.dir (e.sector / 4), tg with
      | some l, .hbm _ =>
        let l' := { l.setSec (e.sector % 4) d (eccEncode d) with dirty := l.dirty ||| 2 ^ (e.sector % 4) }
        { m with dir := sset m.dir (e.sector / 4) l' }
      | _, _ => m.store e.sector d (eccEncode d)

/-- Flushes every entry of the given sectors. -/
def flushSecs (s : State) (h : TowerId) (p : Nat → Bool) : State :=
  ((s.tw h).mem.merge.filter fun e => p e.sector).foldl (fun s e => flushEnt s h e) s

/-- A line of the tower's own HBM. -/
def Tower.ownHbm (x : Tower) (line : Nat) : Bool := decide (line < 2 ^ 33) && decide (line / 2 ^ 32 = x.id.nat)

/-- The set of a line in a tower's LLC, its own or a visitor's (R279). -/
def Tower.setOf (x : Tower) (line : Nat) : Nat := x.setKey (hbmLineNo (if x.ownHbm line then x.id else x.id.other) line)

/-- The lines of a set: own HBM lines, visitor copies, and lines with a fill (R279, R282). -/
def Tower.setLines (x : Tower) (key : Nat) : List Nat :=
  let ls := ((skeys x.mem.dir).filter fun l => x.ownHbm l && decide (x.setOf l = key)) ++
    (skeys x.mem.vis).filter fun l => decide (x.setOf l = key)
  ls ++ (x.mem.fills.map FillReg.line).filter fun l => decide (x.setOf l = key) && !ls.contains l

/-- The class of a line of the LLC (R281). -/
def MemSys.clsOf (m : MemSys) (line : Nat) : Nat := match sfind m.dir line, sfind m.vis line with
  | some e, _ => e.cls
  | none, some v => v.cls
  | none, none => 1

/-- The ways of a set that may be chosen (R282): neither locked nor with a fill outstanding. -/
def Tower.victims (x : Tower) (key : Nat) : List Nat :=
  (x.setLines key).filter fun l => !(x.mem.fills.any fun f => decide (f.line = l)) && !x.mem.engHeld l && match sfind x.mem.dir l with
    | some e => !e.locked
    | none => true

/-- An allocation in a set waits because every way is locked (R282). -/
def Tower.setFull (x : Tower) (key : Nat) : Bool := decide (16 ≤ (x.setLines key).length) && (x.victims key).isEmpty

/-- `LLC_STAT.FILL_WAIT` (R282, R309). -/
def Tower.fillWaits (x : Tower) : Bool := x.mem.fillWait.any fun l => x.setFull (x.setOf l)

/-- Evicts a line: dirty sectors are written back, the write-back charged to the master of the allocation (R280, R353, R362): `none`
while the write-back has no token or no room. A visitor copy goes without notice (R293). -/
def evict (s : State) (h : TowerId) (line master : Nat) : Option State :=
  let s := flushSecs s h fun sec => decide (sec / 4 = line)
  match sfind (s.tw h).mem.dir line with
  | none => some (s.modMem h fun m => { m with vis := sdel m.vis line })
  | some e =>
    let ks := (List.range 4).filter fun k => e.dirty.testBit k
    let sent := if ks.isEmpty then some (s.tw h) else (s.tw h).backWrite line e.dirty master
    sent.map fun x => (s.setTw h x).modMem h fun m =>
      { ks.foldl (fun m k => m.store (line * 4 + k) (e.sec k).1 (e.sec k).2) m with dir := sdel m.dir line }

/-- Recalls the copies of a line that is to leave the LLC: the host's first, then the other tower's (R282, R291). -/
def recallHost (s : State) (h : TowerId) (line : Nat) : Ready :=
  match sfind (s.tw h).mem.dir line with
  | none => .ok s
  | some e => if e.h ≠ .hi then .wait (sendSnoop s h line true false []) else if e.v then sendVisInv s h line else .ok s

/-- Makes room for a line in its set (R282): a victim of the lowest class among the unlocked ways, never the most recently allocated
or hit one of the class while another may be chosen; its copies are recalled first, and the allocation waits. -/
def makeRoom (s : State) (t : TowerId) (line master : Nat) : Ready :=
  let x := s.tw t
  let key := x.setOf line
  let done := fun (s : State) => s.modMem t fun m => { m with fillWait := m.fillWait.filter fun l => decide (l ≠ line) }
  if (x.setLines key).length < 16 then .ok (done s)
  else
    let cand := x.victims key
    let lowest := cand.foldl (fun a l => min a (x.mem.clsOf l)) 3
    let cls := cand.filter fun l => decide (x.mem.clsOf l = lowest)
    let cls := if cls.length ≤ 1 then cls else
      cls.filter fun l => decide (sget 0 x.mem.mru (key * 4 + lowest) ≠ l + 1)
    match cls[Config.victim x.mem.pick % max 1 cls.length]? with
    | none => .wait (s.modMem t fun m => { m with fillWait := if m.fillWait.contains line then m.fillWait else m.fillWait ++ [line] })
    | some v =>
      match recallHost (s.modMem t fun m => { m with pick := m.pick + 1 }) t v with
      | .wait s => .wait s
      | .ok s' => match evict s' t v master with
        | some s => .ok (done s)
        | none => .wait s'

/-- Notes an allocation or hit of a line in a tower's LLC (R281, R282): its class rises, and it is the most recent of its class. -/
def touch (s : State) (t : TowerId) (line cls : Nat) : State :=
  s.modTw t fun x => x.modMem fun m =>
    let c := max (m.clsOf line) cls
    let m := { m with
      dir := match sfind m.dir line with
        | some e => sset m.dir line { e with cls := c }
        | none => m.dir
      vis := match sfind m.vis line with
        | some v => sset m.vis line { v with cls := c }
        | none => m.vis }
    if (sfind m.dir line).isSome || (sfind m.vis line).isSome then { m with mru := sset m.mru (x.setOf line * 4 + c) (line + 1) } else m

/-- The class a hint gives (R134, R281): stream 0, normal 1, keep 2. -/
def hintCls (hint : Nat) : Nat := if hint = 1 then 0 else if hint = 2 then 2 else 1

/-- A request of the host port, units 0 and 1 of master 28 (the command processor's agents have other units, log entry 31): what the host itself holds modified is not recalled for it (R291, R485). -/
def Agent.isHost (a : Agent) : Bool := decide (a.master = 28) && decide (a.unit < 2)

/-- The directory actions before a write, NBU step, atomic or reduction (R290, R291, R305): holds, locks and a drop that came before it
are waited for; a visitor copy is invalidated; a modified host copy is recalled. -/
def prepWrite (s : State) (h : TowerId) (me : Option Agent) (line : Nat) : Ready :=
  if (s.tw h).mem.engHeld line || (s.tw h).mem.dead.any fun d => decide (d.line = line) then .wait s
  else match sfind (s.tw h).mem.dir line with
  | none => .ok s
  | some e =>
    if e.lockedFor me then .wait s
    else if e.h = .ha then .wait (sendSnoop s h line true false [])
    else if e.v then sendVisInv s h line
    else .ok s

/-- The directory actions before a read (R290, R291, R305): holds, locks and a drop that came before it are waited for, a modified host
copy is recalled with BISnpData, and merge entries of the sectors are flushed (R288). -/
def prepRead (s : State) (h : TowerId) (me : Option Agent) (line secs : Nat) : Ready :=
  let go := flushSecs s h fun sec => decide (sec / 4 = line) && secs.testBit (sec % 4)
  if (s.tw h).mem.engHeld line || (s.tw h).mem.dead.any fun d => decide (d.line = line) then .wait s
  else match sfind (s.tw h).mem.dir line with
  | none => .ok go
  | some e =>
    if e.lockedFor me then .wait s
    else if decide (e.h = .ha) && !me.any Agent.isHost then .wait (sendSnoop s h line false false [])
    else .ok go

/-- Opens a merge entry or merges into one (R287); with all 16 entries of the slice in use, the oldest is flushed; a
full entry is flushed at once (R288). -/
def narrowWrite (s : State) (h : TowerId) (slice sec : Nat) (d : Sector) (mask : BitVec 32) : State :=
  let m := (s.tw h).mem
  match m.merge.find? fun e => decide (e.sector = sec) with
  | some e =>
    let e' : MergeEnt :=
      { e with data := BitVec.ofNat 256 (mergeBytes 32 e.data.toNat d.toNat mask.toNat), mask := e.mask ||| mask }
    let s := s.modMem h fun m => { m with merge := m.merge.map fun x => if x.sector = sec then e' else x }
    if e'.mask = BitVec.allOnes 32 then flushEnt s h e' else s
  | none =>
    let mine := m.merge.filter fun e => decide (e.slice = slice)
    let s := match mine with
      | o :: _ => if 16 ≤ mine.length then flushEnt s h o else s
      | [] => s
    s.modMem h fun m => { m with merge := m.merge ++ [⟨slice, sec, d, mask⟩] }

/-- The slice whose bank or LLC holds a line of a tower. -/
def Tower.sliceOf (x : Tower) (tg : Target) (line : Nat) : Nat :=
  match tg with
  | .pinned _ sl => sl
  | _ => x.homeSlice line

/-- Writes whole sectors at the home (R286): an HBM line is allocated when absent, its written sectors valid and dirty;
a pinned line is written in its bank. -/
def wholeWrite (s : State) (h : TowerId) (tg : Target) (line : Nat) (secs : List (Nat × Sector × R32)) (cls : Nat) : State :=
  match tg with
  | .hbm _ =>
    let s := s.modMem h fun m =>
      let e0 := match sfind m.dir line with
        | some e => e
        | none => { DirLine.init with cls := cls }
      let e := secs.foldl (fun e p => { e.setSec p.1 p.2.1 p.2.2 with dirty := e.dirty ||| 2 ^ p.1 }) e0
      { m with
        dir := sset m.dir line e
        merge := m.merge.filter fun x => !(secs.any fun p => decide (x.sector = line * 4 + p.1)) }
    touch s h line cls
  | _ => s.modMem h fun m =>
      let m := secs.foldl (fun m p => m.store (line * 4 + p.1) p.2.1 p.2.2) m
      { m with merge := m.merge.filter fun x => !(secs.any fun p => decide (x.sector = line * 4 + p.1)) }

/-- A device write at its home once its directory actions are done: whole sectors and narrow parts (R286, R287). The
check bits of each whole sector are generated by the writer (R261). -/
def writeLine (s : State) (h : TowerId) (tg : Target) (line : Nat) (data : Line) (mask : BitVec 128) (cls : Nat) : State :=
  let part := fun k => BitVec.ofNat 32 (mask.toNat >>> (32 * k))
  let full := (List.range 4).filter fun k => decide (part k = BitVec.allOnes 32)
  let some' := (List.range 4).filter fun k => decide (part k ≠ 0) && decide (part k ≠ BitVec.allOnes 32)
  let s := if full.isEmpty then s else
    wholeWrite s h tg line (full.map fun k => (k, lineSector data k, eccEncode (lineSector data k))) cls
  let slice := (s.tw h).sliceOf tg line
  let s := some'.foldl (fun s k => narrowWrite s h slice (line * 4 + k) (lineSector data k) (part k)) s
  -- a hit raises the class (R134, R281)
  if some'.isEmpty then s else touch s h line cls

/-- After a write to a line with a shared host copy, BISnpInv is sent and the system acknowledgement of the given stores
awaits the response (R291). Answers whether it does. -/
def afterWrite (s : State) (h : TowerId) (line : Nat) (acks : List (TowerId × Nat × Nat)) : State × Bool :=
  match sfind (s.tw h).mem.dir line with
  | some e => if e.h = .hs then (sendSnoop s h line true false acks, true) else (s, false)
  | none => (s, false)

/-- How an engine's access to a line ended. -/
inductive LineErr where
  | unavailable | retired | dead | uncorrectable | poison | hole
  deriving DecidableEq, Repr

/-- The result code of a line error in the engines' tables (R219, R242, R337). -/
def LineErr.code : LineErr → Nat
  | .unavailable => 0x15
  | .retired => 0x17
  | .dead => 0x18
  | .poison => 0x16
  | .hole => 0x13
  | .uncorrectable => 0

/-- A request of a tower that needed the hinge has completed with UNAVAILABLE (R599). -/
def State.unavail (s : State) (t : TowerId) : State := s.modTw t fun x => x.fadd Fld.hngStat_UNAVAIL 1

/-- An access of an agent of tower `t` to a line of home `h` can be made: the hinge is served and the line is not retired
(R17, R388). -/
def accessErr (s : State) (t h : TowerId) (line : Nat) : Option LineErr :=
  if t ≠ h ∧ !(s.tw h).serving then some .unavailable
  else if (s.tw h).mem.retired.contains line then some .retired
  else none

/-- Whole sectors are among the written bytes of a line. -/
def wholeMask (mask : BitVec 128) : Bool := (List.range 4).any fun k => decide (bits mask.toNat (32 * k + 31) (32 * k) = 2 ^ 32 - 1)

/-- A device write at its home after its directory actions (R286, R287, R291): whole sectors of an absent HBM line allocate it, and a
shared host copy is invalidated afterwards. Answers whether the stores' system acknowledgement waits for that. -/
def homeWrite (s : State) (h : TowerId) (tg : Target) (me : Option Agent) (line : Nat) (data : Line) (mask : BitVec 128)
    (cls master : Nat) (acks : List (TowerId × Nat × Nat)) : Ready × Bool :=
  match prepWrite s h me line with
  | .wait s => (.wait s, false)
  | .ok s =>
    match (if tg.isHbm && wholeMask mask && (sfind (s.tw h).mem.dir line).isNone then makeRoom s h line master else .ok s) with
    | .wait s => (.wait s, false)
    | .ok s =>
      let r := afterWrite (writeLine s h tg line data mask cls) h line acks
      (.ok r.1, r.2)

/-- The answer of a home to a read: it waits, it returns sectors, or a fill register holds the requester. -/
inductive HomeR where
  | wait (s : State)
  | served (s : State) (rets : List Ret)
  | filling (s : State)

/-- Sectors as they stand at the home. -/
def MemSys.retsOf (m : MemSys) (line : Nat) (secs : List Nat) : List Ret :=
  secs.map fun k => let r := m.now (line * 4 + k); ⟨line * 4 + k, r.1.1, r.1.2, r.2, false, none⟩

def errRets (line : Nat) (secs : List Nat) (e : RetErr) : List Ret := secs.map fun k => ⟨line * 4 + k, 0, 0, false, false, some e⟩

def maskOfSecs (secs : List Nat) : Nat := secs.foldl (fun a k => a ||| 2 ^ k) 0

/-- The sectors of a mask. -/
def secsOfMask (m : Nat) : List Nat := (List.range 4).filter fun k => m.testBit k

/-- Installs a visitor copy in the other tower and sets V (R291, R292): not while an invalidation of the line is on its
way (R293), not when every way of its set there is locked, and not for a line that the LLC of its home does not hold. -/
def installVisitor (s : State) (h : TowerId) (line : Nat) (secs : List Nat) (cls : Nat) : State :=
  let o := s.tw h.other
  if o.mem.visIn.contains (.inv line) || secs.isEmpty || (sfind (s.tw h).mem.dir line).isNone then s
  else
    match (if (sfind o.mem.vis line).isSome then Ready.ok s else makeRoom s h.other line 29) with
    | .wait _ => s
    | .ok s =>
      let m := (s.tw h).mem
      let v0 := sget (⟨cls, 0, 0, 0⟩ : VisCopy) (s.tw h.other).mem.vis line
      let v := secs.foldl (fun (v : VisCopy) k =>
        let r := (m.now (line * 4 + k)).1
        { v with valid := v.valid ||| 2 ^ k, data := lineSetSector v.data k r.1
                 chk := BitVec.ofNat 128 (putBits v.chk.toNat (32 * k + 31) (32 * k) r.2.toNat) }) v0
      let s := (s.modMem h.other fun m => { m with vis := sset m.vis line v }).modMem h fun m =>
        { m with dir := smod DirLine.init m.dir line fun e => { e with v := true } }
      touch s h.other line cls

/-- The requester itself, when it is an agent (R290). -/
def Requester.agent? : Requester → Option Agent
  | .agent a => some a
  | .brick _ _ _ _ _ _ => none

/-- A requester registered for sectors, with those that the line holds already (R285). -/
def Requester.noting (held : List Nat) : Requester → Requester
  | .brick t sl rid port secs _ => .brick t sl rid port secs held
  | .agent a => .agent a

/-- A read of sectors of an own line at its home (R283, R288, R291). An agent that asks again does not join a second time. -/
def homeRead (s : State) (h : TowerId) (tg : Target) (rq : Requester) (line : Nat) (secs : List Nat) (cls master : Nat)
    (dl : Option Nat) (visitor : Bool) : HomeR :=
  match prepRead s h rq.agent? line (maskOfSecs secs) with
  | .wait s => .wait s
  | .ok s =>
    if (s.tw h).mem.retired.contains line then .served s (errRets line secs .retired)
    else if !tg.isHbm then .served s ((s.tw h).mem.retsOf line secs)
    else
      let x := s.tw h
      let held := match sfind x.mem.dir line with
        | some e => secs.filter fun k => e.valid.testBit k
        | none => []
      let missing := secs.filter fun k => !held.contains k
      let rq := rq.noting held
      if missing.isEmpty then
        let s := touch s h line cls
        let s := if visitor then installVisitor s h line secs cls else s
        .served s ((s.tw h).mem.retsOf line secs)
      else
        match x.mem.fills.find? fun f => decide (f.line = line) with
        | some f =>
          let more := missing.filter fun k => !f.want.testBit k
          let again := rq.agent?.isSome && f.reqs.contains rq
          if again && more.isEmpty then .filling s
          else if !again && decide (64 ≤ f.reqs.length) then .wait s
          else
            let x := if again then x else (x.fadd Fld.llcCnt_JOINED 1).hasten line dl
            match (if more.isEmpty then some x else x.fillRead line (maskOfSecs more) master dl) with
            | none => .wait s
            | some y =>
              let f' := { f with
                want := f.want ||| maskOfSecs more, reqs := if again then f.reqs else f.reqs ++ [rq], visitor := f.visitor || visitor }
              .filling (touch (s.setTw h (y.modMem fun m => { m with fills := m.fills.map fun g => if g.line = line then f' else g })) h line cls)
        | none =>
          let sl := x.homeSlice line
          if 48 ≤ (x.mem.fills.filter fun f => decide (x.homeSlice f.line = sl)).length then .wait s
          else
            match (if (sfind x.mem.dir line).isSome then Ready.ok s else makeRoom s h line master) with
            | .wait s => .wait s
            | .ok s =>
              match (s.tw h).fillRead line (maskOfSecs missing) master dl with
              | none => .wait s
              | some y =>
                let y := (y.fadd Fld.llcCnt_OPENED 1).modMem fun m =>
                  { m with
                    dir := if (sfind m.dir line).isSome then m.dir else sset m.dir line { DirLine.init with cls := cls }
                    fills := m.fills ++ [⟨line, maskOfSecs missing, 0, 0, 0, 0, cls, [rq], visitor⟩] }
                .filling (touch (s.setTw h y) h line cls)

/-- Ensures that the sectors of a line are valid at its home for an agent: served, or a fill is opened and the access waits. -/
def needLine (s : State) (h : TowerId) (tg : Target) (a : Agent) (line mask : Nat) (dl : Option Nat) : Ready :=
  match homeRead s h tg (.agent a) line (secsOfMask mask) 1 (a.charged h) (s.deadline a dl) false with
  | .wait s => .wait s
  | .served s _ => .ok s
  | .filling s => .wait s

/-- The sectors of a line that an agent's fill brought uncorrectable (R345, R384). -/
def MemSys.lostOf (m : MemSys) (a : Agent) (line : Nat) : Nat :=
  ((m.lost.find? fun p => decide (p.1 = a) && decide (p.2.1 = line)).map fun p => p.2.2).getD 0

/-- A visitor copy in an agent's tower that holds the sectors (R292). -/
def State.visHit (s : State) (t h : TowerId) (line secs : Nat) : Bool := decide (h ≠ t) && match sfind (s.tw t).mem.vis line with
  | some v => decide (secs &&& v.valid = secs)
  | none => false

/-- The code word of a sector of a visitor copy. -/
def VisCopy.sec (v : VisCopy) (k : Nat) : Sector × R32 := (lineSector v.data k, BitVec.ofNat 32 (v.chk.toNat >>> (32 * k)))

/-- Decodes the sectors of a line, of a visitor copy in the consumer's tower or at the home, reporting to the tower that supplied them
(R372, R376, R377, R384): the decoded line, or the first error. -/
def decodeLine (s : State) (t h : TowerId) (tg : Target) (line secs : Nat) : State × Except LineErr Line :=
  let vis := if s.visHit t h line secs then sfind (s.tw t).mem.vis line else none
  (secsOfMask secs).foldl (fun (acc : State × Except LineErr Line) k =>
    match acc.2 with
    | .error _ => acc
    | .ok l =>
      let sec := line * 4 + k
      let r := match vis with
        | some v => (v.sec k, true)
        | none => (acc.1.tw h).mem.now sec
      let c := eccDecode r.1.1 r.1.2
      let by' := if vis.isSome then t else h
      let b := (acc.1.tw h).bucketOf tg r.2 sec
      match c.1 with
      | .clean => (acc.1, .ok (lineSetSector l k c.2))
      | .correctable => (acc.1.correctable by' sec b, .ok (lineSetSector l k c.2))
      | .dead => (acc.1, .error .dead)
      | .uncorrectable => (acc.1.uncorrectable by' sec b (.consumer t), .error .uncorrectable)) (s, .ok 0)

/-- Whether an agent's read of a line can be made now: it waits at the home (R290, R291), or what it takes is there or fails. -/
def engReady (s : State) (a : Agent) (dl : Option Nat) (line secs : Nat) : Ready :=
  let tg := s.targetB (line * 128)
  match tg.home? with
  | none => .ok s
  | some h =>
    if decide (((s.tw h).mem.lostOf a line) &&& secs ≠ 0) || s.visHit a.t h line secs || (accessErr s a.t h line).isSome then .ok s
    else needLine s h tg a line secs dl

/-- What an agent's read of a line takes, once it can be made (R133, R219, R384): the decoded line or the error. -/
def engTake (s : State) (a : Agent) (line secs : Nat) : State × Except LineErr Line :=
  let tg := s.targetB (line * 128)
  match tg.home? with
  | none => (s, .error .hole)
  | some h =>
    let bad := (s.tw h).mem.lostOf a line &&& secs
    if bad ≠ 0 then
      let sec := line * 4 + (lowFrom 4 0 bad).getD 0
      ((s.modMem h fun m => { m with lost := m.lost.filter fun p => !(decide (p.1 = a) && decide (p.2.1 = line)) }).uncorrectable h sec
        ((s.tw h).bucketOf tg false sec) (.parity (some a.t)), .error .uncorrectable)
    else if s.visHit a.t h line secs then decodeLine (touch s a.t line 1) a.t h tg line secs
    else match accessErr s a.t h line with
      | some e => (if e = .unavailable then s.unavail a.t else s, .error e)
      | none => decodeLine s a.t h tg line secs

/-- An agent's read of bytes of device memory at their homes: it waits, or ends with the bytes as a number or the first error. -/
inductive EngR where
  | wait (s : State)
  | done (s : State) (r : Except LineErr Nat)

/-- The lines of consecutive bytes. -/
def lineCount (addr n : Nat) : Nat := if n = 0 then 0 else (addr + n - 1) / 128 - addr / 128 + 1

/-- The sectors of the i-th line from an address on that n bytes touch. -/
def lineSecs (addr n i : Nat) : Nat :=
  let lo := addr % 128
  (List.range 4).foldl (fun m k =>
    let b := 128 * i + 32 * k
    if lo < b + 32 ∧ b < lo + n then m + 2 ^ k else m) 0

/-- An agent asks for every line of consecutive bytes that it lacks; whether all are there. -/
def engAskBytes (s : State) (a : Agent) (dl : Option Nat) (addr n : Nat) : State × Bool :=
  (List.range (lineCount addr n)).foldl (fun (acc : State × Bool) i =>
    match engReady acc.1 a dl (addr / 128 + i) (lineSecs addr n i) with
    | .ok s => (s, acc.2)
    | .wait s => (s, false)) (s, true)

/-- An agent asks for several ranges of bytes; whether all are there. -/
def engAskAll (s : State) (a : Agent) (rs : List (Nat × Nat)) : State × Bool :=
  rs.foldl (fun (acc : State × Bool) p => let r := engAskBytes acc.1 a none p.1 p.2; (r.1, acc.2 && r.2)) (s, true)

/-- An agent's read of consecutive bytes (R283, R291): every line it lacks is asked for before it waits, and nothing is taken before
all are there. A request with a deadline of its own carries `dl` (R355). -/
def engReadBytes (s : State) (a : Agent) (dl : Option Nat) (addr n : Nat) : EngR :=
  let first := addr / 128
  let p := engAskBytes s a dl addr n
  if !p.2 then .wait p.1
  else
    let r := (List.range (lineCount addr n)).foldl (fun (acc : State × Except LineErr Nat) i => match acc.2 with
      | .error _ => acc
      | .ok v =>
        let r := engTake acc.1 a (first + i) (lineSecs addr n i)
        (r.1, r.2.map fun l => v + l.toNat <<< (1024 * i))) (p.1, .ok 0)
    .done r.1 (r.2.map fun v => (v >>> (8 * (addr % 128))) % 2 ^ (8 * n))

/-- An agent's write at its homes: it waits, or ends, with the first error if any. -/
inductive EngW where
  | wait (s : State)
  | done (s : State) (e : Option LineErr)

/-- An agent's write of bytes within one line (R286, R287, R291). -/
def engWrite (s : State) (a : Agent) (line : Nat) (data : Line) (mask : BitVec 128) : EngW :=
  let tg := s.targetB (line * 128)
  match tg.home? with
  | none => .done s (some .hole)
  | some h =>
    match accessErr s a.t h line with
    | some e => .done (if e = .unavailable then s.unavail a.t else s) (some e)
    | none => match (homeWrite s h tg (some a) line data mask 1 (a.charged h) []).1 with
      | .wait s => .wait s
      | .ok s => .done s none

/-- The lines of a write that must still wait ask for what they wait for. -/
def engWriteReady (s : State) (a : Agent) (line : Nat) : Ready :=
  match (s.targetB (line * 128)).home? with
  | none => .ok s
  | some h => if (accessErr s a.t h line).isSome then .ok s else prepWrite s h (some a) line

/-- An agent's write of the n low bytes of a value from an address (R286, R287, R291): nothing is written while a line must wait. -/
def engWriteBytes (s : State) (a : Agent) (addr n v : Nat) : EngW :=
  let first := addr / 128
  let is := List.range (lineCount addr n)
  let big := (v % 2 ^ (8 * n)) <<< (8 * (addr % 128))
  let msk := (2 ^ n - 1) <<< (addr % 128)
  let p := is.foldl (fun (acc : State × Bool) i => match engWriteReady acc.1 a (first + i) with
    | .ok s => (s, acc.2)
    | .wait s => (s, false)) (s, true)
  if !p.2 then .wait p.1
  else is.foldl (fun (acc : EngW) i => match acc with
    | .done s none =>
      (match engWrite s a (first + i) (BitVec.ofNat 1024 (big >>> (1024 * i))) (BitVec.ofNat 128 (msk >>> (128 * i))) with
      | .wait _ => .wait p.1
      | .done s e => .done s e)
    | r => r) (.done p.1 none)

end Sys2Proof.Machine
end

