-- ==== Sys2Proof/Machine/MemInstr.lean ====
section
/-! DEFINITION. Memory, atomic and fence instructions 0xA0 to 0xB4: encodings (R116 to R119), effective addresses and
issue-time faults (R126 to R133), orders and scopes (R139 to R144), atomic operations (R146 to R148). -/

namespace Sys2Proof.Machine

open Sys2Proof

/-- The value of n consecutive registers of a lane. -/
def regsVal (th : Thread) (r : Nat) : Nat → Nat
  | 0 => 0
  | n + 1 => (rdG th r).toNat + 2 ^ 32 * regsVal th (r + 1) n

/-- The effective address of a lane (R126). -/
def laneAddr (x : Ctx) (spc : MSpace) (l : Nat) : Int :=
  match spc with
  | .g => (wrapN 64 (((x.aPair l).toNat : Int) + x.f.offset) : Nat)
  | _ => ((x.a l).toNat : Int) + x.f.offset

/-- The bytes lie within one buffer window of the launch that grants the access (R133). -/
def RunCtx.winOk (r : RunCtx) (a n : Nat) (write : Bool) : Bool :=
  r.wins.any fun w => decide (w.base ≤ a) && decide (a + n ≤ w.base + w.size) && (!write || w.write)

/-- The bytes lie in a window that the launch marks constant (R256). -/
def RunCtx.winConst (r : RunCtx) (a n : Nat) : Bool :=
  r.wins.any fun w => w.const && decide (w.base ≤ a) && decide (a + n ≤ w.base + w.size)

/-- The first issue-time fault of a lane's access, in the order of R133. -/
def laneFault (s : State) (x : Ctx) (spc : MSpace) (write : Bool) (l : Nat) : Option Nat :=
  let n := x.f.mBytes
  let a := laneAddr x spc l
  if a % n ≠ 0 then some 0x10
  else match spc with
    | .sp => if a < 0 ∨ (x.blk.spBytes : Int) ≤ a then some 0x11 else none
    | .csp =>
      let u := a.toNat
      if a < 0 ∨ 2 ^ 22 ≤ u ∨ x.run.cluster ≤ u / 2 ^ 19 ∨ x.run.spBytes ≤ u % 2 ^ 19 then some 0x12 else none
    | .g =>
      let u := a.toNat
      if s.targetB u = .hole ∨ (s.tw x.ref.b.t).kwinOk u n = false then some 0x13
      else if x.run.winOk u n write then none else some 0x14

/-- The fault that is recorded: the first in the order of R82, at the lowest lane that has it. -/
def firstFault (s : State) (x : Ctx) (spc : MSpace) (write : Bool) : Option (Nat × Nat) :=
  let fs := (lanesOf x.exec).filterMap fun l => (laneFault s x spc write l).map fun c => (c, l)
  fs.foldl (fun a p => match a with
    | some (c, l) => if p.1 < c then some p else some (c, l)
    | none => some p) none

/-- A floating-point atomic (R147). -/
def atomFp (aop : Nat) (old b : Nat) : Nat :=
  let add := fun (f : FFmt) (x y : Nat) => (fEncode f 0 false false 0 (fvAdd 0 (fDecode f false x) (fDecode f false y)).1).1
  match aop with
  | 8 => add fp32 old b
  | 9 => (fEncode fp32 0 false false 0 (fvMinMax true (fDecode fp32 false old) (fDecode fp32 false b)).1).1
  | _ => add bf16 (old % 2 ^ 16) (b % 2 ^ 16) + add bf16 (bits old 31 16) (bits b 31 16) * 2 ^ 16

/-- The new value of a location of n bytes under an atomic operation (R147). -/
def atomNew (aop : Nat) (uns : Bool) (n old b c : Nat) : Nat :=
  let w := 8 * n
  let lt := fun x y => if uns then decide (x < y) else decide (sext w x < sext w y)
  match aop with
  | 0 => (old + b) % 2 ^ w
  | 1 => if lt b old then b else old
  | 2 => if lt old b then b else old
  | 3 => old &&& b
  | 4 => old ||| b
  | 5 => old ^^^ b
  | 6 => b
  | 7 => if old = b then c else old
  | _ => atomFp aop old b

/-- The operands of several lanes applied to one location in lane order: each lane's old value and the final value
(R148). -/
def atomLanes (aop : Nat) (uns : Bool) (n : Nat) (v : Nat) (ls : List LaneAcc) : List (Nat × Nat) × Nat :=
  ls.foldl (fun a x => (a.1 ++ [(x.lane, a.2)], atomNew aop uns n a.2 x.data x.cas)) ([], v)

/-- A byte of a block's scratchpad; one that it has not written is zero after a fill (R378, R380), else free (R53). -/
def Block.spByte (pb : Nat) (k : Block) (o : Nat) : Byte := (sfind k.sp o).getD (if k.fresh then 0 else Config.scratchFree pb k.epoch o)

/-- n bytes of a block's scratchpad, little-endian. -/
def Block.spRd (pb : Nat) (k : Block) (o : Nat) : Nat → Nat
  | 0 => 0
  | n + 1 => (k.spByte pb o).toNat + 256 * Block.spRd pb k (o + 1) n

/-- Writes the n low bytes of a value to a block's scratchpad. -/
def Block.spWr (k : Block) : Nat → Nat → Nat → Block
  | 0, _, _ => k
  | n + 1, o, v => ({ k with sp := sset k.sp o (BitVec.ofNat 8 v) } : Block).spWr n (o + 1) (v / 256)

/-- Applies lanes' accesses to a block's scratchpad, in ascending lane order (R130, R148): the values they read, and the
block. `base` is taken off each address. -/
def Block.access (pb : Nat) (k : Block) (kind : MemKind) (n aop : Nat) (uns : Bool) (base : Nat) (ls : List LaneAcc) :
    SMap Nat × Block :=
  ls.foldl (fun a x =>
    let o := x.addr - base
    match kind with
    | .store => (a.1, a.2.spWr n o x.data)
    | .load | .prefetch => (sset a.1 x.lane (a.2.spRd pb o n), a.2)
    | .atom | .red =>
      let old := a.2.spRd pb o n
      (sset a.1 x.lane old, a.2.spWr n o (atomNew aop uns n old x.data x.cas))) ([], k)

def L1Line.sec (x : L1Line) (k : Nat) : L1Sector :=
  match k with
  | 0 => x.s0
  | 1 => x.s1
  | 2 => x.s2
  | _ => x.s3

def L1Line.setSec (x : L1Line) (k : Nat) (v : L1Sector) : L1Line :=
  match k with
  | 0 => { x with s0 := v }
  | 1 => { x with s1 := v }
  | 2 => { x with s2 := v }
  | _ => { x with s3 := v }

def L1Line.mapSec (x : L1Line) (f : L1Sector → L1Sector) : L1Line :=
  { x with s0 := f x.s0, s1 := f x.s1, s2 := f x.s2, s3 := f x.s3 }

/-- A line without a valid or pending sector holds no way. -/
def L1Line.free (x : L1Line) : Bool :=
  decide (x.s0.st = .i) && decide (x.s1.st = .i) && decide (x.s2.st = .i) && decide (x.s3.st = .i)

/-- Changes one sector of a held line; a line left without a valid or pending sector is dropped. -/
def Brick.l1Mod (b : Brick) (sec : Nat) (f : L1Sector → L1Sector) : Brick :=
  match sfind b.l1 (sec / 4) with
  | none => b
  | some l =>
    let l := l.setSec (sec % 4) (f (l.sec (sec % 4)))
    { b with l1 := if l.free then sdel b.l1 (sec / 4) else sset b.l1 (sec / 4) l }

/-- The state of a sector in the L1. -/
def Brick.l1State (b : Brick) (sec : Nat) : L1Sector := (sget L1Line.init b.l1 (sec / 4)).sec (sec % 4)

/-- The invalidation of V sectors of a line (R250). -/
def dropV (x : L1Sector) : L1Sector := if x.st = .v then ⟨.i, 0⟩ else x

/-- The engine of a brick that reads lines of code for the instruction cache (R255), beside those of the array and the tile
sequencer. -/
def fetchUnit : Nat := 2 ^ 60

/-- The engine number of the tile sequencer's reads and drains; its reads for one access are told apart by what is added to it. -/
def tileUnit : Nat := 2 ^ 61

/-- The engine number of completion words, whose failed write is lost (R219). -/
def wordUnit : Nat := 2 ^ 100

/-- A register becomes ORPHAN, or FREE when it has no more to wait for (R253). -/
def MReg.orphaned (m : MReg) : Option MReg := if m.settled then none else some { m with st := .orphan }

/-- An invalidation of the L1 and the read-only caches, at launch start or an acquire (R141, R145, R250, R253): lines on their way to
these caches are not installed. -/
def Brick.invalidate (b : Brick) : Brick :=
  let bar := fun (p : Nat × MemOp) => (p.1, { p.2 with inst := false })
  { b with
    l1 := (b.l1.map fun p => (p.1, p.2.mapSec dropV)).filter fun p => !p.2.free
    mregs := b.mregs.filterMap MReg.orphaned
    inflight := b.inflight.map bar
    l1in := b.l1in.map bar
    ebuf := b.ebuf.filter fun e => decide (e.who ≠ fetchUnit)
    icache := []
    ccache := []
    dcache := []
    romru := [] }

/-- A dead load completes on a line (R250, R253). -/
def Brick.deadLine (b : Brick) (line : Nat) : Brick :=
  let l1 := match sfind b.l1 line with
    | some l => let l := l.mapSec dropV; if l.free then sdel b.l1 line else sset b.l1 line l
    | none => b.l1
  { b with l1 := l1, mregs := b.mregs.filterMap fun m => if m.line = line then m.orphaned else some m }

/-- Marks the reads of a sector as older than a store of this brick (R252). -/
def Brick.staleReads (b : Brick) (sec : Nat) : Brick :=
  { b with mregs := b.mregs.map fun m => { m with
      reads := m.reads.map fun r => if r.sector = sec then { r with stale := true } else r } }

/-- A store's effect on one sector of the L1 (R134, R250). -/
def Brick.l1Store (b : Brick) (sec : Nat) (data : Sector) (mask : Nat) (noL1 : Bool) : Brick :=
  (b.staleReads sec).l1Mod sec fun x =>
    match x.st with
    | .i => x
    | .v => if noL1 then ⟨.i, 0⟩ else ⟨.v, BitVec.ofNat 256 (mergeBytes 32 x.data.toNat data.toNat mask)⟩
    | .p | .ps => ⟨.ps, 0⟩

/-- A store or atomic invalidates a line of the constant and descriptor caches (R258). -/
def Brick.roInval (b : Brick) (line : Nat) : Brick :=
  { b with ccache := sdel b.ccache line, dcache := sdel (sdel b.dcache line) (line - 1) }

/-- The group of an instruction that has issued: the current threads advance, results are pending, and an acquiring access
holds later accesses back (R141). -/
def Ctx.memGroup (x : Ctx) (pend : List Pend) (acq : Option Nat) : Group :=
  let grp := x.grp.mapLanes x.cur fun _ th => { th with pc := th.pc + BitVec.ofNat 32 x.f.len }
  { grp with pend := grp.pend ++ pend, acq := acq }

/-- The accesses of the executing lanes (R126). -/
def Ctx.laneAccs (x : Ctx) (spc : MSpace) (k : MemKind) (via : Nat → LaneVia) : List LaneAcc :=
  let n := mRegs x.f.mSize
  (lanesOf x.exec).map fun l =>
    let th := x.grp.thread l
    let a := (laneAddr x spc l).toNat
    let v := if k = .store then regsVal th x.f.d n else if k.isAtomic then regsVal th x.f.b n else 0
    let c := if k.isAtomic && decide (x.f.mAop = 7) then regsVal th x.f.c n else 0
    ⟨l, a, v % 2 ^ (8 * x.f.mBytes), c % 2 ^ (8 * x.f.mBytes), via a⟩

/-- The operation of an instruction. -/
def Ctx.memOp (x : Ctx) (id : Nat) (k : MemKind) (lanes : List LaneAcc) : MemOp :=
  { id := id, launch := x.run.launch, strict := x.run.strictDead, gid := x.grp.gid, block := x.grp.block, sched := x.ref.sched.val, kind := k, pc := x.pc, bytes := x.f.mBytes
    sx := x.f.mSx, hint := x.f.mHint, acquire := x.f.mOrder.testBit 0, scope := x.f.mScope, aop := x.f.mAop
    unsig := x.f.mAu, dst := x.f.d, lanes := lanes, need := [], got := [], olds := [], inst := true, acc := id, err := none }

/-- Distinct values of a list, in order. -/
def uniq : List Nat → List Nat
  | [] => []
  | a :: r => a :: (uniq r).filter fun b => b ≠ a

/-- The sectors, by sector number, that the lanes through the L1 touch. -/
def MemOp.l1Secs (o : MemOp) : List Nat :=
  uniq ((o.lanes.filter fun a => decide (a.via = .l1)).map fun a => a.addr / 32)

/-- The brick of a cluster's rank: the one of the course whose block holds it (R58, R59), with the block's slot. -/
def State.cspTarget (s : State) (br : BrickRef) (launch clusterId rank : Nat) : Option (Nat × Nat) :=
  (List.range 24).findSome? fun i =>
    let sl := br.s.val / 24 * 24 + i
    ((s.tw br.t).brick sl).blocks.findSome? fun p =>
      if p.2.launch = launch ∧ p.2.clusterId = clusterId ∧ p.2.rank = rank ∧ !p.2.retired then some (sl, p.1) else none

/-- The cluster accesses of an operation, one per rank: stores become outstanding, the others are awaited. `dest` gives the slice of a
rank's brick (R268). -/
def sendCsp (x : Ctx) (id : Nat) (dest : Nat → Option Nat) (op : MemOp) (away : List LaneAcc) (b : Brick) : Brick × MemOp :=
  (uniq (away.map fun a => a.addr / 2 ^ 19)).foldl (fun (p : Brick × MemOp) r =>
    let n := p.1.nextId
    let ls := away.filter fun a => decide (a.addr / 2 ^ 19 = r)
    let st := decide (op.kind = .store)
    let m : CspMsg := ⟨n, dest r, if st then none else some id, op.gid, x.run.launch, x.blk.clusterId, r, op.kind, op.bytes,
      op.aop, op.unsig, ls⟩
    let o : Outst := ⟨n, id, none, op.gid, x.run.launch, .none, true, false, (ls.head?.map LaneAcc.lane).getD 0, x.pc, (ls.head?.map LaneAcc.addr).getD 0⟩
    ({ p.1 with nextId := n + 1, cspQ := p.1.cspQ ++ [m], outst := if st then p.1.outst ++ [o] else p.1.outst },
     { p.2 with need := if st then p.2.need else p.2.need ++ [(n, 0)] })) (b, op)

/-- The atomics of an operation that execute away from the brick, one per address (R148): L1 copies of the lanes' sectors
and read-only lines are invalidated at issue (R146, R258). A reduction with acquire order is awaited too (R141). -/
def sendAtoms (x : Ctx) (id : Nat) (op : MemOp) (away : List LaneAcc) (b : Brick) : Brick × MemOp :=
  (uniq (away.map LaneAcc.addr)).foldl (fun (p : Brick × MemOp) a =>
    let n := p.1.nextId
    let ls := away.filter fun y => decide (y.addr = a)
    let at' := decide (op.kind = .atom) || op.acquire
    let m : AtomMsg := ⟨n, if at' then some id else none, a, op.bytes, op.aop, op.unsig, op.hint, decide (op.scope = 5), ls⟩
    let o : Outst := ⟨n, id, none, op.gid, x.run.launch, .none, false, false, (ls.head?.map LaneAcc.lane).getD 0, x.pc, (ls.head?.map LaneAcc.addr).getD 0⟩
    ({ (p.1.l1Store (a / 32) 0 0 true).roInval (a / 128) with
        nextId := n + 1, atomQ := p.1.atomQ ++ [m], outst := p.1.outst ++ [o] },
     { p.2 with need := if at' then p.2.need ++ [(n, 0)] else p.2.need })) (b, op)

/-- The lanes that the constant cache serves (R255, R256): a hit gives the lane its value, a missing line is read whole past
the L1. The line's reads are listed for sending. -/
def constLanes (op : MemOp) (ls : List LaneAcc) (b : Brick) : Brick × MemOp × List RdMsg :=
  let hit := ls.filter fun a => (sfind b.ccache (a.addr / 128)).isSome
  let olds := hit.foldl (fun m a =>
    sset m a.lane (bits (sget 0 b.ccache (a.addr / 128)).toNat (8 * (a.addr % 128 + op.bytes) - 1) (8 * (a.addr % 128)))) op.olds
  let miss := uniq ((ls.filter fun a => (sfind b.ccache (a.addr / 128)).isNone).map fun a => a.addr / 128)
  let rds := miss.zipIdx.map fun p => (⟨b.nextId + p.2, p.1, [0, 1, 2, 3], op.hint, false⟩ : RdMsg)
  let b := { b with romru := hit.foldl (fun m (a : LaneAcc) => sset m (100 + a.addr / 128 % 32) (a.addr / 128 + 1)) b.romru }
  (b.take miss.length,
   { op with olds := olds, need := op.need ++ rds.flatMap fun r => (List.range 4).map fun k => (r.rid, r.line * 4 + k) }, rds)

/-- A line that the brick reaches over its vertical port: pinned memory of the own slice, or an HBM line homed there
(R259). -/
def State.ownLine (s : State) (br : BrickRef) (line : Nat) : Bool :=
  match s.targetB (line * 128) with
  | .pinned t sl => decide (t = br.t) && decide (sl = br.s.val)
  | .hbm t => decide (t = br.t) && decide ((s.tw t).homeSlice line = br.s.val)
  | _ => false

/-- The longest prefix of a list whose members satisfy a test. -/
def prefixLen {α : Type} (p : α → Bool) : List α → Nat
  | [] => 0
  | a :: r => if p a then prefixLen p r + 1 else 0

/-- Requests that wait in the brick enter the port's queues while these have room (R260, R262, R263): the down queue of 64 reads, each
with one of 128 lines of the up queue reserved for it, and the write queue of 32 lines with at most 128 lines unacknowledged; those for
one line in the brick's order. -/
def Brick.pump (b : Brick) : Brick :=
  let rds := prefixLen (fun r => !b.sendWr.any fun w => decide (w.line = r.line) && decide (w.ord < r.rid)) b.sendRd
  let wrs := prefixLen (fun w => !b.sendRd.any fun r => decide (w.line = r.line) && decide (r.rid < w.ord)) b.sendWr
  let wack := (b.outst.filter fun o => o.own && !(b.sendWr.any fun w => decide (w.wid = o.wid))).length
  let n := min rds (min (64 - b.downQ.length) (128 - b.portOut.length))
  let k := min wrs (min (32 - b.writeQ.length) (128 - wack))
  { b with
    sendRd := b.sendRd.drop n, downQ := b.downQ ++ b.sendRd.take n, portOut := b.portOut ++ (b.sendRd.take n).map RdMsg.rid
    sendWr := b.sendWr.drop k, writeQ := b.writeQ ++ b.sendWr.take k }

/-- Sends a read: over the vertical port, or over the mortar; the host-port agent issues a CXL.cache read for host memory
(R132, R259, R260). -/
def sendRd (br : BrickRef) (s : State) (r : RdMsg) : State :=
  let own := s.ownLine br r.line
  let s' := s.modBrick br fun b =>
    if own then { b with sendRd := b.sendRd ++ [r] }.pump else { b with mortarRd := b.mortarRd ++ [r] }
  if s.targetB (r.line * 128) = .host && !s.hostDown then s'.send (.cxlRead (r.line * 128 - 2 ^ 47) 128) else s'

/-- Issues a memory instruction that passed its checks. -/
def memGo (x : Ctx) (spc : MSpace) (k : MemKind) (s : State) : State :=
  let pb := pbid x.ref.b
  let b0 := x.br.issued x false
  let id := b0.nextId
  let isLd := decide (k = .load) || decide (k = .atom)
  let pend : List Pend := if isLd && decide (x.exec ≠ 0) && !(gDst x.o x.f).isEmpty then
    [⟨.m, id, gDst x.o x.f, [], [], 0⟩] else []
  if x.exec = 0 then s.setBrick x.ref.b (b0.setGroup (gkey x.ref) (x.memGroup [] x.grp.acq))
  else
    let acq := x.f.mOrder.testBit 0
    let b := (b0.setGroup (gkey x.ref) (x.memGroup pend (if acq then some id else none))).take 1
    let bypass := decide (x.f.mHint = 4) || (acq && decide (2 ≤ x.f.mScope))
    match spc with
    | .sp =>
      let ls := x.laneAccs spc k fun _ => .away
      let r := x.blk.access pb k x.f.mBytes x.f.mAop x.f.mAu 0 ls
      let b := { b with blocks := sset b.blocks x.grp.block r.2 }
      s.setBrick x.ref.b (if isLd then { b with inflight := sset b.inflight id { x.memOp id k ls with olds := r.1 } } else b)
    | .csp =>
      let ls := x.laneAccs spc k fun _ => .away
      let own := ls.filter fun a => decide (a.addr / 2 ^ 19 = x.blk.rank)
      let r := x.blk.access pb k x.f.mBytes x.f.mAop x.f.mAu (x.blk.rank * 2 ^ 19) own
      let b := { b with blocks := sset b.blocks x.grp.block r.2 }
      let dest := fun r => (s.cspTarget x.ref.b x.run.launch x.blk.clusterId r).map Prod.fst
      let p := sendCsp x id dest { x.memOp id k ls with olds := r.1 } (ls.filter fun a => decide (a.addr / 2 ^ 19 ≠ x.blk.rank)) b
      s.setBrick x.ref.b (if isLd then { p.1 with inflight := sset p.1.inflight id p.2 } else p.1)
    | .g =>
      let via := fun a =>
        if k.isAtomic && (decide (2 ≤ x.f.mScope) || decide (s.targetB a = .host)) then LaneVia.away
        else if k = .load && !bypass && decide (x.f.mSize ≤ 3) && x.run.winConst a x.f.mBytes then .const
        else .l1
      let ls := x.laneAccs spc k via
      let p := if k.isAtomic then sendAtoms x id (x.memOp id k ls) (ls.filter fun a => decide (a.via = .away)) b
        else (b, x.memOp id k ls)
      let q := constLanes p.2 (ls.filter fun a => decide (a.via = .const)) p.1
      let b := q.1
      let toL1 := ls.any fun a => decide (a.via = .l1)
      let b := if toL1 then { b with l1in := sset b.l1in x.ref.sched.val q.2.1 }
        else if isLd || acq then { b with inflight := sset b.inflight id q.2.1 } else b
      let s := q.2.2.foldl (sendRd x.ref.b) (s.setBrick x.ref.b b)
      -- host-port agent: exclusive read of each host line of an atomic, one atomic after another (R132)
      ((uniq ((ls.filter fun a => decide (a.via = .away) && decide (s.targetB a.addr = .host) && !s.hostDown).map
        fun a => a.addr / 128)).filter fun l => !x.br.atomQ.any fun m => decide (m.addr / 128 = l)).foldl
        (fun s l => s.send (.cxlRead (l * 128 - 2 ^ 47) 128)) s

/-- A release at system scope reaches the slices: every merge entry is flushed (R288). -/
def flushAll (s : State) : State := flushSecs (flushSecs s .t0 fun _ => true) .t1 fun _ => true

/-- Issues a memory instruction: the L1 input of its scheduler is free (R248), no acquire of the group is pending (R141),
and a release waits for the group's earlier accesses (R140). -/
def memIssue (op : Nat) (spc : MSpace) (k : MemKind) (g : GroupRef) (w : IWord) (s : State) : Res :=
  match prepare op (fun _ => true) (infoMem spc k) g w s with
  | .no => .next s
  | .fault grp c l pc i => .next (raiseFault g grp c l pc i s)
  | .go x =>
    let rel := x.f.mOrder.testBit 1 && decide (x.exec ≠ 0)
    if (sfind x.br.l1in g.sched.val).isSome || x.grp.acq.isSome then .next s
    else if rel && !x.br.released x.grp.gid x.f.mScope then .next s
    else match firstFault s x spc (decide (k = .store) || k.isAtomic) with
      | some (c, l) => .next (raiseFault g x.grp c l x.pc (wrapN 64 (laneAddr x spc l)) s)
      | none => .next (memGo x spc k (if rel && decide (x.f.mScope = 5) then flushAll s else s))

/-- `ld.sp` (R126, R127). -/
def execLdSp (g : GroupRef) (w : IWord) (s : State) : Res := memIssue 0xA0 .sp .load g w s
/-- `st.sp` (R130). -/
def execStSp (g : GroupRef) (w : IWord) (s : State) : Res := memIssue 0xA1 .sp .store g w s
/-- `ld.csp` (R127). -/
def execLdCsp (g : GroupRef) (w : IWord) (s : State) : Res := memIssue 0xA2 .csp .load g w s
/-- `st.csp` (R127). -/
def execStCsp (g : GroupRef) (w : IWord) (s : State) : Res := memIssue 0xA3 .csp .store g w s
/-- `ld.g` (R128, R131). -/
def execLdG (g : GroupRef) (w : IWord) (s : State) : Res := memIssue 0xA4 .g .load g w s
/-- `st.g` (R131, R134). -/
def execStG (g : GroupRef) (w : IWord) (s : State) : Res := memIssue 0xA5 .g .store g w s
/-- `prefetch.g` (R134). -/
def execPrefetchG (g : GroupRef) (w : IWord) (s : State) : Res := memIssue 0xA6 .g .prefetch g w s
/-- `atom.sp` (R146). -/
def execAtomSp (g : GroupRef) (w : IWord) (s : State) : Res := memIssue 0xB0 .sp .atom g w s
/-- `atom.csp` (R146). -/
def execAtomCsp (g : GroupRef) (w : IWord) (s : State) : Res := memIssue 0xB1 .csp .atom g w s
/-- `atom.g` (R146, R148). -/
def execAtomG (g : GroupRef) (w : IWord) (s : State) : Res := memIssue 0xB2 .g .atom g w s
/-- `red.g` (R146). -/
def execRedG (g : GroupRef) (w : IWord) (s : State) : Res := memIssue 0xB3 .g .red g w s

/-- `fence`: a release or acquire without an access (R119, R143), after the group's matrix instructions (R178). -/
def execFence (g : GroupRef) (w : IWord) (s : State) : Res :=
  match prepare 0xB4 (fun _ => true) infoFence g w s with
  | .no => .next s
  | .fault grp c l pc i => .next (raiseFault g grp c l pc i s)
  | .go x =>
    let scope := bits x.f.mod 6 4
    let rel := x.f.mod.testBit 8
    if (sfind x.br.l1in g.sched.val).isSome || x.grp.acq.isSome || x.br.mxOut x.grp.gid ||
        (rel && !x.br.released x.grp.gid scope) then .next s
    else
      let b := (x.br.issued x false).setGroup (gkey g) (x.memGroup [] none)
      let b := if x.f.mod.testBit 7 && decide (2 ≤ scope) then b.invalidate else b
      let s := if scope = 5 then flushAll s else s
      .next (s.setBrick g.b b)

end Sys2Proof.Machine
end

