-- ==== Sys2Proof/Machine/Barrier.lean ====
section
/-! DEFINITION. Barriers 0xB5 (R149 to R151): arrival, waiting and the completion of a phase. -/

namespace Sys2Proof.Machine

open Sys2Proof

/-- The current phase of a barrier of a block. -/
def Block.curPhase (k : Block) (key : Nat) : Nat := sget 0 k.phase key

/-- One thread's `arrive` (R150). -/
def Thread.barArrive (th : Thread) (key cur : Nat) : Thread :=
  if sfind th.arr key = some cur then { th with bar := some ⟨key, cur, .arrive⟩ } else { th with arr := sset th.arr key cur }

/-- One thread's `wait` (R150): at once when the phase of its last arrival has completed, or when it never arrived. -/
def Thread.barWaitOp (th : Thread) (key cur : Nat) : Thread :=
  if sfind th.arr key = some cur then { th with bar := some ⟨key, cur, .go⟩ } else th

/-- One thread's `sync` (R150). -/
def Thread.barSync (th : Thread) (key cur : Nat) : Thread :=
  if sfind th.arr key = some cur then { th with bar := some ⟨key, cur, .sync⟩ }
  else { th with arr := sset th.arr key cur, bar := some ⟨key, cur, .go⟩ }

/-- Issues `bar`: a release for `arrive` and `sync` (R151), the operation in every current thread, and the acquire of a
`wait` that returns at once in some thread. -/
def barIssue (op : Nat) (rel acq : Bool) (f : Thread → Nat → Nat → Thread) (g : GroupRef) (w : IWord) (s : State) : Res :=
  match prepare 0xB5 (fun x => decide (bits x.mod 7 6 = op) || decide (bits x.mod 7 6 = 3)) infoBar g w s with
  | .no => .next s
  | .fault grp c l pc i => .next (raiseFault g grp c l pc i s)
  | .go x =>
    let clu := x.f.mod.testBit 8
    let scope := if clu then 2 else 1
    let key := x.f.imm24 + if clu then 16 else 0
    if (sfind x.br.l1in g.sched.val).isSome || x.grp.acq.isSome || (rel && !x.br.released x.grp.gid scope) then .next s
    else
      let grp := x.memGroup [] none
      let grp := grp.mapLanes x.cur fun _ th => f th key (x.blk.curPhase key)
      let goes := (lanesOf x.cur).any fun l => (grp.thread l).bar.isNone
      let b := (x.br.issued x false).setGroup (gkey g) (grp.settle x.cur)
      .next (s.setBrick g.b (if acq && clu && goes then b.invalidate else b))

/-- `bar.sync`. -/
def execBarSync (g : GroupRef) (w : IWord) (s : State) : Res := barIssue 0 true true Thread.barSync g w s
/-- `bar.arrive`. -/
def execBarArrive (g : GroupRef) (w : IWord) (s : State) : Res := barIssue 1 true false Thread.barArrive g w s
/-- `bar.wait`. -/
def execBarWait (g : GroupRef) (w : IWord) (s : State) : Res := barIssue 2 false true Thread.barWaitOp g w s

/-- Every live thread of a block has arrived in the current phase, and whether it has a live thread at all (R149). -/
def Brick.arrived (b : Brick) (k : Nat) (key cur : Nat) : Bool × Bool :=
  let ths := (b.groups.filter fun p => decide (p.2.block = k)).flatMap fun p => p.2.threads.filter fun t => !t.exited
  (ths.all fun t => decide (sfind t.arr key = some cur), !ths.isEmpty)

/-- A thread after a phase completes (R150). -/
def Thread.phaseDone (th : Thread) (key cur : Nat) : Thread :=
  match th.bar with
  | some w =>
    if w.key = key ∧ w.phase = cur then
      match w.andThen with
      | .go => { th with bar := none }
      | .arrive => { th with bar := none, arr := sset th.arr key (cur + 1) }
      | .sync => { th with bar := some ⟨key, cur + 1, .go⟩, arr := sset th.arr key (cur + 1) }
    else th
  | none => th

/-- Completes a phase in one block of a brick: waiting threads are released, a group without a current subset takes one, and a
cluster barrier's waiters acquire (R151). DESIGN CHOICE, unsafe: R47 does not say which subset a group without one takes when a phase
releases its threads; here it rotates from the reference lane of its last rotation (log entry 57). -/
def Brick.phaseDone (b : Brick) (k key : Nat) : Brick :=
  match sfind b.blocks k with
  | none => b
  | some blk =>
    let cur := blk.curPhase key
    let acq := decide (16 ≤ key) && b.groups.any fun p => decide (p.2.block = k) &&
      p.2.threads.any fun t => match t.bar with
        | some w => decide (w.key = key) && decide (w.phase = cur) && decide (w.andThen ≠ .arrive)
        | none => false
    let b := { b with
      blocks := sset b.blocks k { blk with phase := sset blk.phase key (cur + 1) }
      groups := b.groups.map fun p =>
        if p.2.block = k then
          let g := { p.2 with threads := p.2.threads.map fun t => t.phaseDone key cur }
          (p.1, if g.merged = 0 then g.rotate g.refLane else g)
        else p }
    if acq then b.invalidate else b

/-- The members of a cluster: brick slice and block slot of every block of the launch and cluster in the course. -/
def State.clusterMembers (s : State) (br : BrickRef) (blk : Block) : List (Nat × Nat) :=
  (List.range 24).flatMap fun i =>
    let sl := br.s.val / 24 * 24 + i
    ((s.tw br.t).brick sl).blocks.filterMap fun p =>
      if p.2.launch = blk.launch ∧ p.2.clusterId = blk.clusterId ∧ !p.2.retired then some (sl, p.1) else none

/-- A barrier phase completes when every live thread has arrived: of the block, or of every block of the cluster (R149). -/
def barrierPhaseCompleteOn (br : BrickRef) (block : Nat) (key : Fin 32) (s : State) : Res :=
  match sfind (s.brick br).blocks block with
  | none => .next s
  | some blk =>
    let cur := blk.curPhase key.val
    let mem := if key.val < 16 then [(br.s.val, block)] else s.clusterMembers br blk
    let ars := mem.map fun p => ((s.tw br.t).brick p.1).arrived p.2 key.val cur
    if ars.all (fun a => a.1) && ars.any fun a => a.2 then
      .next (mem.foldl (fun s p => s.modTw br.t fun x => x.modBrick p.1 fun b => b.phaseDone p.2 key.val) s)
    else .next s

/-! The commands, with the stop of the clocks and the engine records. -/

/-- `BARRIER_PHASE_COMPLETE`, held while the tower's clocks are stopped (R600, R602). -/
def execBarrierPhaseComplete (br : BrickRef) (block : Nat) (key : Fin 32) (s : State) : Res :=
  gate br.t (barrierPhaseCompleteOn br block key) s

end Sys2Proof.Machine
end

