-- ==== Sys2Proof/Machine/Crypto.lean ====
section
/-! DEFINITION. SHA-256 and the verification of an RSASSA-PSS signature with RSA-3072, exponent 65,537, MGF1 with SHA-256 and a
32-byte salt, which R627 and R650 name. Byte strings are lists of bytes, first byte first. -/

namespace Sys2Proof.Machine

/-- Number of a byte string, first byte most significant. -/
def beNat (l : List Nat) : Nat := l.foldl (fun a b => a * 256 + b % 256) 0

/-- The n bytes of a number, most significant first. -/
def beBytes (n x : Nat) : List Nat := (leBytes n x).reverse

/-- The greatest number below 2^k more than `lo` whose p-th power is at most `n`, by halving. -/
def rootFrom (p n : Nat) : Nat → Nat → Nat
  | 0, lo => lo
  | k + 1, lo => rootFrom p n k (if (lo + 2 ^ k) ^ p ≤ n then lo + 2 ^ k else lo)

/-- The first 32 bits of the fraction of the p-th root of a small number. -/
def rootBits (p q : Nat) : BitVec 32 := BitVec.ofNat 32 (rootFrom p (q * 2 ^ (32 * p)) 40 0)

/-- The first primes, which fix the constants of SHA-256. -/
def shaPrimes : List Nat :=
  (List.range 312).filter fun n => decide (2 ≤ n) && (List.range 18).all fun d => decide (d < 2) || decide (n ≤ d) || decide (n % d ≠ 0)

/-- The initial hash value of SHA-256: square roots of the first eight primes. -/
def shaInit : List (BitVec 32) := (shaPrimes.take 8).map (rootBits 2)

/-- The round constants of SHA-256: cube roots of the first 64 primes. -/
def shaK : List (BitVec 32) := shaPrimes.map (rootBits 3)

/-- The padded message of SHA-256. -/
def shaPad (m : List Nat) : List Nat :=
  let n := m.length
  m ++ 0x80 :: (List.replicate ((119 - n % 64) % 64) 0 ++ beBytes 8 (8 * n))

/-- The exclusive or of rotations of a word. -/
def rotXor (rs : List Nat) (x : BitVec 32) : BitVec 32 := rs.foldl (fun a r => a ^^^ x.rotateRight r) 0

/-- The message schedule: words newest first, extended by n. -/
def shaSched : Nat → List (BitVec 32) → List (BitVec 32)
  | 0, ws => ws
  | n + 1, ws =>
    let old := ws.getD 14 0
    let near := ws.getD 1 0
    shaSched n ((ws.getD 15 0 + (rotXor [7, 18] old ^^^ old >>> 3) + ws.getD 6 0 + (rotXor [17, 19] near ^^^ near >>> 10)) :: ws)

/-- One round on the two registers of four words, newest first: the A words and the E words. -/
def shaRound (v : List (BitVec 32) × List (BitVec 32)) (kw : BitVec 32) : List (BitVec 32) × List (BitVec 32) :=
  let x := fun i => v.1.getD i 0
  let y := fun i => v.2.getD i 0
  let t := kw + y 3 + rotXor [6, 11, 25] (y 0) + (y 2 ^^^ (y 0 &&& (y 1 ^^^ y 2)))
  let most := (x 0 &&& (x 1 ||| x 2)) ||| (x 1 &&& x 2)
  ((t + rotXor [2, 13, 22] (x 0) + most) :: v.1.take 3, (t + x 3) :: v.2.take 3)

/-- The compression of one block of 64 bytes. -/
def shaBlock (h : List (BitVec 32)) (blk : List Nat) : List (BitVec 32) :=
  let ws := (List.range 16).map fun i => BitVec.ofNat 32 (beNat ((blk.drop (60 - 4 * i)).take 4))
  let v := ((shaSched 48 ws).reverse.zip shaK).foldl (fun v p => shaRound v (p.1 + p.2)) (h.take 4, h.drop 4)
  List.zipWith (· + ·) h (v.1 ++ v.2)

/-- The compression of n blocks in order. -/
def shaBlocks : Nat → List (BitVec 32) → List Nat → List (BitVec 32)
  | 0, h, _ => h
  | n + 1, h, m => shaBlocks n (shaBlock h (m.take 64)) (m.drop 64)

/-- SHA-256 of a byte string: 32 bytes. -/
def sha256 (m : List Nat) : List Nat :=
  let p := shaPad m
  (shaBlocks (p.length / 64) shaInit p).flatMap fun w => beBytes 4 w.toNat

/-- MGF1 with SHA-256: n blocks of 32 bytes from a counter. -/
def mgf1 (seed : List Nat) (n : Nat) : List Nat := (List.range n).flatMap fun i => sha256 (seed ++ beBytes 4 i)

/-- x to the power 2^k modulo n, by squaring. -/
def powSq (n : Nat) : Nat → Nat → Nat
  | 0, x => x % n
  | k + 1, x => powSq n k (x * x % n)

/-- RSAVP1 with exponent 65,537. -/
def rsaPub (n s : Nat) : Nat := powSq n 16 s * (s % n) % n

/-- RSASSA-PSS-VERIFY for a 3,072-bit modulus: the encoded message has 384 bytes, of 3,071 bits. -/
def pssVerify (n : Nat) (msg sig : List Nat) : Bool :=
  let s := beNat sig
  if sig.length ≠ 384 ∨ n ≤ s ∨ n < 2 ^ 3071 ∨ 2 ^ 3072 ≤ n then false
  else
    let em := beBytes 384 (rsaPub n s)
    let masked := em.take 351
    let h := (em.drop 351).take 32
    let mask := mgf1 h 11
    let db : List Nat := (masked.zip mask).zipIdx.map fun (p : (Nat × Nat) × Nat) =>
      let b := p.1.1 ^^^ p.1.2
      if p.2 = 0 then b % 128 else b
    let salt := db.drop 319
    decide (em.getD 383 0 = 0xBC) && decide (em.getD 0 0 < 128) && (db.take 318).all (fun b => decide (b = 0)) &&
      decide (db.getD 318 0 = 1) && decide (sha256 (List.replicate 8 0 ++ sha256 msg ++ salt) = h)

end Sys2Proof.Machine
end

