-- ==== Sys2Proof/WellFormed.lean ====
section
/-! DEFINITION. Which terms spell a command. Most operands are typed so that every term is one; a list with a reading for each
sensor, an order of lanes and bytes of a stated number are checked here. -/

namespace Sys2Proof

/-- A reading for each of the sensors C0 to C95 and B0 to B63, for six stacks and for 72 regions (R561, R562, R566). -/
def ThermSample.wf (m : ThermSample) : Bool :=
  decide (m.die.length = 160) && decide (m.hbm.length = 6) && decide (m.power.length = 72)

/-- A reading for each of eight rails, eight sense points and 72 regions (R531, R538, R552). -/
def PowerSample.wf (m : PowerSample) : Bool :=
  decide (m.railV.length = 8) && decide (m.railI.length = 8) && decide (m.sense.length = 8) && decide (m.regions.length = 72)

/-- The order in which the four lanes of the partner arrive (R408, R428), with the margin of each. -/
def laneOrderWf (perm margins : List Nat) : Bool :=
  decide (perm.length = 4) && (List.range 4).all (fun l => perm.contains l) && decide (margins.length = 4)

/-- Bytes as a little-endian number of no more than the stated number of bytes. -/
def bytesWf (len x : Nat) : Bool := decide (x < 2 ^ (8 * len))

/-- The term spells a command. -/
def Instr.wf (i : Instr) : Bool :=
  match i with
  | .thermalSample _ m => m.wf
  | .powerCapEvaluate _ m => m.wf
  | .trainComplete _ _ ok perm margins => !ok || laneOrderWf perm margins
  | .mctpPacket _ _ len pkt _ => bytesWf len pkt
  | .pldmFirmwareUpdate _ _ (some img) => bytesWf img.1 img.2
  | _ => true

end Sys2Proof
end

