-- ==== Sys2Proof/Machine/Link.lean ====
section
/-! DEFINITION. The link ports (R407 to R441): flits, sequence numbers and replay, virtual channels and credits, control
flits, training, identity and lane recalibration. -/

namespace Sys2Proof.Machine

open Sys2Proof

def Tower.port (x : Tower) (p : Nat) : Port := sget Port.init x.ports p
def Tower.modPort (x : Tower) (p : Nat) (f : Port → Port) : Tower := { x with ports := smod Port.init x.ports p f }
def Tower.lstate (x : Tower) (p : Nat) : Nat := x.fget Fld.lnkStat_STATE p
def Tower.setLstate (x : Tower) (p v : Nat) : Tower := x.fset Fld.lnkStat_STATE v p
def Tower.modRtr (x : Tower) (f : Rtr → Rtr) : Tower := { x with rtr := f x.rtr }
def Port.vrx (p : Port) (v : Nat) : VcRx := sget VcRx.init p.rx v
def Port.vtx (p : Port) (v : Nat) : VcTx := sget VcTx.init p.tx v
def Port.modRx (p : Port) (v : Nat) (f : VcRx → VcRx) : Port := { p with rx := smod VcRx.init p.rx v f }
def Port.modTx (p : Port) (v : Nat) (f : VcTx → VcTx) : Port := { p with tx := smod VcTx.init p.tx v f }

/-- An enabled port of the tower (R2, R434). -/
def Tower.hasPort (x : Tower) (p : Nat) : Bool := decide (p < x.fget Fld.glbTower_PORTS)

/-- A locked port exchanges flits: IDENT, ACTIVE, three lanes or management-only (R428). -/
def Tower.locked (x : Tower) (p : Nat) : Bool := decide (4 ≤ x.lstate p) && decide (x.lstate p ≤ 7)

/-- A port that carries data flits (R428, R429). -/
def Tower.carries (x : Tower) (p : Nat) : Bool := decide (5 ≤ x.lstate p) && decide (x.lstate p ≤ 7)

/-- The module's number of a local port (R434). -/
def modulePort (t : TowerId) (p : Nat) : Nat := t.nat * 8 + p

/-- The advertised receive buffer of a virtual channel (R418). -/
def vcBuffer (v : Nat) : Nat := if v = 2 then 384 else if v = 3 then 32 else 256

/-- The CRC-64 of R415 over the first 248 bytes of a flit. -/
def flitCheck (n : Nat) : Nat :=
  ((List.range 248).foldl (fun c i => crcByteM 64 0x42F0E1EBA9EA3693 c (bits n (8 * i + 7) (8 * i))) (2 ^ 64 - 1)) ^^^ (2 ^ 64 - 1)

/-- A flit from its header word and payload (R414). -/
def mkFlit (hdr payload : Nat) : Flit :=
  let n := hdr + payload % 2 ^ 1952 * 2 ^ 32
  BitVec.ofNat 2048 (n + flitCheck n * 2 ^ 1984)

/-- The header word of a flit of a port (R414, R416, R420): kind, channel, sequence, current ACK and the credit return. -/
def flitHeader (p : Port) (kind vc seq cvc cunits : Nat) : Nat :=
  kind * 2 ^ 30 + vc * 2 ^ 28 + seq % 4096 * 2 ^ 16 + (p.eseq + 4095) % 4096 * 16 + cvc * 4 + cunits

/-- The credit return of the next flit: the first channel in rotation that is owed 8 flits or more (R420). -/
def Port.creditReturn (p : Port) : Nat × Nat × Port :=
  match ((List.range 4).map fun i => (p.crot + i) % 4).find? fun v => decide (8 ≤ (p.vrx v).owed) with
  | some v =>
    let u := min 3 ((p.vrx v).owed / 8)
    (v, u, { p.modRx v (fun r => { r with owed := r.owed - 8 * u }) with crot := (v + 1) % 4 })
  | none => (0, 0, p)

/-- Sends one flit of a port. -/
def sendFlit (t : TowerId) (p : Nat) (f : Flit) (s : State) : State :=
  (s.modTw t fun x => x.modPort p fun q => { q with sent := q.sent + 1 }).send (.flit t p f)

/-- Queues a control flit; one that requires an answer is sent again until it is answered (R424). -/
def Port.ctl (p : Port) (op arg : Nat) : Port :=
  { p with
    ctlOut := p.ctlOut ++ [⟨op, arg⟩]
    ctlWait := if [2, 3, 5, 6].contains op then p.ctlWait ++ [(⟨op, arg⟩, 0)] else p.ctlWait }

/-- The answer to a control flit has arrived. -/
def Port.answered (p : Port) (op : Nat) (ok : Ctl → Bool) : Port :=
  { p with ctlWait := p.ctlWait.filter fun c => !(decide (c.1.op = op) && ok c.1) }

/-- Messages of a port that have no sequence number yet are routed again (R455). -/
def Port.unsent (p : Port) : List FMsg := p.tx.flatMap fun v => v.2.q

/-- Discards everything a retrain discards (R428) and hands back unsent messages to the router. -/
def Tower.linkClear (x : Tower) (p : Nat) : Tower :=
  let q := x.port p
  let x := x.modRtr fun r => { r with again := r.again ++ q.unsent }
  let x := x.modPort p fun q => { Port.init with
    ident := q.ident, fails := q.fails, perm := q.perm, signal := q.signal, base := q.base }
  let x := (((x.fset Fld.lnkStat_LANES 0 p).fset Fld.lnkStat_NEG_REV 0 p).fset Fld.lnkStat_MGMT_REASON 0 p)
  (List.range 4).foldl (fun x l => x.fset Fld.lnkLane_OUT 0 p l) x

/-- The ports train from step 9 of bring-up on, when the topology check has begun (R615, R467). -/
def Tower.linksRun (x : Tower) : Bool := decide (x.fget Fld.rtrStat_TOPO ≠ 0)

/-- Enters training, or waits for the signal (R428). -/
def Tower.linkTrain (x : Tower) (p : Nat) : Tower :=
  (x.linkClear p).setLstate p (if (x.port p).signal && x.linksRun then 2 else 1)

/-- Both ends retrain: RETRAIN is sent first when the port is locked (R424, R428). -/
def retrain (t : TowerId) (p : Nat) (s : State) : State :=
  let x := s.tw t
  let s := if x.locked p then
      sendFlit t p (mkFlit (flitHeader (x.port p) 2 0 (x.port p).nseq 0 0) 9) s
    else s
  s.modTw t fun x => x.linkTrain p

/-- A training attempt fails; the third within 60 s takes the port DOWN (R428). -/
def Tower.trainFail (x : Tower) (p : Nat) : Tower :=
  let now := x.time17 / 17
  let fs := (x.port p).fails.filter (fun a => decide (now < a + 60000000000)) ++ [now]
  let x := ((x.linkClear p).modPort p fun q => { q with fails := fs }).fset Fld.lnkStat_FAILS (min 3 fs.length) p
  if 3 ≤ fs.length then x.setLstate p 8 else x.setLstate p 2

/-- The receiver asks for a retry, in the next slot (R423). -/
def Tower.askRetry (x : Tower) (p : Nat) : Tower :=
  if (x.port p).retryWait then x
  else (x.modPort p fun q => { q with ctlOut := ⟨1, q.eseq⟩ :: q.ctlOut, retryWait := true, retries := 0 }).fadd
    Fld.lnkCntRetry_RETRY_SENT 1 p

/-! Messages. -/

/-- The bytes of a message as a little-endian number (R417, R445). -/
def FMsg.bytes (m : FMsg) : Nat :=
  m.typ + m.flags * 2 ^ 8 + m.len * 2 ^ 16 + m.dst * 2 ^ 32 + m.src * 2 ^ 48 + m.dl * 2 ^ 64 + m.hops * 2 ^ 80 +
    m.tag * 2 ^ 96 + m.body * 2 ^ 128

/-- A message from its bytes. -/
def FMsg.of (d stamp via : Nat) : FMsg :=
  ⟨bits d 7 0, bits d 15 8, bits d 31 16, bits d 47 32, bits d 63 48, bits d 79 64, bits d 87 80, bits d 127 96, d >>> 128,
    stamp, via⟩

/-- n bytes of a message from a byte offset at or beyond 16. -/
def FMsg.field (m : FMsg) (o n : Nat) : Nat := (m.body >>> (8 * (o - 16))) % 2 ^ (8 * n)

/-- The virtual channel of a TYPE (R418). -/
def vcOf (typ : Nat) : Nat := typ / 16

/-- The types of revision 0x01 (R446). -/
def typeKnown (typ : Nat) : Bool :=
  [0x01, 0x02, 0x10, 0x11, 0x12, 0x1E, 0x1F, 0x20, 0x30, 0x31, 0x32, 0x3F].contains typ

/-- This tower's fabric address (R442). -/
def Tower.node (x : Tower) : Nat := x.fget Fld.rtrCfg_NODE
def Tower.faddr (x : Tower) : Nat := x.id.nat * 2 ^ 10 + x.node

/-- A message of a local engine. -/
def Tower.msg (x : Tower) (typ flags len dst dl tag body : Nat) : FMsg :=
  ⟨typ, flags, len, dst, x.faddr, dl, 0, tag, body, 0, 9⟩

/-- Sends a message of a local engine to the router. -/
def Tower.post (x : Tower) (m : FMsg) : Tower := x.modRtr fun r => { r with own := r.own ++ [m] }

/-- An ERROR message that answers a bad message of a virtual channel (R433). -/
def Tower.errorFor (x : Tower) (v : Nat) (m : FMsg) (reason : Nat) : Tower :=
  let b := reason + m.typ * 2 ^ 8
  x.post { x.msg (if v = 3 then 0x3F else 0x1F) 0 32 m.src m.dl m.tag b with hops := m.hops }

/-- What the parsing of a flit finds beside messages. -/
structure ParseOut where
  rx : VcRx
  bad : List (FMsg × Nat)
  reset : Bool

/-- Parses the payload of a data flit into messages (R417, R432): `d` holds the `n` bytes still to read. -/
def vcParse (vc stamp via : Nat) : Nat → Nat → Nat → ParseOut → ParseOut
  | 0, _, _, o => o
  | f + 1, d, n, o =>
    if n = 0 ∨ o.reset then o
    else if o.rx.skip ≠ 0 then
      let k := min o.rx.skip n
      vcParse vc stamp via f (d >>> (8 * k)) (n - k) { o with rx := { o.rx with skip := o.rx.skip - k } }
    else match o.rx.part with
      | none =>
        if d % 256 = 0 then o
        else vcParse vc stamp via f d n { o with rx := { o.rx with part := some ⟨0, 0, 0, stamp⟩ } }
      | some p =>
        let target := if p.n < 16 then 16 else bits p.data 31 16
        let k := min (target - p.n) n
        let p' : Partial := { p with data := p.data + d % 2 ^ (8 * k) * 2 ^ (8 * p.n), n := p.n + k }
        let d' := d >>> (8 * k)
        let len := bits p'.data 31 16
        let typ := p'.data % 256
        let o' := { o with rx := { o.rx with part := some p' } }
        let done := { o with rx := { o.rx with part := none, msgs := o.rx.msgs ++ [(FMsg.of p'.data p.stamp via, p'.flits)] } }
        if p.n < 16 ∧ p'.n = 16 then
          if len % 16 ≠ 0 ∨ len < 16 ∨ 4112 < len ∨ (vc = 3 ∧ 304 < len) then { o with reset := true }
          else if !typeKnown typ || decide (vcOf typ ≠ vc) then
            vcParse vc stamp via f d' (n - k)
              { o with
                rx := { o.rx with part := none, skip := len - 16, occ := o.rx.occ - p'.flits, owed := o.rx.owed + p'.flits }
                bad := o.bad ++ [(FMsg.of p'.data stamp via, if typeKnown typ then 2 else 1)] }
          else if len = 16 then vcParse vc stamp via f d' (n - k) done
          else vcParse vc stamp via f d' (n - k) o'
        else if 16 ≤ p.n ∧ p'.n = len then vcParse vc stamp via f d' (n - k) done
        else vcParse vc stamp via f d' (n - k) o'

/-- A data flit enters the buffer of its channel; its end leaves with the message that holds it (R420). -/
def vcAccept (vc stamp via payload : Nat) (r : VcRx) : ParseOut :=
  let o := vcParse vc stamp via 64 payload 244 ⟨{ r with occ := r.occ + 1 }, [], false⟩
  let rx := match o.rx.part with
    | some p => { o.rx with part := some { p with flits := p.flits + 1 } }
    | none => match o.rx.msgs.getLast? with
      | some (m, k) =>
        if o.rx.skip ≠ 0 then { o.rx with occ := o.rx.occ - 1, owed := o.rx.owed + 1 }
        else { o.rx with msgs := o.rx.msgs.dropLast ++ [(m, k + 1)] }
      | none => { o.rx with occ := o.rx.occ - 1, owed := o.rx.owed + 1 }
  { o with rx := rx }

/-- What both ends do to a channel in a VC_RESET (R425): buffers, partial messages and unnumbered flits go, credits return
to the advertisement. -/
def Port.vcClear (p : Port) (v : Nat) : Port :=
  (p.modRx v fun r => { VcRx.init with resetting := r.resetting }).modTx v fun t =>
    { VcTx.init with credits := t.adv, adv := t.adv }

/-- A VC_RESET's effect on a port, the discarded flits of the receive buffer counted (R425, R440). -/
def Tower.vcDrop (x : Tower) (p v : Nat) : Tower :=
  (x.modPort p fun q => q.vcClear v).fadd Fld.lnkCntDrop_FLITS ((x.port p).vrx v).occ p

/-- Starts a VC_RESET: arriving flits of the channel are discarded until the acknowledgement (R425). -/
def Port.vcReset (p : Port) (v : Nat) : Port := (p.ctl 3 v).modRx v fun r => { r with resetting := true }

/-- The data part of a received flit, in sequence (R420 to R422, R432). -/
def Tower.takeData (x : Tower) (p vc payload : Nat) : Tower :=
  let x := x.modPort p fun q => { q with eseq := (q.eseq + 1) % 4096, retryWait := false, retries := 0 }
  let r := (x.port p).vrx vc
  if x.lstate p = 7 ∧ vc ≤ 2 then (x.lnkErr p 12).fadd Fld.lnkCntDrop_FLITS 1 p
  else if r.resetting then x.fadd Fld.lnkCntDrop_FLITS 1 p
  else if vcBuffer vc ≤ r.occ then
    ((x.lnkErr p 4).fadd Fld.lnkCntDrop_FLITS 1 p).modPort p fun q => q.vcReset vc
  else
    let o := vcAccept vc (x.time17 / 17) p payload r
    let x := x.modPort p fun q => q.modRx vc fun _ => o.rx
    let x := o.bad.foldl (fun (x : Tower) b =>
      let x := (x.lnkErr p 6).fadd Fld.lnkCntDrop_MSGS 1 p
      if vc = 1 then x else x.errorFor vc b.1 b.2) x
    if o.reset then (x.lnkErr p 7).modPort p fun q => q.vcReset vc else x

/-- The ACK and credit fields of a good flit (R420, R421, R432); answers whether the port must retrain. -/
def Tower.takeAck (x : Tower) (p hdr : Nat) : Tower × Bool :=
  let q := x.port p
  let ack := bits hdr 15 4
  let old := match q.replay.head? with
    | some e => e.seq
    | none => q.nseq
  let d := (ack + 4097 - old) % 4096
  let v := bits hdr 3 2
  let n := bits hdr 1 0 * 8
  let t := q.vtx v
  let exceed := decide (t.adv < t.credits + n)
  let credit := fun (x : Tower) =>
    let x := x.modPort p fun q => q.modTx v fun t => { t with credits := min t.adv (t.credits + n) }
    if exceed && decide (n ≠ 0) then x.lnkErr p 5 else x
  if d ≤ q.replay.length then (credit (x.modPort p fun q => { q with replay := q.replay.drop d }), false)
  else
    let now := x.time17 / 17
    let bad := q.ackBad.filter (fun a => decide (now < a + 1000000)) ++ [now]
    (credit ((x.lnkErr p 2).modPort p fun q => { q with ackBad := bad }), decide (16 ≤ bad.length))

/-- Adds the corrected symbols of a codeword to the port's and lanes' counts (R440, R441). -/
def Tower.fecCount (x : Tower) (p : Nat) (uncorr : Bool) (corr : List Nat) : Tower :=
  let x := x.fadd Fld.lnkCntFec_CORR_SYM (corr.foldl (· + ·) 0) p
  let x := if uncorr then x.fadd Fld.lnkCntFec_UNCORR_CW 1 p else x
  (corr.zipIdx.filter fun c => decide (c.2 < 4)).foldl (fun x c => x.fadd Fld.lnkLane_CORR_SYM c.1 p c.2) x

/-- A flit arrives (R413 to R424, R432). `uncorr` says that a codeword it lies in could not be corrected, `corr` gives the
symbols corrected on each lane. -/
def execFlitReceive (t : TowerId) (p : Fin 8) (f : Flit) (uncorr : Bool) (corr : List Nat) (s : State) : Res :=
  let x := s.tw t
  if !x.locked p then .next s
  else
    let x := x.fecCount p uncorr corr
    let n := f.toNat
    if uncorr ∨ n / 2 ^ 1984 ≠ flitCheck (n % 2 ^ 1984) then .next (s.setTw t ((x.lnkErr p 0).askRetry p))
    else if bits n 31 30 = 3 then .next (s.setTw t (x.lnkErr p 8))
    else
      let hdr := n % 2 ^ 32
      let payload := n / 2 ^ 32 % 2 ^ 1952
      let a := x.takeAck p hdr
      let x := a.1
      let s := s.setTw t x
      if a.2 then .next (retrain t p s)
      else match bits hdr 31 30 with
        | 0 =>
          let d := (bits hdr 27 16 + 4096 - (x.port p).eseq) % 4096
          if !x.carries p then .next s
          else if d = 0 then .next (s.setTw t (x.takeData p (bits hdr 29 28) payload))
          else if d < 2048 then .next (s.setTw t ((x.lnkErr p 1).askRetry p))
          else .next s
        | 2 =>
          let op := payload % 256
          if 1 ≤ op ∧ op ≤ 9 then
            .next (s.setTw t (x.modPort p fun q => { q with ctlIn := q.ctlIn ++ [⟨op, payload / 256⟩] }))
          else .next (s.setTw t (x.lnkErr p 9))
        | _ => .next s

/-- The dimension of a local port (R443): 0 X, 1 Y, 2 Z. -/
def portDim (p : Nat) : Nat := if p = 6 then 0 else if p = 7 then 1 else p / 2

/-- The extent of a dimension, and the coordinate of a node in it (R442). -/
def Tower.extent (x : Tower) (d : Nat) : Nat :=
  if d = 0 then x.fget Fld.rtrCfg_DX else if d = 1 then x.fget Fld.rtrCfg_DY else x.fget Fld.rtrCfg_DZ
def coord (n d : Nat) : Nat := if d = 0 then bits n 3 0 else if d = 1 then bits n 6 4 else bits n 9 7

/-- The credits a message needs on a port before its first flit (R451). -/
def FMsg.need (m : FMsg) (p : Nat) : Nat :=
  let f := cdiv m.len 244 + 1
  if m.flags.testBit (2 + portDim p) || m.flags.testBit 5 then f else f + (if vcOf m.typ = 3 then 8 else 18)

/-- The header of a message as it leaves on a port: HOPS rises, and a hop across the dateline or an express hop sets the
CLS bit (R445, R449, R451). -/
def Tower.depart (x : Tower) (p : Nat) (m : FMsg) : FMsg :=
  let d := portDim p
  let c := coord x.node d
  let cross := decide (6 ≤ p) || (decide (p % 2 = 0) && decide (c + 1 = x.extent d)) || (decide (p % 2 = 1) && decide (c = 0))
  let now := x.time17 / 17
  let body := if m.typ ≠ 0x30 then m.body
    else if m.field 16 1 = 1 then putBits m.body 127 64 now
    else putBits m.body 255 192 now
  { m with hops := m.hops + 1, flags := if cross then m.flags ||| 2 ^ (2 + d) else m.flags, body := body }

/-- How far ahead a message's deadline lies: a past one counts as earliest, one without a deadline goes last (R455). -/
def Tower.msgKey (x : Tower) (m : FMsg) : Nat :=
  if m.flags.testBit 1 then
    let d := (m.dl + 2 ^ 16 - x.timeNs / 8 % 2 ^ 16) % 2 ^ 16
    if 2 ^ 15 ≤ d then 0 else 1 + d
  else 2 ^ 17

/-- The message of a channel that goes next: by deadline on VC 2, else by arrival (R455). -/
def Tower.nextMsg (x : Tower) (v : Nat) (q : List FMsg) : Option (FMsg × List FMsg) :=
  match q with
  | [] => none
  | m :: r =>
    if v ≠ 2 then some (m, r)
    else
      let k := q.foldl (fun a e => min a (x.msgKey e)) (x.msgKey m)
      match q.findIdx? fun e => decide (x.msgKey e = k) with
      | some i => (q[i]?).map fun e => (e, ldel q i)
      | none => some (m, r)

/-- Fills a data flit of a channel with message bytes; what is left of the flit is padding (R417). -/
def Tower.fillFlit (x : Tower) (p v : Nat) : Nat → Nat → Nat → VcTx → Nat × Nat × VcTx
  | 0, d, n, t => (d, n, t)
  | f + 1, d, n, t =>
    if 244 ≤ n then (d, n, t)
    else if t.restLen ≠ 0 then
      let k := min t.restLen (244 - n)
      x.fillFlit p v f (d + t.rest % 2 ^ (8 * k) * 2 ^ (8 * n)) (n + k)
        { t with rest := t.rest >>> (8 * k), restLen := t.restLen - k }
    else match x.nextMsg v t.q with
      | some (m, r) =>
        if t.credits < m.need p then (d, n, t)
        else x.fillFlit p v f d n { t with q := r, rest := (x.depart p m).bytes, restLen := m.len }
      | none => (d, n, t)

/-- A channel has a data flit ready and a credit (R419, R420, R451). -/
def Tower.vcReady (x : Tower) (p v : Nat) : Bool :=
  let t := (x.port p).vtx v
  decide (0 < t.credits) && (decide (x.lstate p ≠ 7) || decide (v = 3)) &&
    (decide (t.restLen ≠ 0) || match x.nextMsg v t.q with
      | some (m, _) => decide (m.need p ≤ t.credits)
      | none => false)

/-- A management flit that is ready waits another slot (R419). -/
def Tower.waited (x : Tower) (p : Nat) (q : Port) : Port :=
  if x.vcReady p 3 then q.modTx 3 fun t => { t with waited := t.waited + 1 } else q

/-- In each flit slot a port sends a control flit, a replayed flit, a new data flit or an idle flit (R416, R419 to R423). -/
def flitTransmitOn (t : TowerId) (p : Fin 8) (s : State) : Res :=
  let x := s.tw t
  if !x.locked p then .next s
  else
    let q0 := x.port p
    let c := if x.gstopped then (0, 0, q0) else q0.creditReturn
    let q := c.2.2
    let hdr := fun kind vc seq => flitHeader q kind vc seq c.1 c.2.1
    let put := fun (q : Port) => s.modTw t fun x => x.modPort p fun _ => q
    let late := x.waited p q
    let idle := fun (q : Port) => .next (sendFlit t p (mkFlit (hdr 1 0 q.nseq) 0) (put q))
    if x.gstopped then idle q
    else match q.ctlOut with
    | k :: r =>
      .next (sendFlit t p (mkFlit (hdr 2 0 q.nseq) (k.op + k.arg * 256)) (put { late with ctlOut := r }))
    | [] => match q.replayAt with
      | some (i, from') => match (q.replay.find? fun e => decide (e.seq = i)).orElse fun _ => q.replay.head? with
        | some e =>
          let next := (e.seq + 1) % 4096
          .next (sendFlit t p (mkFlit (hdr 0 e.vc e.seq) e.payload)
            (put { late with replayAt := if next = q.nseq then none else some (next, from') }))
        | none => idle { late with replayAt := none }
      | none =>
        if !x.carries p || decide (1024 ≤ q.replay.length) then idle late
        else
          let order := (List.range 4).map fun i => (q.rot + i) % 4
          let due := x.vcReady p 3 && decide (64 ≤ (q.vtx 3).waited)
          match (if due then some 3 else order.find? fun v => x.vcReady p v) with
          | none => idle q
          | some v =>
            let z := x.fillFlit p v 48 0 0 (q.vtx v)
            let q := (if v = 3 then q else late).modTx v fun _ => { z.2.2 with credits := z.2.2.credits - 1, waited := 0 }
            .next (sendFlit t p (mkFlit (hdr 0 v q.nseq) z.1)
              (put { q with
                nseq := (q.nseq + 1) % 4096
                replay := q.replay ++ [⟨q.nseq, v, z.1⟩]
                rot := (v + 1) % 4 }))

/-- Takes the control flit at the front when it has the opcode. -/
def takeCtl (op : Nat) (t : TowerId) (p : Fin 8) (s : State) (f : Ctl → Tower → State → Res) : Res :=
  let x := s.tw t
  match (x.port p).ctlIn with
  | c :: r =>
    if c.op ≠ op ∨ !x.locked p then .next s
    else
      let s := s.modTw t fun x => x.modPort p fun q => { q with ctlIn := r }
      f c (s.tw t) s
  | [] => .next s

/-- A RETRY control flit (R423): a replay starts or restarts, or the partner broke RETRY_RANGE. -/
def execRetry (t : TowerId) (p : Fin 8) (s : State) : Res :=
  takeCtl 1 t p s fun c x s =>
    let q := x.port p
    let n := c.arg % 4096
    if n = q.nseq then
      .next (s.setTw t ((x.modPort p fun q => { q with replayAt := none }).fadd Fld.lnkCntRetry_REPLAYS 1 p))
    else if q.replay.any fun e => decide (e.seq = n) then
      if q.replayAt.any fun r => decide (r.2 = n) then .next s
      else .next (s.setTw t ((x.modPort p fun q => { q with replayAt := some (n, n) }).fadd Fld.lnkCntRetry_REPLAYS 1 p))
    else .next (retrain t p (s.setTw t (x.lnkErr p 3)))

/-- The retry timer expires (R423): RETRY is sent again, or the port retrains at the limit. -/
def execRetryTimerExpiry (t : TowerId) (p : Fin 8) (s : State) : Res :=
  let x := s.tw t
  let q := x.port p
  if !q.retryWait then .next s
  else if x.fget Fld.lnkCfg_RETRY_LIMIT p ≤ q.retries + 1 then .next (retrain t p (s.setTw t (x.lnkErr p 14)))
  else .next (s.setTw t ((x.modPort p fun q => { q.ctl 1 q.eseq with retries := q.retries + 1 }).fadd
    Fld.lnkCntRetry_RETRY_SENT 1 p))

/-- The resend interval of an unanswered control flit ends (R424). -/
def execControlResendTimeout (t : TowerId) (p : Fin 8) (s : State) : Res :=
  let x := s.tw t
  match (x.port p).ctlWait with
  | [] => .next s
  | (c, n) :: r =>
    if x.fget Fld.lnkCfg_RETRY_LIMIT p ≤ n + 1 then .next (retrain t p (s.setTw t (x.lnkErr p 14)))
    else .next (s.setTw t (x.modPort p fun q =>
      { q with ctlOut := q.ctlOut ++ [c], ctlWait := r ++ [(c, n + 1)] }))

/-- This port's identity, from byte 5 of the flit on (R426). -/
def Tower.identArg (x : Tower) (p : Nat) : Nat :=
  let at' := fun (o v : Nat) => v * 2 ^ (8 * (o - 5))
  at' 6 (x.fget Fld.glbId_VENDOR) + at' 8 (x.fget Fld.glbId_DEVICE) + at' 10 (modulePort x.id p) + at' 11 (x.fget Fld.glbVer_FCL) +
    at' 12 (x.fget Fld.fusSerial_SERIAL) + at' 20 x.faddr + at' 22 1 + at' 23 1 +
    at' 24 256 + at' 26 256 + at' 28 384 + at' 30 32

/-- Bytes of an identity, by flit byte offset. -/
def identField (a o n : Nat) : Nat := (a >>> (8 * (o - 5))) % 2 ^ (8 * n)

/-- A malformed identity (R427). -/
def identBad (a : Nat) : Bool :=
  decide (a % 256 ≠ 0) || decide (a >>> (8 * 27) ≠ 0) || decide (identField a 20 2 / 2 ^ 11 ≠ 0) ||
  decide (15 < identField a 10 1) || decide (identField a 23 1 = 0) || decide (identField a 22 1 < identField a 23 1) ||
  (List.range 4).any fun v =>
    let c := identField a (24 + 2 * v) 2
    decide (c < 16) || decide (1024 < c) || decide (c % 8 ≠ 0)

/-- Loads `LNK_PARTNER` and `LNK_PARTNER_SN` (R438). -/
def Tower.setPartner (x : Tower) (p a : Nat) : Tower :=
  let x := (x.fset Fld.lnkPartner_VENDOR (identField a 6 2) p).fset Fld.lnkPartner_DEVICE (identField a 8 2) p
  let x := (x.fset Fld.lnkPartner_FCL (identField a 11 1) p).fset Fld.lnkPartner_REV_MAX (identField a 22 1) p
  let x := (x.fset Fld.lnkPartner_PORT (identField a 10 1) p).fset Fld.lnkPartner_VALID 1 p
  let x := (x.fset Fld.lnkPartner_TOWER (identField a 20 2 / 2 ^ 10) p).fset Fld.lnkPartner_NODE (identField a 20 2) p
  x.fset Fld.lnkPartnerSn_SERIAL (identField a 12 8) p

/-- Enters management-only mode for a reason (R429, R432); messages still queued for the port on virtual channels 0 to 2 are routed
again (R455). -/
def Tower.mgmtOnly (x : Tower) (p why bit : Nat) : Tower :=
  let q := x.port p
  let held := (List.range 3).flatMap fun v => (q.vtx v).q
  let x := x.modRtr fun r => { r with again := r.again ++ held }
  let x := x.modPort p fun q => (List.range 3).foldl (fun (q : Port) v => q.modTx v fun t => { t with q := [] }) q
  ((x.lnkErr p bit).setLstate p 7).fset Fld.lnkStat_MGMT_REASON why p

/-- Credits start at the partner's advertisements (R420). -/
def Tower.loadCredits (x : Tower) (p a : Nat) : Tower :=
  x.modPort p fun q => (List.range 4).foldl (fun (q : Port) v =>
    q.modTx v fun t => { t with credits := identField a (24 + 2 * v) 2, adv := identField a (24 + 2 * v) 2 }) q

/-- An IDENT arrives (R426 to R429, R432, R438): checked and recorded; in IDENT the revision is negotiated, in ACTIVE it is compared with
the recorded identity. -/
def execIdent (t : TowerId) (p : Fin 8) (s : State) : Res :=
  takeCtl 2 t p s fun c x s =>
    let x := x.modPort p fun q => q.answered 2 fun _ => true
    let a := c.arg
    if x.lstate p = 4 then
      if identBad a then
        let x := x.modPort p fun q => (List.range 4).foldl (fun (q : Port) v =>
          q.modTx v fun t => { t with credits := 16, adv := 16 }) q
        .next (s.setTw t (x.mgmtOnly p 1 10))
      else
        let x := ((x.setPartner p a).loadCredits p a).modPort p fun q => { q with ident := some a }
        let rev := min 1 (identField a 22 1)
        if rev < max 1 (identField a 23 1) then .next (s.setTw t (x.mgmtOnly p 3 16))
        else .next (s.setTw t ((x.setLstate p 5).fset Fld.lnkStat_NEG_REV rev p))
    else if identBad a then .next (s.setTw t (x.mgmtOnly p 1 10))
    else if (x.port p).ident = some a then .next (s.setTw t x)
    else
      let x := (x.setPartner p a).modPort p fun q => { q with ident := some a }
      .next (s.setTw t (if x.lstate p = 7 then x else x.mgmtOnly p 2 11))

/-- A VC_RESET arrives and is acknowledged (R425). -/
def execVcReset (t : TowerId) (p : Fin 8) (s : State) : Res :=
  takeCtl 3 t p s fun c x s =>
    let v := c.arg % 4
    .next (s.setTw t ((x.vcDrop p v).modPort p fun q => q.ctl 4 v))

/-- The VC_RESET of this end is acknowledged (R425). -/
def execVcResetAck (t : TowerId) (p : Fin 8) (s : State) : Res :=
  takeCtl 4 t p s fun c x s =>
    let v := c.arg % 4
    .next (s.setTw t ((x.vcDrop p v).modPort p fun q =>
      (q.modRx v fun r => { r with resetting := false }).answered 3 fun k => decide (k.arg % 4 = v)))

/-- The codeword 64 after the one that carries the control flit queued next (R430): 64 codewords carry 165 flits (R413). -/
def Port.switchCw (q : Port) : Nat := ((2048 * (q.sent + q.ctlOut.length + 1) - 1) / 5280 + 64) % 65536

/-- A lane is out, or a change of lanes is under way (R431). -/
def Tower.laneBusy (x : Tower) (p : Nat) : Bool :=
  (x.port p).sw.isSome || (x.port p).recal.isSome || ((List.range 4).any fun l => decide (x.fget Fld.lnkLane_OUT p l = 1))

/-- The local number of the partner's lane, found in training (R408). -/
def Port.lane (q : Port) (l : Nat) : Nat := q.perm.getD l l

/-- The rank that decides between two LANE_DROPs that cross (R431). -/
def laneRank (faddr port : Nat) : Nat := (faddr % 1024 * 2 + faddr / 1024 % 2) * 16 + port

/-- LANE_DROP arrives (R430, R431): accepted with the switch codeword, or refused. -/
def execLaneDrop (t : TowerId) (p : Fin 8) (s : State) : Res :=
  takeCtl 5 t p s fun c x s =>
    let l := c.arg % 256
    let q := x.port p
    let mine := laneRank x.faddr (modulePort t p)
    let theirs := laneRank (x.fget Fld.lnkPartner_TOWER p * 1024 + x.fget Fld.lnkPartner_NODE p) (x.fget Fld.lnkPartner_PORT p)
    if 3 < l then .next (s.setTw t ((x.lnkErr p 15).modPort p fun q => q.ctl 8 (l + 2 * 256)))
    else if x.laneBusy p then .next (s.setTw t ((x.lnkErr p 15).modPort p fun q => q.ctl 8 (l + 256)))
    else if q.asked.isSome ∧ mine < theirs then .next s
    else
      let x := if q.asked.isSome then x.fset Fld.lnkStat_RECAL_RESULT 2 p else x
      .next (s.setTw t (x.modPort p fun q =>
        { (q.answered 5 fun _ => true).ctl 7 (l + q.switchCw * 256) with
          asked := none
          want := q.asked.orElse fun _ => q.want
          sw := some ⟨q.lane l, true, false⟩ }))

/-- LANE_ADD arrives (R430): the lane that is out is switched back in. -/
def execLaneAdd (t : TowerId) (p : Fin 8) (s : State) : Res :=
  takeCtl 6 t p s fun c x s =>
    let l := c.arg % 256
    let q := x.port p
    let ok := match q.recal with
      | some r => decide (l ≤ 3) && decide (r.lane = q.lane l) && !r.mine && q.sw.isNone
      | none => false
    if ok then .next (s.setTw t (x.modPort p fun q =>
      { q.ctl 7 (l + q.switchCw * 256) with sw := some ⟨q.lane l, false, false⟩ }))
    else .next (s.setTw t ((x.lnkErr p 15).modPort p fun q => q.ctl 8 (l + (if 3 < l then 2 else 1) * 256)))

/-- LANE_ACK arrives: the change takes place at the switch codeword it names (R430). -/
def execLaneAck (t : TowerId) (p : Fin 8) (s : State) : Res :=
  takeCtl 7 t p s fun _ x s =>
    let q := x.port p
    match q.asked with
    | some l => .next (s.setTw t (x.modPort p fun q =>
        { q.answered 5 fun _ => true with asked := none, sw := some ⟨l, true, true⟩ }))
    | none => match q.recal with
      | some r =>
        if r.mine && r.ready then .next (s.setTw t (x.modPort p fun q =>
          { q.answered 6 fun _ => true with sw := some ⟨r.lane, false, true⟩ }))
        else .next s
      | none => .next s

/-- RETRAIN arrives (R424, R428). -/
def execRetrain (t : TowerId) (p : Fin 8) (s : State) : Res :=
  takeCtl 9 t p s fun _ _ s => .next (s.modTw t fun x => x.linkTrain p)

/-- Sends LANE_DROP for a lane. -/
def Tower.askDrop (x : Tower) (p l : Nat) : Tower := x.modPort p fun q => { q.ctl 5 l with asked := some l, want := none }

/-- A pending request goes once no lane is out (R431). -/
def Tower.nextRecal (x : Tower) (p : Nat) : Tower :=
  match (x.port p).want with
  | some l => if x.laneBusy p || (x.port p).asked.isSome then x else x.askDrop p l
  | none => x

/-- LANE_NAK arrives (R431): the request is refused; a pending one goes next. -/
def execLaneNak (t : TowerId) (p : Fin 8) (s : State) : Res :=
  takeCtl 8 t p s fun _ x s =>
    let x := if (x.port p).asked.isSome then x.fset Fld.lnkStat_RECAL_RESULT 2 p else x
    let x := x.modPort p fun q => { (q.answered 5 fun _ => true).answered 6 fun _ => true with asked := none }
    .next (s.setTw t (x.nextRecal p))

/-- The switch codeword: both ends change the active lanes (R412, R430). -/
def execLaneSwitchCodeword (t : TowerId) (p : Fin 8) (s : State) : Res :=
  let x := s.tw t
  match (x.port p).sw with
  | none => .next s
  | some w =>
    let lanes := x.fget Fld.lnkStat_LANES p
    let active := decide (x.lstate p = 5) || decide (x.lstate p = 6)
    let x := x.fset Fld.lnkLane_OUT (if w.drop then 1 else 0) p w.lane
    let x := x.fset Fld.lnkStat_LANES (if w.drop then lanes - (lanes &&& 2 ^ w.lane) else lanes ||| 2 ^ w.lane) p
    let x := if active then x.setLstate p (if w.drop then 6 else 5) else x
    let x := x.modPort p fun q => { q with sw := none, recal := if w.drop then some ⟨w.lane, w.mine, false⟩ else none }
    let x := if !w.drop && w.mine then x.fset Fld.lnkStat_RECAL_RESULT 1 p else x
    .next (s.setTw t (x.nextRecal p))

/-- The recalibration of a dropped lane finishes with a margin; the end that asked restores the lane (R430, R441). -/
def execLaneRecalComplete (t : TowerId) (p : Fin 8) (margin : BitVec 8) (s : State) : Res :=
  let x := s.tw t
  match (x.port p).recal with
  | none => .next s
  | some r =>
    if r.ready then .next s
    else
      let x := (x.fadd Fld.lnkLane_RECALS 1 p r.lane).fset Fld.lnkLane_MARGIN margin.toNat p r.lane
      .next (s.setTw t (x.modPort p fun q =>
        { (if r.mine then q.ctl 6 r.lane else q) with recal := some { r with ready := true } }))

/-- A request to recalibrate a lane (R430, R431): sent, deferred, or refused BUSY. -/
def Tower.recalRequest (x : Tower) (p l : Nat) (defer : Bool) : Tower :=
  if x.laneBusy p || (x.port p).asked.isSome then
    if defer && (x.port p).want.isNone then
      (x.modPort p fun q => { q with want := some l }).fset Fld.lnkStat_RECAL_RESULT 3 p
    else x.fset Fld.lnkStat_RECAL_RESULT 2 p
  else x.askDrop p l

/-- The corrected symbols of each lane over the last millisecond are compared with the threshold (R430). -/
def execAutoRecalCheck (t : TowerId) (p : Fin 8) (s : State) : Res :=
  let x := s.tw t
  let now := (List.range 4).map fun l => x.fget Fld.lnkLane_CORR_SYM p l
  let th := x.fget Fld.lnkCfg_RECAL_THRESH p
  let strays := (List.range 4).filter fun l => decide (th ≠ 0) && decide (th < now.getD l 0 - (x.port p).base.getD l 0)
  let y := x.modPort p fun q => { q with base := now }
  .next (s.setTw t (if x.lstate p = 5 ∨ x.lstate p = 6 then strays.foldl (fun (y : Tower) l => y.recalRequest p l true) y else y))

/-- The partner's signal appears (R428). -/
def execSignalDetect (t : TowerId) (p : Fin 8) (s : State) : Res :=
  let x := s.tw t
  if !x.hasPort p then .next s
  else
    let x := x.modPort p fun q => { q with signal := true }
    .next (s.setTw t (if x.lstate p = 1 ∧ x.linksRun then x.setLstate p 2 else x))

/-- The partner's signal is lost: the port returns to DETECT, and this is no failure (R428). -/
def execSignalLoss (t : TowerId) (p : Fin 8) (s : State) : Res :=
  let x := (s.tw t).modPort p fun q => { q with signal := false }
  if 2 ≤ x.lstate p ∧ x.lstate p ≤ 7 then .next (s.setTw t ((x.linkClear p).setLstate p 1)) else .next (s.setTw t x)

/-- Equaliser and lane training ends, with the lane order found, or fails (R408, R428). -/
def execTrainComplete (t : TowerId) (p : Fin 8) (ok : Bool) (perm : List Nat) (margins : List Nat) (s : State) : Res :=
  let x := s.tw t
  if ok && !laneOrderWf perm margins then .fault .illFormed
  else if x.lstate p ≠ 2 then .next s
  else if !ok then .next (s.setTw t (x.trainFail p))
  else
    let x := (x.modPort p fun q => { q with perm := perm }).setLstate p 3
    .next (s.setTw t ((List.range 4).foldl (fun (x : Tower) l => x.fset Fld.lnkLane_MARGIN (margins.getD l 0) p l) x))

/-- Codeword and flit alignment is found, or not in time (R428); all lanes carry data and this port sends its IDENT. -/
def execLockAcquire (t : TowerId) (p : Fin 8) (ok : Bool) (s : State) : Res :=
  let x := s.tw t
  if x.lstate p ≠ 3 then .next s
  else if !ok then .next (s.setTw t (x.trainFail p))
  else .next (s.setTw t (((x.setLstate p 4).fset Fld.lnkStat_LANES 15 p).modPort p fun q =>
    { q.ctl 2 (x.identArg p) with sentIdent := true, sent := 0 }))

/-- No good flit for SILENCE_US while locked (R432). -/
def execSilenceTimeout (t : TowerId) (p : Fin 8) (s : State) : Res :=
  if (s.tw t).locked p then .next (retrain t p (s.modTw t fun x => x.lnkErr p 13)) else .next s

/-- A write of `LNK_CTL.ENABLE` (R435). -/
def Tower.linkEnable (x : Tower) (p : Nat) (on : Bool) : Tower :=
  let x := x.fset Fld.lnkCtl_ENABLE (if on then 1 else 0) p
  if on then if x.lstate p = 0 then x.linkTrain p else x
  else (x.linkClear p).setLstate p 0

def execLnkCtlEnable (t : TowerId) (p : Fin 8) (on : Bool) (s : State) : Res :=
  if (s.tw t).hasPort p then .next (s.modTw t fun x => x.linkEnable p on) else .next s

/-- A write of `LNK_CTL.RETRAIN`: leaves DOWN and management-only mode (R435). -/
def linkRetrain (t : TowerId) (p : Nat) (s : State) : State :=
  if (s.tw t).lstate p = 0 then s
  else retrain t p (s.modTw t fun x =>
    if x.lstate p = 8 then (x.modPort p fun q => { q with fails := [] }).fset Fld.lnkStat_FAILS 0 p else x)

def execLnkCtlRetrain (t : TowerId) (p : Fin 8) (s : State) : Res :=
  if (s.tw t).hasPort p then .next (linkRetrain t p s) else .next s

/-- A write of `LNK_CTL.RECAL` (R431, R435). -/
def linkRecal (t : TowerId) (p l : Nat) (defer : Bool) (s : State) : State :=
  s.modTw t fun x =>
    let x := (x.fset Fld.lnkCtl_DEFER (if defer then 1 else 0) p).fset Fld.lnkCtl_RECAL_LANE l p
    if x.lstate p = 5 ∨ x.lstate p = 6 then x.recalRequest p l defer else x.fset Fld.lnkStat_RECAL_RESULT 2 p

def execLnkCtlRecal (t : TowerId) (p : Fin 8) (lane : Fin 4) (defer : Bool) (s : State) : Res :=
  if (s.tw t).hasPort p then .next (linkRecal t p lane defer s) else .next s

/-! The commands, with the stop of the clocks and the engine records. -/

/-- `FLIT_TRANSMIT`, with its engine's record (R670). -/
def execFlitTransmit (t : TowerId) (p : Fin 8) (s : State) : Res :=
  marking (fun s1 => decide (((s1.tw t).port p.val).nseq ≠ ((s.tw t).port p.val).nseq) || ((s.tw t).port p.val).replayAt.isSome) (fun s1 => s1.advEng t (704 + p.val)) (flitTransmitOn t p) s

end Sys2Proof.Machine
end

