-- ==== Sys2Proof/Machine/Router.lean ====
section
/-! DEFINITION. The router (R442 to R455), remote requests (R456 to R458), device time (R465, R466) and the topology check
(R467 to R469). -/

namespace Sys2Proof.Machine

open Sys2Proof

/-- A dimension's ports are used (R444). -/
def Tower.portUsed (x : Tower) (p : Nat) : Bool :=
  let d := x.extent (portDim p)
  x.hasPort p &&
    if 6 ≤ p then decide (x.fget Fld.rtrCfg_EXPRESS_EN = 1) && decide (d % 2 = 0) && decide (4 ≤ d) else decide (d ≠ 1)

/-- The partner of a port is the one its entry names (R467, R468). -/
def Tower.partnerOk (x : Tower) (p : Nat) : Bool :=
  decide (x.fget Fld.lnkPartner_VALID p = 1) &&
  decide (x.fget Fld.lnkPartner_NODE p = x.fget Fld.rtrTopo_NODE p) &&
  decide (x.fget Fld.lnkPartner_TOWER p = x.fget Fld.rtrTopo_TOWER p) &&
  decide (x.fget Fld.lnkPartner_PORT p = x.fget Fld.rtrTopo_PORT p) &&
  (decide (x.fget Fld.rtrTopoSn_SERIAL p = 0) ||
    decide (x.fget Fld.lnkPartnerSn_SERIAL p = x.fget Fld.rtrTopoSn_SERIAL p))

def Tower.active (x : Tower) (p : Nat) : Bool := decide (x.lstate p = 5) || decide (x.lstate p = 6)

/-- Why a port is not routed, with the codes of `RTR_PORT_STAT.WHY`; 0 when it is eligible (R452, R474). -/
def Tower.why (x : Tower) (p : Nat) : Nat :=
  if x.fget Fld.rtrTopo_MODE p = 0 ∨ !x.portUsed p then 4
  else if !x.active p then 1
  else if !x.partnerOk p then 2
  else if (List.range 3).any fun v => decide (((x.port p).vtx v).adv < 64) then 3
  else 0

/-- A port that may carry a channel's messages (R429, R452). -/
def Tower.eligible (x : Tower) (v p : Nat) : Bool :=
  if v = 3 then x.hasPort p && x.carries p else decide (x.why p = 0)

/-- The forward offset of a destination in a dimension, and the shorter distance (R448). -/
def Tower.offset (x : Tower) (n d : Nat) : Nat := (coord n d + x.extent d - coord x.node d) % x.extent d
def Tower.short (x : Tower) (n d : Nat) : Nat := min (x.offset n d) (x.extent d - x.offset n d)

/-- A node that names a module (R442). -/
def Tower.nodeOk (x : Tower) (n : Nat) : Bool := (List.range 3).all fun d => decide (coord n d < x.extent d)

/-- An express port that is productive (R449). -/
def Tower.express (x : Tower) (m : FMsg) (p : Nat) : Bool :=
  let d := portDim p
  let e := x.extent d
  let k := x.short (m.dst % 1024) d
  let here := (coord x.node d + e / 2) % e
  let off := (coord (m.dst % 1024) d + e - here) % e
  let r := min off (e - off)
  let crosses := if off ≤ e - off then decide (e ≤ here + r) else decide (here < r)
  x.portUsed p && decide (k ≠ 0) && decide (coord m.src d = coord x.node d) && !m.flags.testBit (2 + d) &&
    decide (1 + e / 2 < 2 * k) && !crosses

/-- The productive ports of a message (R448, R449). -/
def Tower.productive (x : Tower) (m : FMsg) : List Nat :=
  let n := m.dst % 1024
  ((List.range 6).filter fun p =>
    let d := p / 2
    let off := x.offset n d
    decide (x.short n d ≠ 0) && (if p % 2 = 0 then decide (off ≤ x.extent d - off) else decide (x.extent d - off ≤ off))) ++
  [6, 7].filter fun p => x.express m p

/-- Where a message goes next. -/
inductive Hop where
  | here | hinge | port (p : Nat) | detour (p : Nat) | detourHinge | none
  deriving DecidableEq, Repr

/-- The detour entry of a destination (R453). -/
def Tower.detour (x : Tower) (v n : Nat) (other : Bool) : Hop :=
  let e := bits (x.reg .rtrDetour (n / 16)) (4 * (n % 16) + 3) (4 * (n % 16))
  if e ≤ 7 then if x.eligible v e then .detour e else .none
  else if e = 8 ∧ other then .detourHinge
  else .none

/-- The next hop of a message (R447 to R453). `other` says whether the other tower serves hinge requests. -/
def Tower.nextHop (x : Tower) (m : FMsg) (other : Bool) : Hop :=
  let v := vcOf m.typ
  let n := m.dst % 1024
  let sameTower := decide (m.dst / 1024 % 2 = x.id.nat)
  if n = x.node then if sameTower then .here else .hinge
  else if m.via = 9 ∧ !sameTower ∧ other then .hinge
  else if !x.nodeOk n then .none
  else if m.flags.testBit 0 then
    match (List.range 3).find? fun d => decide (x.short n d ≠ 0) with
    | some d =>
      let p := if x.offset n d ≤ x.extent d - x.offset n d then 2 * d else 2 * d + 1
      if x.eligible v p then .port p else x.detour v n other
    | none => .none
  else
    let ps := (x.productive m).filter fun p => x.eligible v p
    let room := fun (p : Nat) => (((x.port p).vtx v).credits : Int) - (m.need p : Int)
    match ps with
    | [] => x.detour v n other
    | p :: r => .port (r.foldl (fun a b => if room a < room b then b else a) p)

/-- A message that goes no further: a WR, RD or COLL_DATA is answered with a NAK (R454, R458). -/
def Tower.nakLost (x : Tower) (m : FMsg) (reason : Nat) : Tower :=
  if [0x01, 0x02, 0x20].contains m.typ ∧ reason ≠ 0 then
    x.post (x.msg 0x1E 0 32 m.src 0 m.tag (reason + m.typ * 2 ^ 8))
  else x

/-- Discards a message, counted at the port it arrived on (R454, R468). -/
def Tower.discard (x : Tower) (m : FMsg) (reason : Nat) : Tower :=
  (x.fadd Fld.rtrPortStat_DISCARDS 1 (if m.via < 8 then m.via else 0)).nakLost m reason

/-- Puts a message on an output port. -/
def Tower.output (x : Tower) (p : Nat) (m : FMsg) : Tower :=
  x.modPort p fun q => q.modTx (vcOf m.typ) fun t => { t with q := t.q ++ [m] }

/-- Takes the next message of a source of the router. -/
def Tower.takeMsg (x : Tower) : RouteSrc → Option (FMsg × Tower)
  | .port p v => match ((x.port p).vrx v).msgs with
    | (m, k) :: r => some (m, x.modPort p fun q => q.modRx v fun y =>
        { y with msgs := r, occ := y.occ - k, owed := y.owed + k })
    | [] => none
  | .hinge => match x.rtr.hinge with
    | m :: r => some (m, x.modRtr fun y => { y with hinge := r })
    | [] => none
  | .own => match x.rtr.own with
    | m :: r => some (m, x.modRtr fun y => { y with own := r })
    | [] => none
  | .again => match x.rtr.again with
    | m :: r => some (m, x.modRtr fun y => { y with again := r })
    | [] => none

/-- A message crosses the hinge; a TIME message is stamped as it leaves (R447, R465). -/
def crossHinge (t : TowerId) (m : FMsg) (s : State) : State :=
  let now := (s.tw t).time17 / 17
  let body := if m.typ ≠ 0x30 ∨ m.via ≠ 9 then m.body
    else if m.field 16 1 = 1 then putBits m.body 127 64 now else putBits m.body 255 192 now
  s.modTw t.other fun y => y.modRtr fun r =>
    { r with hinge := r.hinge ++ [{ m with via := 8, body := body, stamp := y.time17 / 17 }] }

/-- The router forwards one message (R445 to R455, R458, R468). -/
def messageRouteOn (t : TowerId) (src : RouteSrc) (s : State) : Res :=
  match (s.tw t).takeMsg src with
  | none => .next s
  | some (m, x) =>
    let s := s.setTw t x
    let other := (s.tw t.other).serving
    if m.via < 8 && decide (vcOf m.typ ≠ 3) && decide (x.why m.via = 2) then .next (s.setTw t (x.discard m 0))
    else if 64 ≤ m.hops then .next (s.setTw t (x.discard m 3))
    else match x.nextHop m other with
      | .here => .next (s.setTw t (x.modRtr fun r => { r with inbox := r.inbox ++ [m] }))
      | .hinge =>
        if other then .next (crossHinge t m s) else .next (s.setTw t (x.nakLost m 5))
      | .detourHinge => .next (crossHinge t { m with flags := m.flags ||| 2 ^ 5 } s)
      | .port p => .next (s.setTw t (x.output p m))
      | .detour p => .next (s.setTw t (x.output p { m with flags := m.flags ||| 2 ^ 5 }))
      | .none => .next (s.setTw t (x.discard m 2))

/-- Takes the first delivered message of a type. -/
def Tower.takeInbox (x : Tower) (typ : Nat) : Option (FMsg × Tower) :=
  match x.rtr.inbox.findIdx? fun m => decide (m.typ = typ) with
  | some i => (x.rtr.inbox[i]?).map fun m => (m, x.modRtr fun r => { r with inbox := ldel r.inbox i })
  | none => none

/-- Every byte lies within one admission window that grants the access; host memory never passes (R456, R475). -/
def Tower.admits (x : Tower) (wr : Bool) (a n : Nat) : Bool :=
  decide (a + n ≤ 2 ^ 47) && (List.range 8).any fun w =>
    let b := x.fget Fld.rtrAdmitBase_LINE w
    let l := x.fget Fld.rtrAdmitLimit_LINE w
    decide (b ≤ l) && decide (b * 128 ≤ a) && decide (a + n ≤ l * 128 + 128) &&
      decide ((if wr then x.fget Fld.rtrAdmitBase_WR w else x.fget Fld.rtrAdmitBase_RD w) = 1)

/-- The NAK reason of a line error (R458). -/
def LineErr.nak : LineErr → Nat
  | .unavailable => 5
  | _ => 4

/-- A refusal of a remote request. -/
def Tower.nak (x : Tower) (m : FMsg) (reason : Nat) : Tower :=
  x.post (x.msg 0x1E 0 32 m.src 0 m.tag (reason + m.typ * 2 ^ 8))

/-- A message's deadline (R355, R445). -/
def FMsg.due (m : FMsg) : Option Nat := if m.flags.testBit 1 then some m.dl else none

/-- The link engine as an agent for a remote request (R353). -/
def FMsg.agent (m : FMsg) (t : TowerId) : Agent := ⟨t, 27, (m.src * 2 ^ 32 + m.tag) * 256 + m.typ⟩

/-- The first delivered message of a type is consumed. -/
def State.tookInbox (s : State) (t : TowerId) (typ : Nat) : State := s.modTw t fun x => ((x.takeInbox typ).map Prod.snd).getD x

/-- A remote write (R456): checked against the windows, performed as a device write, and acknowledged. -/
def wrOn (t : TowerId) (s : State) : Res :=
  match (s.tw t).takeInbox 0x01 with
  | none => .next s
  | some (m, x) =>
    let a := m.field 16 8
    let n := m.len - 32
    if !x.admits true a n || decide (a % 16 ≠ 0) || decide (m.len < 48) then .next (s.setTw t (x.nak m 1))
    else match engWriteBytes s (m.agent t) a n (m.body >>> 128) with
      | .wait s => .next s
      | .done s (some e) => .next ((s.tookInbox t 0x01).modTw t fun x => x.nak m e.nak)
      | .done s none => .next ((s.tookInbox t 0x01).modTw t fun x => x.post (x.msg 0x10 0 16 m.src 0 m.tag 0))

/-- A remote read (R456): checked, read coherently, and answered. -/
def rdOn (t : TowerId) (s : State) : Res :=
  match (s.tw t).takeInbox 0x02 with
  | none => .next s
  | some (m, x) =>
    let a := m.field 16 8
    let n := m.field 24 4
    if !x.admits false a n || decide (n % 16 ≠ 0) || decide (n = 0) || decide (4080 < n) then .next (s.setTw t (x.nak m 1))
    else match engReadBytes s (m.agent t) m.due a n with
      | .wait s => .next s
      | .done s (.error .uncorrectable) => .next (s.tookInbox t 0x02)
      | .done s (.error e) => .next ((s.tookInbox t 0x02).modTw t fun x => x.nak m e.nak)
      | .done s (.ok v) => .next ((s.tookInbox t 0x02).modTw t fun x => x.post (x.msg 0x11 0 (16 + n) m.src 0 m.tag v))

/-- Sends a remote request of a local requester, held until its answer (R457). -/
def Tower.remote (x : Tower) (typ len dst body : Nat) (src : RemSrc) : Tower :=
  let m := x.msg typ 0 len dst 0 x.rtr.nextTag body
  x.modRtr fun r => { r with
    own := r.own ++ [m], nextTag := (r.nextTag + 1) % 2 ^ 32, rem := r.rem ++ [⟨m, 1, src⟩] }

/-- A remote write of `n` bytes, in messages of at most 4,080 bytes (R446). -/
def Tower.remoteWrite (x : Tower) (dst addr n v : Nat) (src : RemSrc) : Tower :=
  (List.range (cdiv n 4080)).foldl (fun (x : Tower) i =>
    let k := min 4080 (n - 4080 * i)
    x.remote 0x01 (32 + k) dst (addr + 4080 * i + (v >>> (8 * 4080 * i)) % 2 ^ (8 * k) * 2 ^ 128) src) x

/-- Whoever made a remote request still waits for its end: a descriptor of a route unit that has been abandoned does not (R243). -/
def Tower.remWanted (x : Tower) : RemSrc → Bool
  | .route c job _ => (sget RtUnit.init x.routes c).run.any fun r => decide (r.job.num = job)
  | _ => true

/-- The request that a tag names ends (R457). -/
def Tower.remEnd (x : Tower) (tag : Nat) (ok : Bool) (reason data : Nat) : Tower :=
  match x.rtr.rem.find? fun q => decide (q.msg.tag = tag) with
  | some q => x.modRtr fun r => { r with
      rem := r.rem.filter fun e => decide (e.msg.tag ≠ tag)
      remDone := (r.remDone.filter fun d => x.remWanted d.src) ++ if x.remWanted q.src then [⟨q.src, ok, reason, data⟩] else [] }
  | none => x

/-- WR_ACK (R457). -/
def wrAckOn (t : TowerId) (s : State) : Res :=
  match (s.tw t).takeInbox 0x10 with
  | none => .next s
  | some (m, x) => .next (s.setTw t (x.remEnd m.tag true 0 0))

/-- RD_DATA (R457). -/
def rdDataOn (t : TowerId) (s : State) : Res :=
  match (s.tw t).takeInbox 0x11 with
  | none => .next s
  | some (m, x) => .next (s.setTw t (x.remEnd m.tag true 0 m.body))

/-- A NAK is final (R457); one that refuses a chunk ends its collective with COLL_NAK (R464). -/
def nakOn (t : TowerId) (s : State) : Res :=
  match (s.tw t).takeInbox 0x1E with
  | none => .next s
  | some (m, x) =>
    let hit := fun (c : CollRun) => c.out.any fun o => decide (o.msg.tag = m.tag)
    let x := x.remEnd m.tag false (m.field 16 1) 0
    let endIt := fun (p : Nat × CollRun) =>
      if hit p.2 && !p.2.ended then (p.1, { p.2 with result := 0x64, ended := true, out := [] }) else p
    .next (s.setTw t (x.modRtr fun r => { r with coll := r.coll.map endIt }))

/-- An ERROR message (R433): it names a request of this module that the partner could not read; the request is not
answered, so that its end-to-end timeout decides (R457). -/
def errorOn (t : TowerId) (s : State) : Res :=
  match ((s.tw t).takeInbox 0x1F).orElse fun _ => (s.tw t).takeInbox 0x3F with
  | none => .next s
  | some (_, x) => .next (s.setTw t x)

/-- No answer within E2E_US (R457): sent again with the same TAG, up to three times, then reported as failed. -/
def e2eTimeoutOn (t : TowerId) (tag : Nat) (s : State) : Res :=
  let x := s.tw t
  match x.rtr.rem.find? fun q => decide (q.msg.tag = tag) with
  | none => .next s
  | some q =>
    if 4 ≤ q.sends then .next (s.setTw t (x.remEnd tag false 0 0))
    else
      let up := fun (e : RemReq) => if e.msg.tag = tag then { e with sends := e.sends + 1 } else e
      .next (s.setTw t ((x.post q.msg).modRtr fun r => { r with rem := r.rem.map up }))

/-! Device time. -/

/-- Sends a TIME message to a neighbour: on a local port, or over the hinge (R465). -/
def sendTime (t : TowerId) (via : Nat) (body : Nat) (s : State) : State :=
  let x := s.tw t
  let dst := if via = 8 then t.other.nat * 1024 + x.node
    else x.fget Fld.lnkPartner_TOWER via * 1024 + x.fget Fld.lnkPartner_NODE via
  let m := x.msg 0x30 0 48 dst 0 0 body
  if via = 8 then (if (s.tw t.other).serving then crossHinge t m s else s)
  else if x.eligible 3 via then s.setTw t (x.output via m) else s

/-- A follower's exchange interval ends (R465): a request goes to the parent; after four without an answer, the rate is
held. -/
def execTimeInterval (t : TowerId) (s : State) : Res :=
  let x := s.tw t
  if x.fget Fld.rtrTimeCfg_MASTER = 1 then .next s
  else
    let x := if 4 ≤ x.rtr.timeWait then x.fset Fld.rtrStat_TIME_HOLD 1 else x
    let s := s.setTw t (x.modRtr fun r => { r with timeWait := r.timeWait + 1 })
    .next (sendTime t (x.fget Fld.rtrTimeCfg_PARENT) 1 s)

/-- A TIME message (R465): a request is answered with T2 and T3; an answer gives the offset, applied as a step forward or
as a rate within 200 ppm over the next interval. -/
def execTime (t : TowerId) (s : State) : Res :=
  match (s.tw t).takeInbox 0x30 with
  | none => .next s
  | some (m, x) =>
    let s := s.setTw t x
    if m.field 16 1 = 1 then
      .next (sendTime t m.via (putBits (putBits (2 : Nat) 127 64 (m.field 24 8)) 191 128 m.stamp) s)
    else if m.field 16 1 ≠ 2 ∨ x.fget Fld.rtrTimeCfg_MASTER = 1 ∨ x.rtr.timeWait = 0 then .next s
    else
      let t1 : Int := m.field 24 8
      let t2 : Int := m.field 32 8
      let t3 : Int := m.field 40 8
      let t4 : Int := m.stamp
      let θ := ((t2 - t1) - (t4 - t3)) / 2
      let x := (x.fset Fld.rtrStat_TIME_HOLD 0).modRtr fun r => { r with timeWait := 0 }
      if 1000 < θ then .next (s.setTw t { x with time17 := x.time17 + 17 * θ.toNat })
      else
        let ppb := θ * 1000000 / (max 1 (x.fget Fld.rtrTimeCfg_INTERVAL) : Int)
        .next (s.setTw t (x.modRtr fun r => { r with rate := max (-200000) (min 200000 ppb) }))

/-! Topology. -/

/-- Fails the check: the tower stays in HOLD with the reason (R467, R472). -/
def Tower.topoFail (x : Tower) (reason port : Nat) : Tower :=
  ((x.fset Fld.rtrStat_TOPO 3).fset Fld.rtrStat_REASON reason).fset Fld.rtrStat_PORT port

/-- The result of the check now: a failure, still running, or passed (R467, R469, R621). It waits for `RTR_CFG.LOCK`. -/
def Tower.topoCheck (x : Tower) : Tower :=
  let ps := (List.range 8).filter fun p => x.hasPort p && decide (x.fget Fld.rtrTopo_MODE p = 1 ∨ x.fget Fld.rtrTopo_MODE p = 2)
  if x.fget Fld.rtrCfg_LOCK ≠ 1 then x.fset Fld.rtrStat_TOPO 1
  else if x.fget Fld.licStat_FABRIC = 0 ∧ 128 < x.extent 0 * x.extent 1 * x.extent 2 then x.topoFail 3 0
  else match ps.find? fun p => decide (x.fget Fld.lnkPartner_VALID p = 1) && x.carries p && !x.partnerOk p with
    | some p => x.topoFail 2 p
    | none =>
      if ps.all fun p => decide (x.fget Fld.rtrTopo_MODE p ≠ 2) || x.active p then
        (x.fset Fld.rtrStat_TOPO 2).fset Fld.rtrStat_REASON 0
      else x.fset Fld.rtrStat_TOPO 1

/-- TOPO_S expires (R467, R621): reason 4 while LOCK is open, else 1 with the lowest required port that is not ACTIVE. -/
def Tower.topoTimeout (x : Tower) : Tower :=
  if x.fget Fld.rtrCfg_LOCK ≠ 1 then x.topoFail 4 0
  else x.topoFail 1 (((List.range 8).find? fun p => decide (x.fget Fld.rtrTopo_MODE p = 2) && !x.active p).getD 0)

/-! The commands, with the stop of the clocks and the engine records. -/

/-- `E2E_TIMEOUT`, held while the tower's clocks are stopped (R600, R602). -/
def execE2eTimeout (t : TowerId) (tag : Nat) (s : State) : Res :=
  gate t (e2eTimeoutOn t tag) s

/-- `ERROR`, held while the tower's clocks are stopped (R600, R602). -/
def execError (t : TowerId) (s : State) : Res :=
  gate t (errorOn t) s

/-- `MESSAGE_ROUTE`, held while the tower's clocks are stopped (R600, R602). -/
def execMessageRoute (t : TowerId) (src : RouteSrc) (s : State) : Res :=
  gate t (marking (fun s1 => decide ((s1.tw t).rtr ≠ (s.tw t).rtr) || decide ((s1.tw t).ports ≠ (s.tw t).ports)) (fun s1 => s1.advEng t 712) (messageRouteOn t src)) s

/-- `NAK`, held while the tower's clocks are stopped (R600, R602). -/
def execNak (t : TowerId) (s : State) : Res :=
  gate t (nakOn t) s

/-- `RD`, held while the tower's clocks are stopped (R600, R602). -/
def execRd (t : TowerId) (s : State) : Res :=
  gate t (rdOn t) s

/-- `RD_DATA`, held while the tower's clocks are stopped (R600, R602). -/
def execRdData (t : TowerId) (s : State) : Res :=
  gate t (rdDataOn t) s

/-- `WR`, held while the tower's clocks are stopped (R600, R602). -/
def execWr (t : TowerId) (s : State) : Res :=
  gate t (wrOn t) s

/-- `WR_ACK`, held while the tower's clocks are stopped (R600, R602). -/
def execWrAck (t : TowerId) (s : State) : Res :=
  gate t (wrAckOn t) s

end Sys2Proof.Machine
end

