-- ==== Sys2Proof/Machine/EccUnit.lean ====
section
/-! DEFINITION. The ECC block's engines (R381 to R406): buckets, write-backs, retired lines, the scrubber, the checker
test. -/

namespace Sys2Proof.Machine

open Sys2Proof

/-- A leak moment of a bucket (R382). -/
def execCeLeak (t : TowerId) (b : Fin 8) (s : State) : Res :=
  .next (s.modTw t fun x => x.fset Fld.eccCeBucket_LEVEL (x.fget Fld.eccCeBucket_LEVEL b - 1) b)

/-- A write of a bucket (R402): ignored with THRESH or LEAK_MS equal to 0. -/
def execEccCeBucketWrite (t : TowerId) (b : Fin 8) (v : Word) (s : State) : Res :=
  .next (s.modTw t fun x =>
    if bits v.toNat 63 48 = 0 ∨ bits v.toNat 47 32 = 0 then x
    else (x.fset Fld.eccCeBucket_THRESH (bits v.toNat 63 48) b).fset Fld.eccCeBucket_LEAK_MS (bits v.toNat 47 32) b)

/-- Ends the write-back of a sector: its queue entry is freed (R383). -/
def MemSys.wbDone (m : MemSys) (w : WbEnt) (a : Agent) : MemSys :=
  { m.directUsed a (w.sec / 4) with wbq := m.wbq.filter fun v => !(decide (v.sec = w.sec) && v.bank == w.bank) }

/-- The visitor copy in this tower that holds a sector. -/
def MemSys.visOf (m : MemSys) (sec : Nat) : Option VisCopy := (sfind m.vis (sec / 4)).filter fun v => v.valid.testBit (sec % 4)

/-- A slice bank's sector that a write-back reads: a sector of a visitor copy in this tower, of the LLC, or of a pinned line. -/
def MemSys.bankSec (m : MemSys) (sec : Nat) : Sector × R32 := match m.visOf sec with
  | some v => v.sec (sec % 4)
  | none => (m.now sec).1

/-- Writes a corrected sector back to the bank that holds it, without allocating (R383). -/
def MemSys.bankPut (m : MemSys) (sec : Nat) (d : Sector) : MemSys :=
  let c := eccEncode d
  match m.visOf sec with
  | some v => { m with vis := sset m.vis (sec / 4) { v with
      data := lineSetSector v.data (sec % 4) d, chk := BitVec.ofNat 128 (putBits v.chk.toNat (32 * (sec % 4) + 31) (32 * (sec % 4)) c.toNat) } }
  | none => if (m.now sec).2 then { m with dir := smod DirLine.init m.dir (sec / 4) fun e => e.setSec (sec % 4) d c } else m.store sec d c

/-- A write-back has read its sector (R383): one still correctable is written corrected, with its new check bits; an uncorrectable one
retires its line. The write to HBM needs its place in the channel's queue. -/
def writeBack (t : TowerId) (w : WbEnt) (a : Agent) (s : State) : State :=
  let m := (s.tw t).mem
  let line := w.sec / 4
  let r := if w.bank then m.bankSec w.sec else m.stored w.sec
  let c := eccDecode r.1 r.2
  let done := fun (s : State) => s.modMem t fun m => m.wbDone w a
  let bucket := (s.tw t).bucketOf (s.target (w.sec * 32)) w.bank w.sec
  if (m.lostOf a line).testBit (w.sec % 4) then done (s.uncorrectable t w.sec bucket (.parity none))
  else match c.1 with
    | .correctable =>
      if w.bank then done (s.modMem t fun m => m.bankPut w.sec c.2)
      else match (s.tw t).backWrite line (2 ^ (w.sec % 4)) 30 with
        | some x => done ((s.setTw t x).modMem t fun m => m.store w.sec c.2 (eccEncode c.2))
        | none => s
    | .uncorrectable => done (s.uncorrectable t w.sec bucket .noReset)
    | _ => done s

/-- The i-th queued write-back proceeds (R282, R290, R383): it waits for a locked line, is skipped for a line that the host holds
modified or a sector with an open merge-buffer entry, and holds its line while it reads HBM past the LLC. -/
def eccWriteBackOn (t : TowerId) (i : Nat) (s : State) : Res :=
  match (s.tw t).mem.wbq[i]? with
  | none => .next s
  | some w =>
    let line := w.sec / 4
    let a : Agent := ⟨t, 30, 2 + w.sec⟩
    let home := (s.tw (s.homeOr line t)).mem
    let e := sget DirLine.init home.dir line
    if !w.run && (e.locked || home.engHeld line) then .next s
    else if !w.run && (decide (e.h = .ha) || home.merge.any fun e => decide (e.sector = w.sec)) then
      .next (s.modMem t fun m => m.wbDone w a)
    else if w.bank then .next (writeBack t w a s)
    else
      let r := s.directRead t a ((s.tw t).homeSlice line) line (2 ^ (w.sec % 4)) none
      let go := r.1.modMem t fun m => { m with wbq := lmod m.wbq i fun w => { w with run := true } }
      .next (if r.2 then writeBack t w a go else go)

/-- Removes a retired line, the last entry taking its place (R390, R400, R401). -/
def retireDel (l : List Nat) (line : Nat) : List Nat :=
  match l.findIdx? fun x => decide (x = line), l.getLast? with
  | some i, some z => if i + 1 = l.length then l.dropLast else l.dropLast.set i z
  | _, _ => l

/-- A write of `ECC_RETIRE_DEL`: the management controller alone removes an entry (R390, R400). -/
def execEccRetireDel (t : TowerId) (who : RegBy) (v : Word) (s : State) : Res :=
  if who = .mgmt then
    .next ((s.modMem t fun m => { m with retired := retireDel m.retired (bits v.toNat 47 7) }).modTw t fun x => x.markDue 2)
  else .next s

/-- The HBM region or pinned window of the tower that a line lies in (R24, R25, R391). -/
def Tower.regionOf (x : Tower) (line : Nat) : Option Nat :=
  let a := line * 128
  if hbmBase x.id ≤ a ∧ a < hbmBase x.id + x.stackN * 48 * 2 ^ 30 then some 0
  else if pinBase x.id ≤ a ∧ a < pinBase x.id + 576 * 2 ^ 22 then some 1
  else none

/-- The record of a pass (R393), as a number of 64 bytes. -/
def Scrub.bytes (c : Scrub) (now : Nat) : Nat :=
  leNat (leBytes 8 c.lines ++ leBytes 4 c.ce ++ leBytes 4 c.ue ++ leBytes 8 c.first ++ leBytes 8 c.lastErr ++
    leBytes 8 c.start ++ leBytes 8 now ++ leBytes 4 c.status ++ leBytes 4 c.skipped)

/-- The scrubber and the raw operations as agents (R353, R395). -/
def scrubAgent (t : TowerId) : Agent := ⟨t, 30, 0⟩
def rawAgent (t : TowerId) : Agent := ⟨t, 30, 1⟩

/-- Ends a pass (R393): the record is written at a line of the tower's HBM or pinned memory. While that line must wait,
the pass stays. -/
def scrubEnd (t : TowerId) (s : State) : State :=
  match (s.tw t).mem.scrub with
  | none => s
  | some c =>
    let stop := fun (s : State) => s.modMem t fun m => { m with scrub := none }
    if (s.targetB (c.record * 128)).home? ≠ some t then stop s
    else match engWriteBytes s (scrubAgent t) (c.record * 128) 64 (c.bytes (s.tw t).timeNs) with
      | .wait s => s
      | .done s (some _) => stop s
      | .done s none => (stop s).modTw t fun x => x.eccSet Fld.eccInt_SCRUB_DONE 1

/-- GO (R391, R405): ignored while a pass runs or with RATE 0. -/
def scrubGo (t : TowerId) (s : State) : State :=
  let x := s.tw t
  if x.mem.scrub.isSome || decide (x.fget Fld.eccScrubCtl_RATE = 0) then s
  else
    let b := x.fget Fld.eccScrubBase_LINE
    let l := x.fget Fld.eccScrubLimit_LINE
    let ok := decide (b ≤ l) && (x.regionOf b).isSome && decide (x.regionOf b = x.regionOf l)
    let s := s.modMem t fun m =>
      { m with scrub := some ⟨b, l, x.fget Fld.eccScrubRec_LINE, 0, 0, 0, 0, 0, x.timeNs, 0, if ok then 0 else 2⟩ }
    if ok then s else scrubEnd t s

/-- ABORT (R394): the pass ends after the line in progress. -/
def scrubAbort (t : TowerId) (s : State) : State :=
  match (s.tw t).mem.scrub with
  | none => s
  | some c => if c.status = 0 then scrubEnd t (s.modMem t fun m => { m with scrub := some { c with status := 1 } }) else s

/-- A write of `ECC_SCRUB_CTL` (R405). -/
def scrubCtl (t : TowerId) (go abort : Bool) (v : Word) (s : State) : State :=
  let s := s.modTw t fun x => x.fset Fld.eccScrubCtl_RATE (bits v.toNat 11 0)
  let s := if go then scrubGo t s else s
  if abort then scrubAbort t s else s

/-- A write of `ECC_SCRUB_CTL` with GO (R391). -/
def execEccScrubGo (t : TowerId) (v : Word) (s : State) : Res := .next (scrubCtl t true (v.getLsbD 62) v s)

/-- A write of `ECC_SCRUB_CTL` with ABORT (R394). -/
def execEccScrubAbort (t : TowerId) (v : Word) (s : State) : Res := .next (scrubCtl t (v.getLsbD 61) true v s)

/-- One sector that the scrubber reads (R345, R392): counted, reported, and queued for write-back or retired. `lost` says that HBM could
not deliver it. -/
def scrubSector (t : TowerId) (sec : Nat) (fromLlc lost : Bool) (s : State) : State :=
  let x := s.tw t
  let tg := s.target (sec * 32)
  let r := if fromLlc then (x.mem.now sec).1 else x.mem.stored sec
  let b := x.bucketOf tg fromLlc sec
  let note := fun (ce ue : Nat) (s : State) => s.modMem t fun m => { m with scrub := m.scrub.map fun c =>
    { c with
      ce := c.ce + ce, ue := c.ue + ue
      first := if c.ce + c.ue = 0 then sec * 32 else min c.first (sec * 32)
      lastErr := max c.lastErr (sec * 32) } }
  if lost then note 0 1 (s.uncorrectable t sec b (.parity none))
  else match (eccDecode r.1 r.2).1 with
    | .correctable => note 1 0 ((s.correctable t sec b).modTw t fun x =>
        if x.fget Fld.eccCtl_CE_MODE = 1 then x else x.queueWb sec (decide (b = 6)))
    | .uncorrectable => note 0 1 (s.uncorrectable t sec b .noReset)
    | _ => s

/-- The scrubber takes the next line (R362, R392): HBM is read past the LLC with requests of its own, and a held line is waited for;
after the last, or when a pass that has ended early could not write its record yet, the record is written (R393). -/
def scrubLineOn (t : TowerId) (s : State) : Res :=
  match (s.tw t).mem.scrub with
  | none => .next s
  | some c =>
    let line := c.next
    let x := s.tw t
    let step := fun (s : State) => s.modMem t fun m => { m with scrub := m.scrub.map fun c => { c with next := c.next + 1 } }
    let fin := fun (s : State) => if c.next = c.last then scrubEnd t (step s) else step s
    let tg := s.target (line * 128)
    if c.status ≠ 0 ∨ c.last < c.next then .next (scrubEnd t s)
    else if tg.home?.isNone || x.mem.retired.contains line then
      .next (fin (s.modMem t fun m => { m with scrub := m.scrub.map fun c => { c with skipped := c.skipped + 1 } }))
    else if x.mem.engHeld line || (sget DirLine.init x.mem.dir line).locked then .next s
    else
      let r := if tg.isHbm then s.directRead t (scrubAgent t) 576 line 15 none else (s, true)
      if !r.2 then .next r.1
      else
        let lost := x.mem.lostOf (scrubAgent t) line
        let s := flushSecs (r.1.modMem t fun m => m.directUsed (scrubAgent t) line) t fun sec => decide (sec / 4 = line)
        let s := s.modMem t fun m => { m with scrub := m.scrub.map fun c => { c with lines := c.lines + 1 } }
        let copies := (List.range 4).filter fun k => tg.isHbm && ((s.tw t).mem.now (line * 4 + k)).2
        let s := (List.range 4).foldl (fun s k => scrubSector t (line * 4 + k) false (lost.testBit k) s) s
        .next (fin (copies.foldl (fun s k => scrubSector t (line * 4 + k) true false s) s))

/-- A write of OP to `ECC_TEST_CTL` (R395, R396, R406). -/
def rawOp (write : Bool) (t : TowerId) (who : RegBy) (v : Word) (s : State) : State :=
  let x := s.tw t
  if who ≠ .mgmt then s.modTw t fun x => x.fset Fld.eccTestCtl_RESULT 4
  else if x.mem.raw.isSome then s
  else
    let sec := bits v.toNat 49 48
    let line := bits v.toNat 47 7
    let s := s.modTw t fun x => (x.fset Fld.eccTestCtl_SECTOR sec).fset Fld.eccTestCtl_LINE line
    let res := fun (n : Nat) => s.modTw t fun x => x.fset Fld.eccTestCtl_RESULT n
    if (s.targetB (line * 128)).home? ≠ some t then res 2
    else if x.mem.retired.contains line then res 3
    else
      let d : Sector := BitVec.ofNat 256 ((List.range 4).foldl (fun a i => a + x.fget Fld.eccTestData_DATA i <<< (64 * i)) 0)
      s.modMem t fun m => { m with raw := some ⟨write, line, sec, d, BitVec.ofNat 32 (x.fget Fld.eccTestChk_CHK), false⟩ }

/-- A raw write is requested (R395). -/
def execEccTestRawWrite (t : TowerId) (who : RegBy) (v : Word) (s : State) : Res := .next (rawOp true t who v s)
/-- A raw read is requested (R395). -/
def execEccTestRawRead (t : TowerId) (who : RegBy) (v : Word) (s : State) : Res := .next (rawOp false t who v s)

/-- The access of a raw operation once no copy is left (R395): the code word is stored or read exactly as it is, and the registers
show the end. -/
def rawAccess (t : TowerId) (r : RawOp) (s : State) : State :=
  let sec := r.line * 4 + r.sector
  let got := (s.tw t).mem.stored sec
  let s := s.modMem t fun m =>
    { (if r.write then m.store sec r.data r.chk else m).directUsed (rawAgent t) r.line with raw := none }
  let s := if r.write then s else s.modTw t fun x =>
    ((List.range 4).foldl (fun x i => x.fset Fld.eccTestData_DATA (bits got.1.toNat (64 * i + 63) (64 * i)) i) x).fset
      Fld.eccTestChk_CHK got.2.toNat
  s.modTw t fun x => (x.fset Fld.eccTestCtl_RESULT 1).eccSet Fld.eccInt_TEST_DONE 1

/-- A raw operation proceeds to its end (R353, R395): dirty sectors are written back, the host copy is recalled, the LLC and visitor
copies dropped and the merge-buffer entries flushed; the line is held while HBM, or the bank, is accessed. -/
def execEccTestComplete (t : TowerId) (s : State) : Res :=
  match (s.tw t).mem.raw with
  | none => .next s
  | some r =>
    let hbm := (s.targetB (r.line * 128)).isHbm
    let access := fun (s : State) =>
      let s := s.modMem t fun m => { m with raw := some { r with run := true } }
      let bit := 2 ^ r.sector
      if !hbm then rawAccess t r s
      else if r.write then match (s.tw t).hbmSend ((s.tw t).homeSlice r.line) ⟨30, r.line, bit, true, false, none, false, 0, none⟩ with
        | some x => rawAccess t r (s.setTw t x)
        | none => s
      else
        let d := s.directRead t (rawAgent t) ((s.tw t).homeSlice r.line) r.line bit none
        if d.2 then rawAccess t r d.1 else d.1
    let clear := fun (s : State) =>
      let s := flushSecs s t fun k => decide (k / 4 = r.line)
      if hbm then match evict s t r.line 30 with
        | some s => access s
        | none => s
      else access s
    if r.run then .next (access s)
    else if (s.tw t).mem.engHeld r.line || (s.tw t).mem.fills.any fun f => decide (f.line = r.line) then .next s
    else match sfind (s.tw t).mem.dir r.line with
    | none => .next (clear s)
    | some e =>
      if e.locked then .next s
      else match recallHost s t r.line with
        | .wait s => .next s
        | .ok s => .next (clear s)

/-! The commands, with the stop of the clocks and the engine records. -/

/-- `ECC_WRITE_BACK`, held while the tower's clocks are stopped (R600, R602). -/
def execEccWriteBack (t : TowerId) (i : Nat) (s : State) : Res :=
  gate t (eccWriteBackOn t i) s

/-- `SCRUB_LINE`, held while the tower's clocks are stopped (R600, R602). -/
def execScrubLine (t : TowerId) (s : State) : Res :=
  gate t (scrubLineOn t) s

end Sys2Proof.Machine
end

