-- ==== Sys2Proof/Machine/HostPort.lean ====
section
/-! DEFINITION. The host port (R479 to R492): HDM decoders, CXL.mem requests and back-invalidate snoops at the home (R291,
R295 to R299), CXL.cache writes, viral, and the resets of its partition. -/

namespace Sys2Proof.Machine

open Sys2Proof

def State.modHost (s : State) (f : HostPort → HostPort) : State := { s with host := f s.host }

/-- HBM bytes of a tower (R484). -/
def State.hbmSize (s : State) : Nat := s.t0.stackN * 48 * 2 ^ 30

/-- The device address of a device physical address of the HDM space (R484). -/
def State.dpaDev (s : State) (d : Nat) : Nat :=
  let h := s.hbmSize
  let w := 576 * 2 ^ 22
  if d < h then d
  else if d < 2 * h then hbmBase .t1 + (d - h)
  else if d < 2 * h + w then pinBase .t0 + (d - 2 * h)
  else pinBase .t1 + (d - 2 * h - w)

/-- The device address of a host physical address under the committed decoders (R484). -/
def State.hdm (s : State) (a : Nat) : Option Nat :=
  let inDec := fun (d : Option (Nat × Nat)) => match d with
    | some (b, n) => if b ≤ a ∧ a < b + n then some (a - b) else none
    | none => none
  match inDec s.host.dec0 with
  | some d => some (s.dpaDev d)
  | none => (inDec s.host.dec1).map fun d => s.dpaDev (2 * s.hbmSize + d)

/-- The tower whose memory window an address lies in. -/
def devTower (a : Nat) : TowerId :=
  if a < hbmBase .t1 then .t0 else if a < pinBase .t0 then .t1 else if a < pinBase .t1 then .t0 else .t1

/-- A commit of an HDM decoder (R484): another interleave setting, a size beyond its limit or no multiple of 256 MiB fails with Error Not
Committed. -/
def execHdmDecoderCommit (i : Fin 2) (base size ways : Nat) (s : State) : Res :=
  let limit := if i = 0 then 2 * s.hbmSize else 4608 * 2 ^ 20
  let others := s.host.decErr.filter fun k => decide (k ≠ i.val)
  if ways ≠ 1 ∨ limit < size ∨ size % 2 ^ 28 ≠ 0 then .next (s.modHost fun h => { h with decErr := others ++ [i.val] })
  else .next (s.modHost fun h =>
    let h := { h with decErr := others }
    if i = 0 then { h with dec0 := some (base, size) } else { h with dec1 := some (base, size) })

/-- A refused request is counted (R482, R483, R485, R527). -/
def State.refuse (s : State) : State := s.modTw .t0 fun x => x.fadd Fld.cpHostStat_REFUSED 1

/-- A host request to a watched line that is not pending signals the command processor (R297). -/
def watchSignal (t : TowerId) (line : Nat) (s : State) : State :=
  if (s.tw t).mem.watch.any fun w => decide (w.line = line) && !w.pending then
    (s.modMem t fun m => { m with watch := m.watch.map fun w => if w.line = line then { w with pending := true } else w }).modTw t
      fun x => { x with cp := { x.cp with sigs := x.cp.sigs ++ [line] } }
  else s

/-- Sets the host state of a line that has a directory entry, or of a pinned line. -/
def setHost (t : TowerId) (tg : Target) (line : Nat) (h : HostSt) (s : State) : State :=
  s.modMem t fun m =>
    match sfind m.dir line with
    | some e => { m with dir := sset m.dir line { e with h := h } }
    | none => if tg.isHbm || decide (h = .hi) then m else { m with dir := sset m.dir line { DirLine.init with h := h } }

def metaSt : MetaValue → HostSt
  | .any => .ha
  | .shared => .hs
  | .invalid => .hi

/-- Decodes the sectors of a host read (R376, R384, R488): none when the host receives poison. -/
def hostDecode (t : TowerId) (tg : Target) (secs : List Nat) (s : State) : State × Option Nat :=
  (secs.zipIdx).foldl (fun (acc : State × Option Nat) p =>
    match acc.2 with
    | none => acc
    | some v =>
      let r := (acc.1.tw t).mem.now p.1
      let c := eccDecode r.1.1 r.1.2
      let b := (acc.1.tw t).bucketOf tg r.2 p.1
      match c.1 with
      | .clean => (acc.1, some (v + c.2.toNat <<< (256 * p.2)))
      | .correctable => (acc.1.correctable t p.1 b, some (v + c.2.toNat <<< (256 * p.2)))
      | .dead => (acc.1, none)
      | .uncorrectable => (acc.1.uncorrectable t p.1 b .noReset, none)) (s, some 0)

/-- The host port as an agent for one half of a line (R353, R485). -/
def hostAgent (half : Nat) : Agent := ⟨.t0, 28, half⟩

/-- A host request has reached the home of its line: its host state is recorded and a watch signalled (R291, R297). -/
def hostReached (t : TowerId) (tg : Target) (line : Nat) (mv : MetaValue) (watch : Bool) (s : State) : State :=
  let s := setHost t tg line (metaSt mv) (touch s t line 1)
  if watch then watchSignal t line s else s

/-- Makes the sectors of a host read available (R291, R353): with MetaValue Shared or Any a line of HBM is allocated and filled, with
Invalid what the LLC lacks is read from HBM without allocation. -/
def hostSectors (t : TowerId) (tg : Target) (line half : Nat) (mv : MetaValue) (s : State) : Ready :=
  let a := hostAgent half
  let dl := s.deadline a none
  let mask := 3 * 4 ^ half
  if (s.tw t).mem.lostOf a line ≠ 0 then .ok s
  else if tg.isHbm && decide (mv ≠ .invalid) then needLine s t tg a line mask dl
  else match prepRead s t (some a) line mask with
    | .wait s => .wait s
    | .ok s =>
      let e := sget DirLine.init (s.tw t).mem.dir line
      let missing := maskOfSecs ((secsOfMask mask).filter fun k => !e.valid.testBit k)
      if !tg.isHbm || decide (missing = 0) then .ok s
      else
        let r := s.directRead t a 578 line missing dl
        if r.2 then .ok r.1 else .wait r.1

/-- A host read of a 64-byte half line (R291, R297, R483, R485, R488, R489). A line retired, dead or uncorrectable gives poison; its
host state and its watch are handled all the same. -/
def hostMemrdOn (hpa : Nat) (mv : MetaValue) (s : State) : Res :=
  match s.hdm (hpa / 64 * 64) with
  | none => .next s
  | some a =>
    let poison := fun (s : State) => s.send (.memData hpa 0 true)
    let t := devTower a
    let line := a / 128
    let half := a / 64 % 2
    let tg := s.target a
    let watch := decide (mv = .any)
    let reached := hostReached t tg line mv watch
    if !s.host.up then .next s
    else if !(s.tw t).serving then .next (poison s.refuse)
    else if s.host.viral then .next (poison s)
    else if tg.home?.isNone then .next (poison s)
    else if (s.tw t).mem.retired.contains line then .next (poison (reached s))
    else
      let e := sget DirLine.init (s.tw t).mem.dir line
      if e.locked || (s.tw t).mem.engHeld line then .next s
      else match (if e.v && watch then sendVisInv s t line else .ok s) with
      | .wait s => .next s
      | .ok s => match hostSectors t tg line half mv s with
        | .wait s => .next s
        | .ok s =>
          let secs := [line * 4 + 2 * half, line * 4 + 2 * half + 1]
          let lost := (s.tw t).mem.lostOf (hostAgent half) line
          let s := s.modMem t fun m => m.directUsed (hostAgent half) line
          if lost ≠ 0 then
            let sec := line * 4 + (lowFrom 4 0 lost).getD 0
            .next (poison (reached (s.uncorrectable t sec ((s.tw t).bucketOf tg false sec) (.parity none))))
          else if (s.tw t).mem.retired.contains line then .next (poison (reached s))
          else
            let r := hostDecode t tg secs s
            match r.2 with
            | none => .next (poison (reached r.1))
            | some v => .next ((reached r.1).send (.memData hpa v false))

/-- One sector of a host write (R137, R291, R374, R485): whole, merged with the decoded old data, a dead sector into zero, or the dead
marker when it carries poison. -/
def hostSector (t : TowerId) (tg : Target) (sec : Nat) (d : Sector) (mask : BitVec 32) (poison : Bool) (s : State) : State :=
  let put := fun (s : State) (v : Sector) (c : R32) => s.modMem t fun m =>
    match sfind m.dir (sec / 4), tg.isHbm with
    | some e, true =>
      { m with dir := sset m.dir (sec / 4) { e.setSec (sec % 4) v c with dirty := e.dirty ||| 2 ^ (sec % 4) } }
    | _, _ => m.store sec v c
  if mask = 0 ∨ (s.tw t).mem.retired.contains (sec / 4) then s
  else if poison then put s 0 deadChk
  else if mask = BitVec.allOnes 32 then put s d (eccEncode d)
  else
    let r := (s.tw t).mem.now sec
    let c := eccDecode r.1.1 r.1.2
    let b := (s.tw t).bucketOf tg r.2 sec
    if c.1 = .uncorrectable then s.uncorrectable t sec b .noReset
    else
      let s := if c.1 = .correctable then s.correctable t sec b else s
      let old := if c.1 = .dead then 0 else c.2.toNat
      let v : Sector := BitVec.ofNat 256 (mergeBytes 32 old d.toNat mask.toNat)
      put s v (eccEncode v)

/-- A half line of host data under a byte mask. -/
def hostHalf (t : TowerId) (tg : Target) (line half : Nat) (d : BitVec 512) (mask : BitVec 64) (poison : Bool) (s : State) :
    State :=
  (List.range 2).foldl (fun s k => hostSector t tg (line * 4 + 2 * half + k) (BitVec.ofNat 256 (d.toNat >>> (256 * k)))
    (BitVec.ofNat 32 (mask.toNat >>> (32 * k))) poison s) s

/-- The sectors of a line that a half line's byte mask touches. -/
def halfSecs (half : Nat) (mask : BitVec 64) : Nat :=
  maskOfSecs (((List.range 2).filter fun k => decide (BitVec.ofNat 32 (mask.toNat >>> (32 * k)) ≠ 0)).map fun k => 2 * half + k)

/-- A host write to an HBM line that the LLC lacks (R291, R353): its sectors are written into HBM, and a host state that the directory
must hold gives the line an entry without data (log entry 66). It waits for room in either. -/
def hostAbsent (t : TowerId) (line half : Nat) (mv : MetaValue) (mask : BitVec 64) (s : State) : State × Bool :=
  let a := hostAgent half
  let secs := halfSecs half mask
  match (if mv = .invalid then Ready.ok s else makeRoom s t line (a.charged t)) with
  | .wait s => (s, false)
  | .ok s1 =>
    match (if secs = 0 then some (s1.tw t) else (s1.tw t).hbmSend 578
        ⟨a.charged t, line, secs, true, false, s.deadline a none, false, 0, none⟩) with
    | some x => (s1.setTw t x, true)
    | none => (s, false)

/-- A host write of a 64-byte half line (R291, R297, R388, R483, R485, R489). -/
def hostMemwrOn (hpa : Nat) (mv : MetaValue) (data : BitVec 512) (mask : BitVec 64) (poison : Bool) (s : State) : Res :=
  match s.hdm (hpa / 64 * 64) with
  | none => .next s
  | some a =>
    let t := devTower a
    let line := a / 128
    let half := a / 64 % 2
    let tg := s.target a
    let reached := hostReached t tg line mv true
    let lost := fun (s : State) => reached (s.modTw t fun x => x.eccLog 2 (x.bucketOf tg false (line * 4)) (a / 32))
    if !s.host.up then .next s
    else if !(s.tw t).serving || tg.home?.isNone then .next s.refuse
    else if s.host.viral then .next s
    else if (s.tw t).mem.retired.contains line then .next (lost s)
    else
      let e := sget DirLine.init (s.tw t).mem.dir line
      if e.locked || (s.tw t).mem.engHeld line then .next s
      else match (if e.v then sendVisInv s t line else .ok s) with
      | .wait s => .next s
      | .ok s =>
        let s := flushSecs s t fun k => decide (k / 2 = line * 2 + half)
        if (s.tw t).mem.retired.contains line then .next (lost s)
        else
          let absent := tg.isHbm && (sfind (s.tw t).mem.dir line).isNone
          let r := if absent then hostAbsent t line half mv mask s else (s, true)
          if !r.2 then .next r.1
          else
            let s := hostHalf t tg line half data mask poison r.1
            let s := if absent && decide (mv ≠ .invalid) && !(s.tw t).mem.retired.contains line then
              s.modMem t fun m => { m with dir := sset m.dir line { DirLine.init with h := metaSt mv } } else s
            .next (reached (s.poisoned poison))

/-- A snoop ends: the line is unlocked, its host state set, and the system acknowledgements that waited are sent (R140,
R291). -/
def endSnoop (t : TowerId) (q : Snoop) (h : HostSt) (s : State) : State :=
  let s := s.modMem t fun m =>
    let rest := m.snoops.erase q
    { m with
      snoops := rest
      dir := match sfind m.dir q.line with
        | some e => sset m.dir q.line { e with h := h, biWait := rest.any fun r => decide (r.line = q.line) }
        | none => m.dir }
  q.acks.foldl (fun s a =>
    s.modTw a.1 fun x => x.modBrick a.2.1 fun b =>
      if b.outst.any fun o => decide (o.wid = a.2.2) && o.own then { b with ackQ := b.ackQ ++ [a.2.2] }
      else { b with ackIn := b.ackIn ++ [(a.2.2, .system)] }) s

/-- The host answers a snoop, with the halves of the line it held modified (R291, R388). -/
def bisnpResponseOn (t : TowerId) (line : Nat) (shared : Bool) (lo hi : Option (BitVec 512)) (s : State) : Res :=
  match (s.tw t).mem.snoops.find? fun q => decide (q.line = line) with
  | none => .next s
  | some q =>
    let tg := s.target (line * 128)
    let put := fun (s : State) (k : Nat) (d : Option (BitVec 512)) => match d with
      | some v => if q.discard then s else hostHalf t tg line k v (BitVec.allOnes 64) false s
      | none => s
    .next (endSnoop t q (if shared && !q.inv then .hs else .hi) (put (put s 0 lo) 1 hi))

/-- The host port enters viral (R489, R490, R492). -/
def State.goViral (s : State) : State :=
  if s.host.viral then s
  else (s.modHost fun h => { h with viral := true }).modTw .t0 fun x => (x.fset Fld.cpHostStat_VIRAL 1).raise 16

/-- The host does not answer a snoop in time (R486): its copy is treated as absent, and the port enters viral. -/
def bisnpTimeoutOn (t : TowerId) (line : Nat) (s : State) : Res :=
  match (s.tw t).mem.snoops.find? fun q => decide (q.line = line) with
  | none => .next s
  | some q =>
    let s := (endSnoop t q .hi s).modTw .t0 fun x => (x.fadd Fld.cpHostStat_BI_TIMEOUTS 1).raise 16
    .next ((s.modHost fun h => { h with internalErr := true }).goViral)

/-- The host signals viral (R489). -/
def execHostViralSignal (s : State) : Res := if s.host.up then .next s.goViral else .next s

/-- An IDE integrity failure (R489 to R491): only what IDE protects can fail so, and until the host enables IDE the traffic is in the
clear. -/
def execIdeIntegrityFailure (s : State) : Res :=
  if s.host.up && s.host.ideOn then .next ((s.modHost fun h => { h with ideErr := true }).goViral) else .next s

/-- An internal error of the partition (R489). -/
def execHostPortInternalError (s : State) : Res := .next ((s.modHost fun h => { h with internalErr := true }).goViral)

/-- A brick's write is globally observed, or needs no GO any more (R140, R487). -/
def HostWr.done (w : HostWr) (s : State) : State :=
  let ack := fun (t : TowerId) (sl wid : Nat) => s.modTw t fun x => x.modBrick sl fun b =>
    { b with ackIn := b.ackIn ++ [(wid, AckLvl.system)] }
  match w with
  | .store t sl wid => ack t sl wid
  | .evict t sl wid _ _ => ack t sl wid
  | .dm _ _ => s
  | .cpl _ _ => s
  | .trace _ => s

/-- The GO message of the i-th outstanding CXL.cache write arrives (R487). -/
def execCxlGo (i : Nat) (s : State) : Res :=
  match s.host.gos[i]? with
  | none => .next s
  | some w => .next (w.done (s.modHost fun h => { h with gos := ldel h.gos i }))

/-- A host snoop of a host line (R487): a line an atomic has just left modified is answered with its data, and the
DirtyEvict ends; otherwise the agent holds no copy. -/
def execCxlSnoop (addr : Nat) (s : State) : Res :=
  if s.hostDown then .next s
  else
    let hit := s.host.gos.findIdx? fun w => match w with
      | .evict _ _ _ a _ => decide (a / 128 = addr / 128)
      | _ => false
    match hit with
    | none => .next (s.send (.snoopRsp addr none))
    | some i => match s.host.gos[i]? with
      | some (.evict t sl wid a d) =>
        .next ((HostWr.evict t sl wid a d).done
          ((s.modHost fun h => { h with gos := ldel h.gos i }).send (.snoopRsp addr (some d))))
      | _ => .next s

/-- The host-port partition is reset (R18, R489, R526, R527): its registers and decoders take their reset values, viral
ends, writes on CXL.cache are lost and complete for R145, and the link is down. -/
def State.resetHost (s : State) : State :=
  let s := s.host.gos.foldl (fun s w => w.done s) s
  (s.modHost fun h => { HostPort.init with perst := h.perst, railBad := h.railBad }).modTw .t0 fun x =>
    { x with regs := x.regs.filter fun p => match regAt p.1 with
        | some (.cpHostCfg, _, _) => false
        | some (.cpHostStat, _, _) => false
        | _ => true }

/-- A CXL link reset (R18). -/
def execCxlLinkReset (s : State) : Res := .next s.resetHost

/-- `PERST_n` (R699): low holds the partition in reset. -/
def execPerstN (low : Bool) (s : State) : Res :=
  if low then .next ((s.modHost fun h => { h with perst := true }).resetHost)
  else .next (s.modHost fun h => { h with perst := false })

/-- The host link trains at a width and rate (R527, R699), while nothing holds the partition in reset. -/
def execHostLinkTrained (width rate : BitVec 2) (s : State) : Res :=
  if s.host.perst || s.host.railBad || decide (width = 0) || decide (rate = 0) then .next s
  else .next ((s.modHost fun h => { h with up := true }).modTw .t0 fun x =>
    (x.fset Fld.cpHostStat_WIDTH width.toNat).fset Fld.cpHostStat_RATE rate.toNat)

/-! The commands, with the stop of the clocks and the engine records. -/

/-- Host traffic to the tower of an address is held during its global stop (R602). -/
def State.hostHeld (s : State) (hpa : Nat) : Bool := match s.hdm (hpa / 64 * 64) with
  | some a => (s.tw (devTower a)).gstopped
  | none => false

/-- `BISNP_RESPONSE`, held while the tower's clocks are stopped (R600, R602). -/
def execBisnpResponse (t : TowerId) (line : Nat) (shared : Bool) (lo hi : Option (BitVec 512)) (s : State) : Res :=
  if (s.tw t).gstopped then .next s else bisnpResponseOn t line shared lo hi s

/-- `BISNP_TIMEOUT`, held while the tower's clocks are stopped (R600, R602). -/
def execBisnpTimeout (t : TowerId) (line : Nat) (s : State) : Res :=
  if (s.tw t).gstopped then .next s else bisnpTimeoutOn t line s

/-- `HOST_MEMRD`, held while the tower's clocks are stopped (R600, R602). -/
def execHostMemrd (hpa : Nat) (mv : MetaValue) (s : State) : Res :=
  if s.hostHeld hpa then .next s else hostMemrdOn hpa mv s

/-- `HOST_MEMWR`, held while the tower's clocks are stopped (R600, R602). -/
def execHostMemwr (hpa : Nat) (mv : MetaValue) (data : BitVec 512) (mask : BitVec 64) (poison : Bool) (s : State) : Res :=
  if s.hostHeld hpa then .next s else hostMemwrOn hpa mv data mask poison s

end Sys2Proof.Machine
end

