-- ==== Sys2Proof/Machine/Hbm.lean ====
section
/-! DEFINITION. Grants of the channel controllers (R345, R357 to R360), refresh, throttling (R361) and the writes of their registers
(R365, R366). -/

namespace Sys2Proof.Machine

open Sys2Proof

/-- The settings of every master that a round starts with (R357, R360). -/
def Chan.load (c : Chan) (guar weight : Nat → Nat) : Chan :=
  let g := (List.range 32).map fun m => (m, guar m)
  { c with gc := g, guar := g, weight := (List.range 32).map fun m => (m, weight m), got := [] }

/-- The start of a round: the settings of `HBM_MASTER` are loaded (R357, R360). -/
def Tower.loadRound (x : Tower) (c : Chan) : Chan := c.load (fun m => x.fget Fld.hbmMaster_GUAR m) fun m => x.fget Fld.hbmMaster_WEIGHT m

/-- The first round, which starts at the reset with the Reset column of `HBM_MASTER` (R352, R360). -/
def Chan.started (c : Chan) : Chan :=
  if c.gc.isEmpty then c.load (fun m => bits (hbmMasterReset m) 23 16) fun m => bits (hbmMasterReset m) 7 0 else c

/-- The choice of a channel controller among candidate requests, by index in the queue, and the channel's credits
after it (R358). `rows` are the requests that hit an open row. -/
def chooseGrant (x : Tower) (c : Chan) (cands rows : List Nat) : Option (Nat × Chan) :=
  let req := fun i => c.q[i]?
  -- older first
  let cands := (List.range c.q.length).filter fun i => cands.contains i
  let ms := uniqN (cands.filterMap fun i => (req i).map HbmReq.master)
  let waiting := uniqN (c.q.map HbmReq.master)
  let within := fun m =>
    let mine := cands.filter fun i => decide ((req i).map HbmReq.master = some m)
    (mine.find? fun i => rows.contains i).orElse fun _ => mine.head?
  let key := fun i => match req i with
    | some r => (if r.past then 0 else 1 + ((r.deadline.map x.slack).getD 0)) * 32 + r.master
    | none => 0
  let urg := leastBy key (cands.filter fun i => match req i with
    | some r => x.urgent r.deadline r.past
    | none => false)
  let rest := 256 - c.pos
  let owed := fun m => (waiting.filter fun k => k ≠ m).foldl (fun a k => a + sget 0 c.gc k) 0
  let step1 := urg.bind fun i => (req i).bind fun r => if owed r.master < rest then some i else none
  match step1 with
  | some i => some (i, c)
  | none =>
    match leastBy (fun m => (256 - sget 0 c.gc m) * 32 + m) (ms.filter fun m => decide (0 < sget 0 c.gc m)) with
    | some m => (within m).map fun i => (i, c)
    | none =>
      let wm := ms.filter fun m => decide (0 < sget 0 c.weight m)
      if wm.isEmpty then
        let order := (List.range 32).map fun k => (c.rot + k) % 32
        match order.find? fun m => ms.contains m with
        | some m => (within m).map fun i => (i, { c with rot := (m + 1) % 32 })
        | none => none
      else
        let sum := wm.foldl (fun a m => a + sget 0 c.weight m) 0
        let credit := wm.foldl (fun cr m => sset cr m (sget 0 cr m + ((sget 0 c.weight m : Nat) : Int))) c.credit
        match leastBy (fun m => (2 ^ 20 - sget 0 credit m).toNat * 32 + m) wm with
        | some m => (within m).map fun i => (i, { c with credit := sset credit m (sget 0 credit m - (sum : Int)) })
        | none => none
where
  uniqN : List Nat → List Nat
    | [] => []
    | a :: r => a :: (uniqN r).filter fun b => b ≠ a

/-- Marks as past every queued request whose slack says so (R354). -/
def Tower.markPast (x : Tower) (c : Chan) : Chan :=
  { c with q := c.q.map fun r => { r with past := r.past || match r.deadline with
      | some d => decide (32768 ≤ x.slack d)
      | none => false } }

/-- Ends a round when its sectors are used up: the counts of the round are shown, the next round starts (R357, R369). -/
def Tower.endRound (x : Tower) (k : Nat) (c : Chan) : Tower × Chan :=
  if c.pos < 256 then (x, c)
  else
    let x := (List.range 32).foldl (fun (x : Tower) m =>
      (x.fset Fld.hbmChGrant_LAST (sget 0 c.got m) k m).fset Fld.hbmChGrant_OVER
        (if sget 0 c.guar m < sget 0 c.got m then 1 else 0) k m) x
    (x, x.loadRound { c with pos := c.pos - 256 })

/-- The sectors of a read reach their fill register (R283), or are lost after four parity errors (R345). -/
def fillData (m : MemSys) (r : HbmReq) (bad : Bool) : MemSys :=
  { m with fills := m.fills.map fun f =>
      if f.line ≠ r.line then f
      else
        let ks := (List.range 4).filter fun k => r.mask.testBit k
        let f := ks.foldl (fun f k =>
          let d := m.stored (r.line * 4 + k)
          { f with data := lineSetSector f.data k d.1, chk := BitVec.ofNat 128 (putBits f.chk.toNat (32 * k + 31) (32 * k) d.2.toNat) }) f
        { f with got := f.got ||| r.mask, bad := if bad then f.bad ||| r.mask else f.bad } }

/-- A channel controller grants a request: `cands` are the queued requests whose pseudo-channel, bank and timing allow a
burst to start, `rows` those that hit an open row, and `perr` says that the command meets a parity error (R345, R357 to
R359). -/
def hbmGrantOn (t : TowerId) (k : Fin 96) (cands rows : List Nat) (perr : Bool) (s : State) : Res :=
  let x := s.tw t
  let c0 := sget Chan.init x.mem.chans k.val
  let c := x.markPast c0.started
  -- requests of one master to one line are granted in order (R359)
  let ok := cands.filter fun i => match c.q[i]? with
    | some r => (c.q.take i).all fun o => !(decide (o.master = r.master) && decide (o.line = r.line))
    | none => false
  match chooseGrant x c ok rows with
  | none => .next s
  | some (i, c) =>
    match c.q[i]? with
    | none => .next s
    | some r =>
      let put := fun (s : State) (c : Chan) => s.modMem t fun m => { m with chans := sset m.chans k.val c }
      if perr ∧ r.parity < 3 then
        .next (put s { c with q := lmod c.q i fun r => { r with parity := r.parity + 1 } })
      else
        let n := popN 4 r.mask
        let s := if r.past then s.modTw t fun x => x.fadd Fld.hbmChStat_DL_MISS 1 k.val else s
        let c := { c with
          q := ldel c.q i, pos := c.pos + n
          gc := sset c.gc r.master (sget 0 c.gc r.master - n)
          got := sset c.got r.master (sget 0 c.got r.master + n) }
        let e := (s.tw t).endRound k.val c
        let s := put (s.setTw t e.1) e.2
        let s := if r.fill then s.modMem t fun m => fillData m r perr else match r.who with
          | some a => s.modMem t fun m => { m with
              direct := m.direct ++ [(a, r.line, r.mask)], lost := if perr then m.lost ++ [(a, r.line, r.mask)] else m.lost }
          | none => s
        if perr ∧ r.write = true then
          .next ((secsOfMask r.mask).foldl (fun s k => s.uncorrectable t (r.line * 4 + k) ((s.tw t).place r.line).1 (.parity none)) s)
        else .next s

/-- The throttle levels at the end of a step period (R361). -/
def hbmThrottleUpdateOn (t : TowerId) (s : State) : Res :=
  let x := s.tw t
  if x.fget Fld.hbmReg_THR_EN = 0 then .next s
  else
    let qlen := fun k => (sget Chan.init x.mem.chans k).q.length
    let one := fun (y : Tower) (st : Nat) =>
      let chs := (List.range 16).map fun h => 16 * st + h
      let hot := chs.filter fun k => decide (x.fget Fld.hbmReg_HWM ≤ qlen k)
      if hot.isEmpty then
        if chs.all fun k => decide (qlen k < x.fget Fld.hbmReg_LWM) then
          (List.range 32).foldl (fun (y : Tower) m => y.setLevel st m (min 16 (y.fget Fld.hbmTl_LEVEL st m + 1))) y
        else y
      else (List.range 32).foldl (fun (y : Tower) m =>
        if hot.any fun k => decide (x.fget Fld.hbmChGrant_OVER k m = 1) then
          y.setLevel st m (max 1 (y.fget Fld.hbmTl_LEVEL st m - 1))
        else y) y
    .next (s.setTw t ((List.range x.stackN).foldl one x))

/-- A controller refreshes a bank of its channel (R347): no visible state but the order of later grants; the model keeps
which refresh came last. A command with a fourth parity error is reported as R345 says. -/
def execHbmRefresh (t : TowerId) (k : Fin 96) (s : State) : Res :=
  .next (s.modMem t fun m => { m with chans := smod Chan.init m.chans k.val fun c => { c with refresh := (c.refresh + 1) % 64 } })

/-- A write of `HBM_REG` (R365): bad fields leave all fields unchanged and set ERR; bit 63 acts under W1C. -/
def execHbmRegWrite (t : TowerId) (v : Word) (s : State) : Res :=
  let n := v.toNat
  let x := s.tw t
  let x := if n.testBit 63 then x.clearBits .hbmReg 0 (2 ^ 63) else x
  let hwm := bits n 39 32
  let lwm := bits n 31 24
  let step := bits n 23 16
  let hor := bits n 15 8
  if hwm = 0 ∨ 128 < hwm ∨ hwm ≤ lwm ∨ step = 0 ∨ hor = 0 ∨ 250 < hor then
    .next (s.setTw t (x.setFlag Fld.hbmReg_ERR))
  else
    let x := x.setReg .hbmReg 0 0 (x.fget Fld.hbmReg_ERR * 2 ^ 63 + hwm * 2 ^ 32 + lwm * 2 ^ 24 + step * 2 ^ 16 + hor * 2 ^ 8 + n % 2)
    let x := if n % 2 = 0 then
      (List.range 6).foldl (fun (x : Tower) st => (List.range 32).foldl (fun (x : Tower) m => x.setLevel st m 16) x) x else x
    .next (s.setTw t x)

/-- A write of `HBM_MASTER[m]` (R366): ignored with ERR when the guarantees would exceed 256 or DL_DEFAULT is out of
range. -/
def execHbmMasterWrite (t : TowerId) (m : Fin 32) (v : Word) (s : State) : Res :=
  let x := s.tw t
  let n := v.toNat
  let rt := decide (x.fget Fld.hbmMaster_RT m.val = 1)
  let dl := bits n 47 32
  let sum := (List.range 32).foldl (fun a k => a + if k = m.val then bits n 23 16 else x.fget Fld.hbmMaster_GUAR k) 0
  if 256 < sum ∨ (rt ∧ (dl = 0 ∨ 32767 < dl)) then .next (s.setTw t (x.setFlag Fld.hbmReg_ERR))
  else
    let x := (x.fset Fld.hbmMaster_GUAR (bits n 23 16) m.val).fset Fld.hbmMaster_WEIGHT (bits n 7 0) m.val
    .next (s.setTw t (if rt then x.fset Fld.hbmMaster_DL_DEFAULT dl m.val else x))

/-! The commands, with the stop of the clocks and the engine records. -/

/-- `HBM_GRANT`, held while the tower's clocks are stopped (R600, R602). -/
def execHbmGrant (t : TowerId) (k : Fin 96) (cands rows : List Nat) (perr : Bool) (s : State) : Res :=
  gate t (marking (fun s1 => decide ((sget Chan.init (s1.tw t).mem.chans k.val).q.length ≠ (sget Chan.init (s.tw t).mem.chans k.val).q.length)) (fun s1 => s1.advEng t (608 + k.val)) (hbmGrantOn t k cands rows perr)) s

/-- `HBM_THROTTLE_UPDATE`, held while the tower's clocks are stopped (R600, R602). -/
def execHbmThrottleUpdate (t : TowerId) (s : State) : Res :=
  gate t (hbmThrottleUpdateOn t) s

end Sys2Proof.Machine
end

