-- ==== Sys2Proof/Machine/Llc.lean ====
section
/-! DEFINITION. The home slice (R280 to R305): reads, fills and their installation, device writes, merge-entry timeouts,
visitor invalidations, atomics, reductions, dead lines, watches and the seed of the slice generators. -/

namespace Sys2Proof.Machine

open Sys2Proof

/-- Returns sectors to a brick's read. -/
def deliver (s : State) (t : TowerId) (slice rid : Nat) (port : Bool) (rets : List Ret) : State :=
  s.modTw t fun x => x.modBrick slice fun b => { b with upQ := b.upQ ++ [⟨rid, port, rets⟩] }

/-- A brick's read of a device line: a visitor copy in the brick's tower (R292), the hinge and the retired list (R17, R388), else the
home. A normal or keep hint of a brick's load leaves a visitor copy; an engine's read does not. -/
def brickRead (s : State) (br : BrickRef) (port : Bool) (r : RdMsg) : HomeR :=
  let tg := s.targetB (r.line * 128)
  match tg.home? with
  | none => .served s (errRets r.line r.sectors .unavailable)
  | some h =>
    let hit : Option (List Ret) := if !s.visHit br.t h r.line (maskOfSecs r.sectors) then none else
      (sfind (s.tw br.t).mem.vis r.line).map fun v => r.sectors.map fun k => ⟨r.line * 4 + k, (v.sec k).1, (v.sec k).2, true, true, none⟩
    match hit with
    | some rets => .served (touch s br.t r.line (hintCls r.hint)) rets
    | none =>
      match accessErr s br.t h r.line with
      | some .retired => .served s (errRets r.line r.sectors .retired)
      | some _ => .served (s.unavail br.t) (errRets r.line r.sectors .unavailable)
      | none => homeRead s h tg (.brick br.t br.s.val r.rid port r.sectors []) r.line r.sectors (hintCls r.hint)
          ((brickAgent br 0).charged h) none
          (decide (h ≠ br.t) && tg.isHbm && !r.eng && (decide (r.hint = 0) || decide (r.hint = 2)))

/-- No earlier request of the brick for the same line is still on its way (R262, R268): numbers rise in the order in which they are
made. -/
def Brick.firstOf (b : Brick) (id line : Nat) : Bool :=
  !((b.sendRd ++ b.downQ ++ b.mortarRd).any fun r => decide (r.line = line) && decide (r.rid < id)) &&
  !((b.sendWr ++ b.writeQ ++ b.mortarWr).any fun w => decide (w.line = line) && decide (w.ord < id)) &&
  !(b.atomQ.any fun a => decide (a.addr / 128 = line) && decide (a.id < id))

/-- The same for a write or an atomic, before which an atomic that the L1 has accepted writes through in its place (R254). -/
def Brick.firstWr (b : Brick) (id line : Nat) : Bool :=
  b.firstOf id line &&
  !(b.inflight.any fun p => p.2.kind.isAtomic && decide (p.2.acc < id) && p.2.l1Secs.any fun c => decide (c / 4 = line))

/-- A read leaves a queue of the brick and is served, or held by a fill register. -/
def performRead (br : BrickRef) (port : Bool) (r : RdMsg) (take : Brick → Brick) (s : State) : State :=
  match brickRead s br port r with
  | .wait s => s
  | .served s rets => deliver (s.modBrick br take) br.t br.s.val r.rid port rets
  | .filling s => s.modBrick br take

/-- The slice performs a read of the down queue (R260 to R262, R264). -/
def vportReadPerformOn (b : BrickRef) (i : Nat) (s : State) : Res :=
  match (s.brick b).downQ[i]? with
  | none => .next s
  | some r =>
    if (s.brick b).firstOf r.rid r.line then
      .next (performRead b true r (fun k => { k with downQ := k.downQ.filter fun m => decide (m.rid ≠ r.rid) }.pump) s)
    else .next s

/-- A device read of a brick reaches its home over the base-die network or the hinge (R291). -/
def llcDeviceReadOn (b : BrickRef) (i : Nat) (s : State) : Res :=
  match (s.brick b).mortarRd[i]? with
  | none => .next s
  | some r =>
    if (s.brick b).firstOf r.rid r.line && decide (s.targetB (r.line * 128) ≠ .host) then
      .next (performRead b false r (fun k => { k with mortarRd := k.mortarRd.filter fun m => decide (m.rid ≠ r.rid) }) s)
    else .next s

/-- A fault of a group found when the response to its operation `op` returns (R133): reported against the group, or without it when it
has retired since. Operations issued after it complete normally. -/
def faultGid (br : BrickRef) (launch gid op code lane : Nat) (pc : R32) (info : Nat) (s : State) : State :=
  let b := s.brick br
  match b.groups.find? fun p => decide (p.2.gid = gid) with
  | some (k, g) =>
    if g.fault.isSome then s
    else stopGroup ⟨br, ⟨k / 16 % 4, Nat.mod_lt _ (by decide)⟩, ⟨k % 16, Nat.mod_lt _ (by decide)⟩⟩ g op code lane pc info s
  | none => s.modTw br.t fun t =>
    { t with faultIn := t.faultIn ++ [⟨launch, br.s.val, gid, code, lane, pc, info⟩] }

/-- The fault code of a failed response (R133). -/
def RetErr.code : RetErr → Nat
  | .cspRange => 0x12
  | .unavailable => 0x15
  | .poison => 0x16
  | .retired => 0x17
  | .dead => 0x18
  | .uncorrectable => 0

/-- A store that failed at its home: nothing is written, its group faults, and it is no longer outstanding. A line of an engine's drain
fails for that engine. -/
def storeFails (br : BrickRef) (wid : Nat) (e : RetErr) (s : State) : State :=
  match (s.brick br).outst.find? fun o => decide (o.wid = wid) with
  | none => s
  | some o =>
    let s := s.modBrick br fun b => { b with outst := b.outst.filter fun x => decide (x.wid ≠ wid) }
    match o.eng with
    | some who => if who = wordUnit then s else s.modBrick br fun b => { b with engErr := b.engErr ++ [(who, e.code)] }
    | none => faultGid br o.launch o.gid o.op e.code o.lane o.pc o.addr s

/-- A brick's write at its home (R286, R287, R291): it waits for the directory, fails, or is performed and acknowledged;
a shared host copy holds the system acknowledgement back. -/
def performWrite (br : BrickRef) (port : Bool) (w : WrMsg) (take : Brick → Brick) (s : State) : State :=
  let tg := s.targetB (w.line * 128)
  match tg.home? with
  | none => storeFails br w.wid .unavailable (s.modBrick br take)
  | some h =>
    match accessErr s br.t h w.line with
    | some .retired => storeFails br w.wid .retired (s.modBrick br take)
    | some _ => storeFails br w.wid .unavailable ((s.unavail br.t).modBrick br take)
    | none =>
      match homeWrite s h tg none w.line w.data w.mask (hintCls w.hint) ((brickAgent br 0).charged h) [(br.t, br.s.val, w.wid)] with
      | (.wait s, _) => s
      | (.ok s, late) =>
        (s.modBrick br take).modBrick br fun b =>
          if port then if late then b else { b with ackQ := b.ackQ ++ [w.wid] }
          else { b with ackIn := b.ackIn ++ [(w.wid, .tower), (w.wid, .device)] ++ (if late then [] else [(w.wid, .system)]) }

/-- The slice performs a line of the write queue (R261 to R263). -/
def vportWritePerformOn (b : BrickRef) (i : Nat) (s : State) : Res :=
  match (s.brick b).writeQ[i]? with
  | none => .next s
  | some w =>
    if (s.brick b).firstWr w.ord w.line then
      .next (performWrite b true w (fun k => { k with writeQ := k.writeQ.filter fun m => decide (m.wid ≠ w.wid) }.pump) s)
    else .next s

/-- A write with at least one whole sector. -/
def WrMsg.hasWhole (w : WrMsg) : Bool := wholeMask w.mask

def deviceWrite (whole : Bool) (b : BrickRef) (i : Nat) (s : State) : Res :=
  match (s.brick b).mortarWr[i]? with
  | none => .next s
  | some w =>
    if (s.brick b).firstWr w.ord w.line && decide (w.hasWhole = whole) then
      .next (performWrite b false w (fun k => { k with mortarWr := k.mortarWr.filter fun m => decide (m.wid ≠ w.wid) }) s)
    else .next s

/-- A device write with whole sectors reaches its home (R286, R291). -/
def llcDeviceWriteOn (b : BrickRef) (i : Nat) (s : State) : Res := deviceWrite true b i s

/-- A write narrower than a sector reaches its home and enters the merge buffer (R287). -/
def llcNarrowWriteOn (b : BrickRef) (i : Nat) (s : State) : Res := deviceWrite false b i s

/-- 256 MEM cycles have passed since a merge entry opened (R288). -/
def mergeEntryTimeoutOn (t : TowerId) (i : Nat) (s : State) : Res :=
  match (s.tw t).mem.merge[i]? with
  | none => .next s
  | some e => .next (flushEnt s t e)

/-- A fill whose reads have all arrived is installed, delivered to every requester, and a visitor copy is made (R284, R285,
R291, R292). -/
def llcFillInstallOn (t : TowerId) (line : Nat) (s : State) : Res :=
  match (s.tw t).mem.fills.find? fun f => decide (f.line = line) with
  | none => .next s
  | some f =>
    if f.got ≠ f.want then .next s
    else
      let m := (s.tw t).mem
      let good := secsOfMask f.got |>.filter fun k => !f.bad.testBit k
      let sec := fun k => (lineSector f.data k, BitVec.ofNat 32 (f.chk.toNat >>> (32 * k)))
      let e0 := match sfind m.dir line with
        | some e => e
        | none => { DirLine.init with cls := f.cls }
      let e := good.foldl (fun (e : DirLine) k => if e.valid.testBit k then e else e.setSec k (sec k).1 (sec k).2) e0
      -- a sector that the line held when the requester came is the written one (R285)
      let ret := fun (held : List Nat) (k : Nat) =>
        if held.contains k || !f.got.testBit k then (⟨line * 4 + k, (e.sec k).1, (e.sec k).2, true, false, none⟩ : Ret)
        else if f.bad.testBit k then ⟨line * 4 + k, 0, 0, false, false, some .uncorrectable⟩
        else ⟨line * 4 + k, (sec k).1, (sec k).2, false, false, none⟩
      let s := s.modMem t fun m =>
        { m with dir := if e.valid = 0 ∧ e.held = none then sdel m.dir line else sset m.dir line e
                 fills := m.fills.filter fun g => decide (g.line ≠ line) }
      let s := f.reqs.foldl (fun s r => match r with
        | .brick bt sl rid port secs held => deliver s bt sl rid port (secs.map (ret held))
        | .agent a => if f.bad = 0 then s else s.modMem t fun m => { m with lost := m.lost ++ [(a, line, f.bad)] }) s
      .next (if f.visitor then installVisitor s t line (secsOfMask e.valid) f.cls else s)

/-- A tower receives an invalidation of a visitor copy and acknowledges it (R291, R293). -/
def visitorInvalidationReceiptOn (t : TowerId) (i : Nat) (s : State) : Res :=
  match (s.tw t).mem.visIn[i]? with
  | some (.inv line) =>
    .next ((s.modMem t fun m => { m with vis := sdel m.vis line, visIn := ldel m.visIn i }).modMem t.other fun m =>
      { m with visIn := m.visIn ++ [.ack line] })
  | _ => .next s

/-- The home takes the acknowledgement: V clears and the line no longer waits (R291). -/
def visitorInvalidationAckOn (t : TowerId) (i : Nat) (s : State) : Res :=
  match (s.tw t).mem.visIn[i]? with
  | some (.ack line) =>
    .next (s.modMem t fun m =>
      { m with
        visIn := ldel m.visIn i
        dir := match sfind m.dir line with
          | some e => sset m.dir line { e with v := false, visWait := false }
          | none => m.dir })
  | _ => .next s

/-- What an atomic ends with: it waits, fails, or returns the old values. -/
inductive AtomR where
  | wait (s : State)
  | fail (s : State) (e : RetErr)
  | done (s : State) (olds : List (Nat × Nat)) (sysWait : Bool)

/-- Holds a line for an agent, or ends the hold (R282, R290). -/
def holdLine (s : State) (h : TowerId) (line : Nat) (a : Option Agent) : State :=
  s.modMem h fun m => { m with dir := match sfind m.dir line with
    | some e => sset m.dir line { e with held := a }
    | none => m.dir }

/-- An atomic of a brick as an agent (R290). -/
def AtomMsg.agent (a : AtomMsg) (br : BrickRef) : Agent := brickAgent br (16 + a.id)

/-- The atomic unit of the home slice (R146, R148, R290, R291): the line is held from the arrival of the atomic until it is done. -/
def homeAtomic (s : State) (br : BrickRef) (a : AtomMsg) (h : TowerId) (tg : Target) : AtomR :=
  let line := a.addr / 128
  let sec := a.addr / 32
  let me := a.agent br
  let rest := fun (s : State) => holdLine s h line (some me)
  match accessErr s br.t h line with
  | some .retired => .fail s .retired
  | some _ => .fail (s.unavail br.t) .unavailable
  | none =>
    let sysSnoop := a.system && match sfind (s.tw h).mem.dir line with
      | some e => decide (e.h = .hs) && !e.lockedFor (some me)
      | none => false
    if sysSnoop then .wait (rest (sendSnoop s h line true false []))
    else match prepWrite s h (some me) line with
    | .wait s => .wait s
    | .ok s =>
      if decide ((s.tw h).mem.lostOf me line ≠ 0) then .wait (engTake s me line (2 ^ (sec % 4))).1
      else match needLine s h tg me line (2 ^ (sec % 4)) none with
      | .wait s => .wait (rest s)
      | .ok s =>
        if (s.tw h).mem.retired.contains line then .fail s .retired
        else
        let d := decodeLine s h h tg line (2 ^ (sec % 4))
        match d.2 with
        | .error .dead => .fail (holdLine d.1 h line none) .dead
        | .error _ => .wait (holdLine d.1 h line none)
        | .ok l =>
          let lo := 8 * (a.addr % 128)
          let old := bits l.toNat (lo + 8 * a.bytes - 1) lo
          let r := atomLanes a.aop a.unsig a.bytes old a.lanes
          let v := lineSector (BitVec.ofNat 1024 (putBits l.toNat (lo + 8 * a.bytes - 1) lo r.2)) (sec % 4)
          let s := holdLine (wholeWrite d.1 h tg line [(sec % 4, v, eccEncode v)] (hintCls a.hint)) h line none
          let w := afterWrite s h line [(br.t, br.s.val, a.id)]
          .done w.1 r.1 w.2

/-- The host-port agent's atomic on a host line it holds exclusively (R132, R146). -/
def hostAtomic (s : State) (br : BrickRef) (a : AtomMsg) (d : Line) (poison : Bool) : AtomR :=
  if poison || s.hostDown then .fail (s.poisoned poison) .poison
  else
    let lo := 8 * (a.addr % 128)
    let r := atomLanes a.aop a.unsig a.bytes (bits d.toNat (lo + 8 * a.bytes - 1) lo) a.lanes
    let l := putBits d.toNat (lo + 8 * a.bytes - 1) lo r.2
    .done (s.hostWrite (.cxlWrite (a.addr / 128 * 128 - 2 ^ 47) l (2 ^ 128 - 1))
      (.evict br.t br.s.val a.id (a.addr / 128 * 128 - 2 ^ 47) l)) r.1 true

/-- Applies a function to a memory operation of the brick, wherever it stands. -/
def Brick.opMod (op : Option Nat) (k : Brick) (f : MemOp → MemOp) : Brick :=
  match op with
  | none => k
  | some o => match sfind k.inflight o with
    | some x => { k with inflight := sset k.inflight o (f x) }
    | none => { k with l1in := k.l1in.map fun p => if p.2.id = o then (p.1, f p.2) else p }

/-- The host-port agent reads a host line in exclusive state for the brick's next atomic on it (R132). -/
def hostOwn (br : BrickRef) (line : Nat) (s : State) : State :=
  if s.targetB (line * 128) = .host && !s.hostDown && (s.brick br).atomQ.any fun a => decide (a.addr / 128 = line) then
    s.send (.cxlRead (line * 128 - 2 ^ 47) 128)
  else s

/-- An atomic executes at its home slice, or at the host-port agent on the line that the host returned (R132, R146, R291). -/
def llcAtomicOn (b : BrickRef) (i : Nat) (host : Line) (poison : Bool) (s : State) : Res :=
  match (s.brick b).atomQ[i]? with
  | none => .next s
  | some a =>
    if !(s.brick b).firstWr a.id (a.addr / 128) then .next s
    else
      let tg := s.targetB a.addr
      let r : AtomR := match tg.home? with
        | some h => homeAtomic s b a h tg
        | none => if tg = Target.host then hostAtomic s b a host poison else AtomR.fail s .unavailable
      let take := fun (k : Brick) => { k with atomQ := k.atomQ.filter fun m => decide (m.id ≠ a.id) }
      let gone := fun (s : State) => hostOwn b (a.addr / 128) s
      match r with
      | .wait s => .next s
      | .fail s e => match a.op with
        | some _ => .next (gone (s.modBrick b fun k => Brick.opMod a.op
            { take k with outst := k.outst.filter fun x => decide (x.wid ≠ a.id) } fun x =>
            { x with need := x.need.filter (fun p => decide (p.1 ≠ a.id))
                     err := x.err.orElse fun _ => some ((a.lanes.head?.map LaneAcc.lane).getD 0, e) }))
        | none => .next (gone (storeFails b a.id e (s.modBrick b take)))
      | .done s olds wait => .next (gone (s.modBrick b fun k =>
          let k := Brick.opMod a.op (take k) fun x =>
            { x with need := x.need.filter (fun p => decide (p.1 ≠ a.id))
                     olds := olds.foldl (fun m p => sset m p.1 p.2) x.olds }
          { k with ackIn := k.ackIn ++ [(a.id, .tower), (a.id, .device)] ++ (if wait then [] else [(a.id, .system)]) }))

/-- One element of a reduction (R301): the new bits of an element of a format, under RN or a draw. -/
def redElem (bf mx sr : Bool) (draw old val : Nat) : Nat :=
  let f := if bf then bf16 else fp32
  let o := fDecode f false old
  let v := fDecode fp32 false val
  let rm := if sr then 4 else 0
  if mx then (fEncode f rm false false draw (fvMinMax true o v).1).1
  else (fEncode f rm false false draw (fvAdd 0 o v).1).1

/-- The slice generator of R302, before and after its first draw. -/
def Tower.sliceSr (x : Tower) (sl : Nat) : R32 := match sfind x.mem.sr sl with
  | some v => v
  | none => srSeed (0x9E3779B9 ^^^ BitVec.ofNat 32 sl)

/-- The elements of a reduction computed over a line, ascending, with the draws taken (R301, R302). -/
def reduceLine (r : RedReq) (g : R32) (l : Line) : Line × R32 :=
  let w := if r.bf16 then 16 else 32
  let n := if r.bf16 then 64 else 32
  let z := ((List.range n).filter fun i => r.mask.testBit i).foldl (fun (a : Nat × R32) i =>
    let g' := if r.sr then srStep a.2 else a.2
    let e := redElem r.bf16 r.max r.sr g'.toNat (bits a.1 (w * i + w - 1) (w * i)) (r.vals.getD i 0).toNat
    (putBits a.1 (w * i + w - 1) (w * i) e, g')) (l.toNat, g)
  (BitVec.ofNat 1024 z.1, z.2)

/-- The end of a reduction at its home: it waits, or it is done with a result code, 0 for success. -/
inductive RedR where
  | wait (s : State)
  | done (s : State) (code : Nat)

/-- A reduction request at its home (R300 to R303), by the agent that sent it: a target that is not an HBM line is refused with
MX_TARGET; else the whole line is made valid, locked, reduced and written. -/
def reduceAt (s : State) (a : Agent) (t : TowerId) (r : RedReq) : RedR :=
  let tg := s.targetB (r.line * 128)
  if !tg.isHbm then .done s 0x20
  else match accessErr s a.t t r.line with
  | some e => .done (if e = .unavailable then s.unavail a.t else s) e.code
  | none =>
    match prepWrite s t (some a) r.line with
    | .wait s => .wait s
    | .ok s =>
      if decide ((s.tw t).mem.lostOf a r.line ≠ 0) then .wait (engTake s a r.line 15).1
      else match needLine s t tg a r.line 15 r.dl with
      | .wait s => .wait s
      | .ok s =>
        if (s.tw t).mem.retired.contains r.line then .done s (LineErr.code .retired)
        else
        let d := decodeLine s t t tg r.line 15
        match d.2 with
        | .error e => .done d.1 e.code
        | .ok l =>
          let sl := (d.1.tw t).homeSlice r.line
          let z := reduceLine r ((d.1.tw t).sliceSr sl) l
          let s := wholeWrite d.1 t tg r.line ((List.range 4).map fun k => (k, lineSector z.1 k, eccEncode (lineSector z.1 k))) 1
          let s := s.modMem t fun m =>
            { m with sr := if r.sr then sset m.sr sl z.2 else m.sr
                     dir := smod DirLine.init m.dir r.line fun e => { e with red := true } }
          .done (afterWrite s t r.line []).1 0

/-- The sender of a reduction request as an agent (R353). -/
def RedSrc.agent : RedSrc → Agent
  | .tile t sl _ => ⟨t, sl / 24, 15 * 576 + sl⟩

/-- A reduction request of a tile program reaches its home (R300 to R303). -/
def llcReductionOn (t : TowerId) (i : Nat) (s : State) : Res :=
  match (s.tw t).mem.redQ[i]? with
  | none => .next s
  | some r =>
    match reduceAt s r.src.agent t r with
    | .wait s => .next s
    | .done s e => .next (s.modMem t fun m =>
        { m with redQ := ldel m.redQ i, redErr := if e = 0 then m.redErr else m.redErr ++ [(r.src, e)] })

/-- The reduction lock of a line clears (R303). -/
def reductionLockClearOn (t : TowerId) (line : Nat) (s : State) : Res :=
  .next (s.modMem t fun m => match sfind m.dir line with
    | some e => { m with dir := sset m.dir line { e with red := false } }
    | none => m)

/-- The home drops a line declared dead (R135, R136, R304, R305): after its fill has delivered and its locks have cleared;
nothing happens to a line with a host copy. -/
def deadLineDropOn (t : TowerId) (i : Nat) (s : State) : Res :=
  match (s.tw t).mem.dead[i]? with
  | none => .next s
  | some d =>
    let x := s.tw t
    let done := fun (s : State) => s.modMem t fun m => { m with dead := ldel m.dead i }
    let e := sget DirLine.init x.mem.dir d.line
    if e.h ≠ .hi then .next (done s)
    else if (x.mem.fills.any fun f => decide (f.line = d.line)) || e.locked then .next s
    else
      let go := fun (s : State) =>
        let marked := if d.strict then (s.tw t).backWrite d.line 15 d.master else some (s.tw t)
        match marked with
        | none => s
        | some x =>
          let s := done (dropLine (s.setTw t x) t d.line)
          if d.strict then s.modMem t fun m => (List.range 4).foldl (fun m k => m.store (d.line * 4 + k) 0 deadChk) m else s
      if e.v then match sendVisInv s t d.line with
        | .wait s => .next s
        | .ok s => .next (go s)
      else .next (go s)

/-- A write of `LLC_WATCH_ADD` or `LLC_WATCH_DEL` starts a watch operation, unless one is in progress (R311). -/
def watchStart (t : TowerId) (add : Bool) (v : Word) (s : State) : Res :=
  let x := s.tw t
  if x.fget Fld.llcWatchRes_BUSY = 1 then .next s
  else
    let line := bits v.toNat 47 7
    .next (s.setTw t (((x.fset Fld.llcWatchRes_BUSY 1).fset Fld.llcWatchRes_LINE line).modMem fun m =>
      { m with watchOp := some ⟨add, line⟩ }))

/-- `LLC_WATCH_ADD` (R311). -/
def execLlcWatchAdd (t : TowerId) (v : Word) (s : State) : Res := watchStart t true v s
/-- `LLC_WATCH_DEL` (R311). -/
def execLlcWatchDel (t : TowerId) (v : Word) (s : State) : Res := watchStart t false v s

/-- The home slice whose watch table serves a line of the tower. -/
def State.watchSlice (s : State) (t : TowerId) (line : Nat) : Option Nat :=
  match s.target (line * 128) with
  | .hbm h => if h = t then some ((s.tw t).homeSlice line) else none
  | .pinned h sl => if h = t then some sl else none
  | _ => none

/-- Registers or removes a watched line at its home (R296): the result code of R312. -/
def watchDo (s : State) (t : TowerId) (add : Bool) (line : Nat) : State × Nat :=
  match s.watchSlice t line with
  | none => (s, 4)
  | some sl =>
    let m := (s.tw t).mem
    let has := m.watch.any fun w => decide (w.line = line)
    let used := (m.watch.filter fun w => decide (s.watchSlice t w.line = some sl)).length
    if add then
      if has then (s, 5) else if 4 ≤ used then (s, 3)
      else (s.modMem t fun m => { m with watch := m.watch ++ [⟨line, false⟩] }, 1)
    else if has then (s.modMem t fun m => { m with watch := m.watch.filter fun w => decide (w.line ≠ line) }, 2)
    else (s, 6)

/-- A watch operation ends with its result (R312). -/
def watchOperationResultOn (t : TowerId) (s : State) : Res :=
  match (s.tw t).mem.watchOp with
  | none => .next s
  | some o =>
    let r := watchDo s t o.add o.line
    .next (r.1.modTw t fun x => ((x.fset Fld.llcWatchRes_BUSY 0).fset Fld.llcWatchRes_RESULT r.2).modMem fun m =>
      { m with watchOp := none })

/-- A write of `LLC_SR_SEED` reseeds every slice generator of the tower (R302, R308). -/
def execLlcSrSeed (t : TowerId) (v : Word) (s : State) : Res :=
  let seed : R32 := v.setWidth 32
  .next (s.modTw t fun x => (x.setReg .llcSrSeed 0 0 seed.toNat).modMem fun m =>
    { m with sr := (List.range 576).map fun k => (k, srSeed (seed ^^^ BitVec.ofNat 32 k)) })

/-! The commands, with the stop of the clocks and the engine records. -/

/-- `DEAD_LINE_DROP`, held while the tower's clocks are stopped (R600, R602). -/
def execDeadLineDrop (t : TowerId) (i : Nat) (s : State) : Res :=
  gate t (deadLineDropOn t i) s

/-- `LLC_ATOMIC`, held while the tower's clocks are stopped (R600, R602). -/
def execLlcAtomic (b : BrickRef) (i : Nat) (host : Line) (poison : Bool) (s : State) : Res :=
  gate b.t (llcAtomicOn b i host poison) s

/-- `LLC_DEVICE_READ`, held while the tower's clocks are stopped (R600, R602). -/
def execLlcDeviceRead (b : BrickRef) (i : Nat) (s : State) : Res :=
  gate b.t (llcDeviceReadOn b i) s

/-- `LLC_DEVICE_WRITE`, held while the tower's clocks are stopped (R600, R602). -/
def execLlcDeviceWrite (b : BrickRef) (i : Nat) (s : State) : Res :=
  gate b.t (llcDeviceWriteOn b i) s

/-- `LLC_FILL_INSTALL`, held while the tower's clocks are stopped (R600, R602). -/
def execLlcFillInstall (t : TowerId) (line : Nat) (s : State) : Res :=
  gate t (llcFillInstallOn t line) s

/-- `LLC_NARROW_WRITE`, held while the tower's clocks are stopped (R600, R602). -/
def execLlcNarrowWrite (b : BrickRef) (i : Nat) (s : State) : Res :=
  gate b.t (llcNarrowWriteOn b i) s

/-- `LLC_REDUCTION`, held while the tower's clocks are stopped (R600, R602). -/
def execLlcReduction (t : TowerId) (i : Nat) (s : State) : Res :=
  gate t (llcReductionOn t i) s

/-- `MERGE_ENTRY_TIMEOUT`, held while the tower's clocks are stopped (R600, R602). -/
def execMergeEntryTimeout (t : TowerId) (i : Nat) (s : State) : Res :=
  gate t (mergeEntryTimeoutOn t i) s

/-- `REDUCTION_LOCK_CLEAR`, held while the tower's clocks are stopped (R600, R602). -/
def execReductionLockClear (t : TowerId) (line : Nat) (s : State) : Res :=
  gate t (reductionLockClearOn t line) s

/-- `VISITOR_INVALIDATION_ACK`, held while the tower's clocks are stopped (R600, R602). -/
def execVisitorInvalidationAck (t : TowerId) (i : Nat) (s : State) : Res :=
  gate t (visitorInvalidationAckOn t i) s

/-- `VISITOR_INVALIDATION_RECEIPT`, held while the tower's clocks are stopped (R600, R602). -/
def execVisitorInvalidationReceipt (t : TowerId) (i : Nat) (s : State) : Res :=
  gate t (visitorInvalidationReceiptOn t i) s

/-- `VPORT_READ_PERFORM`, held while the tower's clocks are stopped (R600, R602). -/
def execVportReadPerform (b : BrickRef) (i : Nat) (s : State) : Res :=
  gate b.t (marking (fun s1 => decide ((s1.brick b).downQ ≠ (s.brick b).downQ)) (fun s1 => s1.modBrick b fun x => x.adv 6) (vportReadPerformOn b i)) s

/-- `VPORT_WRITE_PERFORM`, held while the tower's clocks are stopped (R600, R602). -/
def execVportWritePerform (b : BrickRef) (i : Nat) (s : State) : Res :=
  gate b.t (marking (fun s1 => decide ((s1.brick b).writeQ ≠ (s.brick b).writeQ)) (fun s1 => s1.modBrick b fun x => x.adv 6) (vportWritePerformOn b i)) s

/-- `WATCH_OPERATION_RESULT`, held while the tower's clocks are stopped (R600, R602). -/
def execWatchOperationResult (t : TowerId) (s : State) : Res :=
  gate t (watchOperationResultOn t) s

end Sys2Proof.Machine
end

