-- ==== Sys2Proof/Machine/Port.lean ====
section
/-! DEFINITION. How the engines of a brick read and write memory (R255, R259 to R264): lines go over the vertical port or the mortar as
the brick's own do, wait for their returns and acknowledgements, and are handed over whole. -/

namespace Sys2Proof.Machine

open Sys2Proof

/-- The error of a line that an engine of a brick has read. -/
def RetErr.line : RetErr → LineErr
  | .unavailable => .unavailable
  | .poison => .poison
  | .retired => .retired
  | .dead => .dead
  | .uncorrectable => .uncorrectable
  | .cspRange => .hole

/-- All that an engine's line asked for has arrived. -/
def EngBuf.full (e : EngBuf) : Bool := e.sectors.all fun k => e.rets.any fun r => decide (r.sector = e.line * 4 + k)

/-- The line that an engine has read, or the error of its lowest failing sector. -/
def EngBuf.value (e : EngBuf) : Except LineErr Line :=
  e.sectors.foldl (fun (acc : Except LineErr Line) k => match acc, e.rets.find? fun r => decide (r.sector = e.line * 4 + k) with
    | .ok l, some r => (match r.err with
      | some x => .error x.line
      | none => .ok (lineSetSector l k r.data))
    | a, _ => a) (.ok 0)

/-- An entry that answers an engine for sectors of a line. -/
def EngBuf.covers (e : EngBuf) (who line : Nat) (secs : List Nat) : Bool :=
  decide (e.who = who) && decide (e.line = line) && secs.all fun k => e.sectors.contains k

/-- An engine asks for sectors of a line once, and then waits for them (R259, R260): `none` while it waits. -/
def portAsk (s : State) (br : BrickRef) (who line : Nat) (secs : List Nat) : State × Option (Except LineErr Line) :=
  if ((s.targetB (line * 128)).home?).isNone then (s, some (.error .hole))
  else match (s.brick br).ebuf.find? fun e => e.covers who line secs with
    | some e => (s, if e.full then some e.value else none)
    | none =>
      let rid := (s.brick br).nextId
      let s := s.modBrick br fun b => { b.take 1 with ebuf := b.ebuf ++ [⟨who, rid, line, secs, []⟩] }
      (sendRd br s ⟨rid, line, secs, 0, true⟩, none)

/-- Lines that an engine has read are given up, once it has used them or no longer needs them. -/
def Brick.portFree (b : Brick) (p : EngBuf → Bool) : Brick := { b with ebuf := b.ebuf.filter fun e => !p e }

/-- An engine of a brick reads consecutive bytes: only the sectors that hold some of them (R201, R260). What it has read stays until it
is given up. -/
def portRead (s : State) (br : BrickRef) (who addr n : Nat) : EngR :=
  let first := addr / 128
  let p := (List.range (lineCount addr n)).foldl (fun (acc : State × Option (Except LineErr Nat)) i =>
    let r := portAsk acc.1 br who (first + i) (secsOfMask (lineSecs addr n i))
    (r.1, match acc.2, r.2 with
      | some (.ok v), some (.ok l) => some (.ok (v + l.toNat <<< (1024 * i)))
      | some (.ok _), some (.error e) => some (.error e)
      | some (.error e), some _ => some (.error e)
      | _, _ => none)) (s, some (.ok 0))
  match p.2 with
  | none => .wait p.1
  | some r => .done p.1 (r.map fun v => (v >>> (8 * (addr % 128))) % 2 ^ (8 * n))

/-- An engine of a brick sends one written line (R259, R263): it awaits its acknowledgement. -/
def portSend (s : State) (br : BrickRef) (who gid line : Nat) (data : Line) (mask : BitVec 128) : State :=
  let own := s.ownLine br line
  s.modBrick br fun b =>
    let w : WrMsg := ⟨b.nextId, b.nextId, line, data, mask, 0⟩
    let o : Outst := ⟨b.nextId, 0, some who, gid, (b.run.map RunCtx.launch).getD 0, .none, false, own, 0, 0, line * 128⟩
    let b := { b.take 1 with outst := b.outst ++ [o] }
    if own then { b with sendWr := b.sendWr ++ [w] }.pump else { b with mortarWr := b.mortarWr ++ [w] }

/-- An engine of a brick writes the n low bytes of a value from an address; an address without a home is an error. -/
def portWrite (s : State) (br : BrickRef) (who gid addr n v : Nat) : State × Option LineErr :=
  let first := addr / 128
  let big := (v % 2 ^ (8 * n)) <<< (8 * (addr % 128))
  let msk := (2 ^ n - 1) <<< (addr % 128)
  let is := List.range (lineCount addr n)
  if is.any fun i => ((s.targetB ((first + i) * 128)).home?).isNone then (s, some .hole)
  else (is.foldl (fun s i =>
    portSend s br who gid (first + i) (BitVec.ofNat 1024 (big >>> (1024 * i))) (BitVec.ofNat 128 (msk >>> (128 * i)))) s, none)

/-- Every line that an engine has sent is performed at a scope (1 tower, 2 device), or has failed (R140, R178, R263). -/
def Brick.portDone (b : Brick) (who lvl : Nat) : Bool := b.outst.all fun o => decide (o.eng ≠ some who) || decide (lvl ≤ o.ack.rank)

/-- The failure of a line that an engine has sent, as a fault code. -/
def Brick.portErr (b : Brick) (who : Nat) : Option Nat := (b.engErr.find? fun p => decide (p.1 = who)).map Prod.snd

/-- An engine's failures are taken. -/
def Brick.portClear (b : Brick) (who : Nat) : Brick := { b with engErr := b.engErr.filter fun p => decide (p.1 ≠ who) }

end Sys2Proof.Machine
end

