-- ==== Sys2Proof/Machine/L1.lean ====
section
/-! DEFINITION. The L1 and the brick's side of memory (R246 to R269): acceptance of memory instructions, miss registers,
fills, responses, cluster accesses, acknowledgements and the instruction cache. -/

namespace Sys2Proof.Machine

open Sys2Proof

/-- Ways of the L1 of the running launch (R246, R247). -/
def Brick.ways (b : Brick) : Nat := match b.run with
  | some r => 8 - r.spUnits
  | none => 0

/-- A way for a line (R249): held already, free, or taken from one of the named victims that the bound allows. -/
def Brick.allocLine (b : Brick) (line : Nat) (victims : List Nat) : Option Brick :=
  if (sfind b.l1 line).isSome then some b
  else
    let set := (skeys b.l1).filter fun l => decide (l % 512 = line % 512)
    if set.length < b.ways then some b
    else
      let pend := fun l => let e := sget L1Line.init b.l1 l
        (List.range 4).any fun k => decide ((e.sec k).st = .p) || decide ((e.sec k).st = .ps)
      let cand := set.filter fun l => !pend l
      let plain := cand.filter fun l => !(sget L1Line.init b.l1 l).keep
      let pool := if plain.isEmpty then cand else plain
      let ok := pool.filter fun l => decide (pool.length < 2) || decide (sget 0 b.l1mru (line % 512) ≠ l + 1)
      (victims.find? fun v => ok.contains v).map fun v => { b with l1 := sdel b.l1 v }

/-- A hit or allocation of a line: most recent of its set, keep mark under the keep hint (R249). -/
def Brick.l1Touch (b : Brick) (line : Nat) (keep : Bool) : Brick :=
  { b with
    l1mru := sset b.l1mru (line % 512) (line + 1)
    l1 := match sfind b.l1 line with
      | some l => sset b.l1 line { l with keep := keep }
      | none => b.l1 }

/-- The hint that a read of an operation carries: an atomic obtains its sectors as a normal load does, and a prefetch under the dead hint
acts as normal (R134, R254). -/
def MemOp.readHint (o : MemOp) : Nat := if o.kind.isAtomic || (decide (o.kind = .prefetch) && decide (o.hint = 3)) then 0 else o.hint

/-- The lookup of one line of a load (R250 to R253): sectors in V are delivered; sectors of a read that no store has overtaken join it,
and are delivered at once when it has arrived; the others are requested by one further read of the line's register or by a new
register. A sector that an allocating load waits for is P, and its fill is installed. -/
def lookupLine (victims : List Nat) (alloc : Bool) (p : Option (Brick × MemOp × List RdMsg)) (line : Nat) :
    Option (Brick × MemOp × List RdMsg) :=
  p.bind fun (b, o, rds) =>
    let secs := o.l1Secs.filter fun c => decide (c / 4 = line)
    let keep := decide (o.readHint = 2)
    let live := fun (m : MReg) => decide (m.line = line) && decide (m.st ≠ .orphan)
    let st := fun c => (b.l1State c).st
    let hits := secs.filter fun c => decide (st c = .v)
    let rest := secs.filter fun c => decide (st c ≠ .v)
    let joined := fun c => (b.mregs.find? live).bind fun m => m.reads.find? fun r => decide (r.sector = c) && !r.stale
    let news := rest.filter fun c => (joined c).isNone
    let waits := rest.filter fun c => ((joined c).bind RdReq.ret).isNone
    let o := { o with
      got := o.got ++ (hits.map fun c => (⟨c, (b.l1State c).data, 0, false, false, none⟩ : Ret)) ++ rest.filterMap fun c => (joined c).bind RdReq.ret
      need := o.need ++ waits.filterMap fun c => (joined c).map fun r => (r.rid, c) }
    let b := { b with hits := satAdd 32 b.hits hits.length, misses := satAdd 32 b.misses news.length }
    let b := if hits.isEmpty then b else b.l1Touch line keep
    if rest.isEmpty then some (b, o, rds)
    else
      let claim := if alloc then waits.filter fun c => decide (st c = .i) else []
      (if claim.isEmpty then some b else b.allocLine line victims).map fun b =>
        let rid := b.nextId
        let reads := news.map fun c => (⟨rid, c, none, false, alloc || decide (st c = .ps)⟩ : RdReq)
        let claimed := fun (r : RdReq) => if claim.contains r.sector && r.ret.isNone && !r.stale then { r with install := true } else r
        let b := if news.isEmpty then b else b.take 1
        let b := if b.mregs.any live then
            { b with mregs := b.mregs.map fun m =>
                if live m then { m with reads := m.reads.map claimed ++ reads, waiters := m.waiters ++ [o.id] } else m }
          else { b with mregs := b.mregs ++ [⟨line, .opened, reads, [o.id]⟩] }
        let b := if claim.isEmpty then b else
          let l := claim.foldl (fun (l : L1Line) c => l.setSec (c % 4) ⟨.p, 0⟩) (sget L1Line.init b.l1 line)
          ({ b with l1 := sset b.l1 line l } : Brick).l1Touch line keep
        (b, { o with need := o.need ++ news.map fun c => (rid, c) },
          if news.isEmpty then rds else rds ++ [⟨rid, line, news.map fun c => c % 4, o.readHint, false⟩])

/-- A load that reads past the L1 (R134, R141): one read per line. -/
def bypassLine (p : Brick × MemOp × List RdMsg) (line : Nat) : Brick × MemOp × List RdMsg :=
  let secs := p.2.1.l1Secs.filter fun c => decide (c / 4 = line)
  let rid := p.1.nextId
  (p.1.take 1, { p.2.1 with need := p.2.1.need ++ secs.map fun c => (rid, c) },
    p.2.2 ++ [⟨rid, line, secs.map fun c => c % 4, p.2.1.hint, false⟩])

/-- The bytes that lanes store, by line: data and mask; the highest lane prevails (R130). -/
def lineWrites (n : Nat) (ls : List LaneAcc) : SMap (Nat × Nat) :=
  ls.foldl (fun m a =>
    smod (0, 0) m (a.addr / 128) fun p =>
      let o := a.addr % 128
      (putBits p.1 (8 * (o + n) - 1) (8 * o) a.data, p.2 ||| (2 ^ n - 1) <<< o)) []

/-- Writes bytes of a line through to its target: outstanding until system-acknowledged (R134, R140); read-only lines are
invalidated (R258). An atomic's write keeps the place of the atomic in the brick's order (R254). DESIGN CHOICE, unsafe: host memory has no
home slice, and R140 does not say when a store to it is tower- and device-acknowledged; here it is both when it leaves the L1 (log
entry 20). -/
def writeThrough (br : BrickRef) (o : MemOp) (lane : Nat) (s : State) (line : Nat) (d m : Nat) : State :=
  let own := s.ownLine br line
  let host := decide (s.targetB (line * 128) = .host)
  let s := s.modBrick br fun b =>
    let id := b.nextId
    let w : WrMsg := ⟨id, if o.kind.isAtomic then o.acc else id, line, BitVec.ofNat 1024 d, BitVec.ofNat 128 m, o.hint⟩
    let b : Brick := { (b.roInval line) with
      nextId := id + 1
      outst := b.outst ++ [⟨id, o.id, none, o.gid, o.launch, .none, false, own, lane, o.pc,
        ((o.lanes.find? fun a => decide (a.lane = lane)).map LaneAcc.addr).getD (line * 128)⟩] }
    if own then { b with sendWr := b.sendWr ++ [w] }.pump
    else if host then
      { b with ackIn := b.ackIn ++ [(id, .tower), (id, .device)] ++ (if s.hostDown then [(id, .system)] else []) }
    else { b with mortarWr := b.mortarWr ++ [w] }
  if host && !s.hostDown then
    s.hostWrite (.cxlWrite (line * 128 - 2 ^ 47) d m) (.store br.t br.s.val ((s.brick br).nextId - 1))
  else s

/-- Applies line writes to the L1 and sends them on. -/
def storeLines (br : BrickRef) (o : MemOp) (noL1 : Bool) (ws : SMap (Nat × Nat)) (s : State) : State :=
  ws.foldl (fun s p =>
    let s := s.modBrick br fun b => (List.range 4).foldl (fun (b : Brick) k =>
      let m := bits p.2.2 (32 * k + 31) (32 * k)
      if m = 0 then b else b.l1Store (p.1 * 4 + k) (BitVec.ofNat 256 (p.2.1 >>> (256 * k))) m noL1) b
    let lane := ((o.lanes.find? fun a => decide (a.addr / 128 = p.1)).map LaneAcc.lane).getD 0
    writeThrough br o lane s p.1 p.2.1 p.2.2) s

/-- What the host-port agent has in hand of a host line keeps the brick's order per byte (R132, R138): nothing is accepted for the line
while an atomic on it waits, and no store while a read of it does. -/
def hostHeld (s : State) (br : BrickRef) (store : Bool) (line : Nat) : Bool :=
  decide (s.targetB (line * 128) = .host) &&
    (((s.brick br).atomQ.any fun a => decide (a.addr / 128 = line)) || (store && (s.brick br).mortarRd.any fun r => decide (r.line = line)))

/-- The L1 accepts the memory instruction that waits at a scheduler's input: whole, when miss registers, waiter entries and ways suffice
(R248, R249), and while no L1 atomic is being applied to one of its sectors (R254). -/
def l1Try (br : BrickRef) (sched : Nat) (victims : List Nat) (s : State) : Option State :=
  let b := s.brick br
  (sfind b.l1in sched).bind fun o =>
    let secs := o.l1Secs
    let lines := uniq (secs.map fun c => c / 4)
    let b1 := { b with l1in := sdel b.l1in sched, l1last := sched }
    if (b.inflight.any fun p => p.2.kind.isAtomic && p.2.l1Secs.any fun c => secs.contains c) ||
        lines.any (hostHeld s br (decide (o.kind = .store))) then none
    else if o.kind = .store then some (storeLines br o (decide (o.hint = 4)) (lineWrites o.bytes o.lanes) (s.setBrick br b1))
    else if o.kind = .prefetch ∧ o.hint = 4 then some (s.setBrick br (secs.foldl (fun (b : Brick) c => b.l1Store c 0 0 true) b1))
    else
      let o1 := { o with acc := b1.nextId }
      let bypass := decide (o.kind = .load) && (decide (o.hint = 4) || (o.acquire && decide (2 ≤ o.scope)))
      let alloc := !(decide (o.kind = .load) && decide (o.hint = 1))
      let r : Option (Brick × MemOp × List RdMsg) := if bypass then some (lines.foldl bypassLine (b1.take 1, o1, []))
        else lines.foldl (lookupLine victims alloc) (some (b1.take 1, o1, []))
      r.bind fun (b2, o2, rds) =>
        if 64 < b2.mregs.length ∨ 256 < b2.mregs.foldl (fun (a : Nat) m => a + m.waiters.length) 0 then none
        else some (rds.foldl (sendRd br) (s.setBrick br { b2 with inflight := sset b2.inflight o.id o2 }))

/-- The L1 takes the instructions that schedulers offer in rotating order (R248): one that it cannot accept yet waits, and holds no other
scheduler's back. Which victims serve is open (R249), so a scheduler comes before this one when some choice of them would. -/
def l1InputAcceptOn (br : BrickRef) (sched : Fin 4) (victims : List Nat) (s : State) : Res :=
  let b := s.brick br
  if (List.range ((sched.val + 3 - b.l1last) % 4)).any fun i => (l1Try br ((b.l1last + 1 + i) % 4) (skeys b.l1) s).isSome then .next s
  else .next ((l1Try br sched.val victims s).getD s)

/-- A memory operation takes a sector that it waits for. -/
def MemOp.takes (rid : Nat) (r : Ret) (o : MemOp) : MemOp :=
  if o.need.contains (rid, r.sector) then
    { o with need := o.need.filter (fun x => decide (x ≠ (rid, r.sector))), got := o.got ++ [r] }
  else o

/-- A miss register after one of its reads has arrived (R253): OPEN becomes DRAIN when all have. -/
def MReg.arrived (m : MReg) (rid : Nat) (r : Ret) : MReg :=
  let reads := m.reads.map fun q => if q.rid = rid ∧ q.sector = r.sector then { q with ret := some r } else q
  { m with reads := reads, st := if m.st = .opened ∧ reads.all (fun q => q.ret.isSome) then .drain else m.st }

/-- Somebody in the brick waits for a read's sector. -/
def Brick.awaits (b : Brick) (rid sector : Nat) : Bool :=
  (b.mregs.any fun m => m.reads.any fun q => decide (q.rid = rid) && decide (q.sector = sector)) ||
  (b.ebuf.any fun e => decide (e.rid = rid)) ||
  (b.inflight.any fun p => p.2.need.contains (rid, sector)) || b.l1in.any fun p => p.2.need.contains (rid, sector)

/-- A decoded sector reaches those who wait for it, and is installed or not as the sector and register states say (R250 to R253). -/
def Brick.arrive (b : Brick) (rid : Nat) (r : Ret) : Brick :=
  let rr : Option (MRegState × RdReq) := (b.mregs.flatMap fun m =>
    (m.reads.filter fun q => decide (q.rid = rid) && decide (q.sector = r.sector)).map fun q => (m.st, q)).head?
  let later := b.mregs.any fun m => decide (m.st ≠ .orphan) &&
    m.reads.any fun q => decide (q.sector = r.sector) && q.install && q.ret.isNone && decide (q.rid ≠ rid)
  let b : Brick := match rr with
    | some (st, q) =>
      if st ≠ .orphan && !q.stale && q.install && r.err.isNone then b.l1Mod r.sector fun _ => ⟨.v, r.data⟩
      else if q.install then b.l1Mod r.sector fun x =>
        if x.st = .p ∨ x.st = .ps then (if later then ⟨.p, 0⟩ else ⟨.i, 0⟩) else x
      else b
    | none => b
  let op := fun (p : Nat × MemOp) => (p.1, p.2.takes rid r)
  { b with
    mregs := (b.mregs.map fun m => m.arrived rid r).filter fun m => !m.settled
    ebuf := b.ebuf.map fun e => if e.rid = rid then { e with rets := e.rets ++ [r] } else e
    inflight := b.inflight.map op
    l1in := b.l1in.map op }

/-- A sector arrives for a read: decoded and reported to the tower that supplied it (R261, R372, R377). An uncorrectable one is never
delivered (R384); the return of a read that a brick reset has ended is discarded (R265). -/
def arrive (br : BrickRef) (rid : Nat) (port : Bool) (s : State) (r : Ret) : State :=
  if !(s.brick br).awaits rid r.sector then s
  else
    let h := if r.vis then br.t else s.homeOr (r.sector / 4) br.t
    let bucket := (s.tw h).bucketOf (s.targetB (r.sector * 32)) (r.llc || r.vis) r.sector
    let c := if r.err.isSome then (EccClass.clean, r.data) else eccDecode r.data r.chk
    if r.err = some .uncorrectable then s.uncorrectable h r.sector bucket (.parity (some br.t))
    else if c.1 = .uncorrectable then s.uncorrectable h r.sector bucket (.consumer br.t)
    else
      let s := if c.1 = .correctable then s.correctable h r.sector bucket else s
      s.modBrick br fun b =>
        let b : Brick := if c.1 = .correctable ∧ port = true then { b with ceSect := satAdd 16 b.ceSect 1 } else b
        b.arrive rid { r with data := c.2, err := if c.1 = .dead then some .dead else r.err }

/-- Data arrives at the brick for a read (R250, R251, R261); or the host answers a read of host memory (R132). -/
def l1FillArrivalOn (br : BrickRef) (src : FillSrc) (s : State) : Res :=
  match src with
  | .up i =>
    match (s.brick br).upQ[i]? with
    | none => .next s
    | some u =>
      let s := s.modBrick br fun b => { b with upQ := ldel b.upQ i, portOut := b.portOut.filter fun r => decide (r ≠ u.rid) }.pump
      .next (u.rets.foldl (arrive br u.rid u.port) s)
  | .host i d poison =>
    match (s.brick br).mortarRd[i]? with
    | none => .next s
    | some r =>
      if s.targetB (r.line * 128) ≠ .host ∨ !(s.brick br).firstOf r.rid r.line then .next s
      else
        let s := s.modBrick br fun b => { b with mortarRd := ldel b.mortarRd i }
        let err : Option RetErr := if poison || s.hostDown then some .poison else none
        .next ((r.sectors.map fun k => (⟨r.line * 4 + k, lineSector d k, eccEncode (lineSector d k), false, false, err⟩ : Ret)).foldl
          (arrive br r.rid false) (s.poisoned poison))

/-- The error of an operation that is reported: the lowest code, at the lowest lane that has it (R82, R133). -/
def MemOp.firstErr (o : MemOp) : Option (Nat × Nat) :=
  let fs := o.lanes.filterMap fun a =>
    (o.got.find? fun r => decide (a.via ≠ .away) && decide (r.sector = a.addr / 32)).bind fun r => r.err.map fun e => (e.code, a.lane)
  let fs := match o.err with
    | some (l, e) => fs ++ [(e.code, l)]
    | none => fs
  leastBy (fun p => p.1 * 64 + p.2) fs

/-- The bytes of an address in the sectors an operation has received. -/
def MemOp.bytesAt (o : MemOp) (a : Nat) : Nat :=
  match o.got.find? fun r => decide (r.sector = a / 32) with
  | some r => bits r.data.toNat (8 * (a % 32 + o.bytes) - 1) (8 * (a % 32))
  | none => 0

/-- The value a lane receives. -/
def MemOp.laneVal (o : MemOp) (a : LaneAcc) : Nat :=
  let v := match sfind o.olds a.lane with
    | some x => x
    | none => o.bytesAt a.addr
  if o.sx then wrapN 32 (sext (8 * o.bytes) v) else v

/-- Performs the operations of an atomic in the L1 atomic unit (R148, R254): old values for the lanes, and the final value
of each address as one write. -/
def l1AtomDo (o : MemOp) : MemOp × List LaneAcc :=
  let mine := o.lanes.filter fun a => decide (a.via = .l1)
  (uniq (mine.map LaneAcc.addr)).foldl (fun p a =>
    let ls := mine.filter fun x => decide (x.addr = a)
    let r := atomLanes o.aop o.unsig o.bytes (o.bytesAt a) ls
    ({ p.1 with olds := r.1.foldl (fun m q => sset m q.1 q.2) p.1.olds },
     p.2 ++ [⟨0, a, r.2, 0, .l1⟩])) (o, [])

/-- Takes room in a read-only cache of `sets` sets and `ways` ways (R255): `none` when a victim is needed and none that the
bound of R249 allows is named. -/
def roRoom {α : Type} (c : SMap α) (sets ways mru key : Nat) (victims : List Nat) : Option (SMap α) :=
  if (sfind c key).isSome then some c
  else
    let set := (skeys c).filter fun k => decide (k % sets = key % sets)
    if set.length < ways then some c
    else (victims.find? fun v => set.contains v && (decide (set.length < 2) || decide (mru ≠ v + 1))).map (sdel c)

/-- Installs the constant lines that an operation has read whole (R256, R258). -/
def constInstall (o : MemOp) (victims : List Nat) (b : Brick) : Brick :=
  if !o.inst then b
  else
    (uniq ((o.lanes.filter fun a => decide (a.via = .const)).map fun a => a.addr / 128)).foldl (fun (b : Brick) line =>
      let r := fun k : Nat => o.got.find? fun r => decide (r.sector = line * 4 + k)
      if (List.range 4).all fun k => (r k).isSome then
        match roRoom b.ccache 32 4 (sget 0 b.romru (100 + line % 32)) line victims with
        | some c => { b with
            ccache := sset c line (lineOf fun k => ((r k).map Ret.data).getD 0)
            romru := sset b.romru (100 + line % 32) (line + 1) }
        | none => b
      else b) b

/-- A memory operation whose data has all returned completes (R133, R135, R141): a failed access faults its group; else
an L1 atomic is performed and written through, the lanes' registers are written, an acquire invalidates the caches, and a
dead load discards its lines. -/
def loadResponseOn (br : BrickRef) (op : Nat) (victims : List Nat) (s : State) : Res :=
  let b := s.brick br
  match sfind b.inflight op with
  | none => .next s
  | some o =>
    if !o.need.isEmpty then .next s
    else
      let b1 := { b with
        inflight := sdel b.inflight op
        mregs := (b.mregs.map fun m => { m with waiters := m.waiters.filter fun i => decide (i ≠ op) }).filter fun m => !m.settled }
      match o.firstErr with
      | some (c, l) => .next (faultGid br o.launch o.gid op c l o.pc
          (((o.lanes.find? fun a => decide (a.lane = l)).map LaneAcc.addr).getD 0) (s.setBrick br b1))
      | none =>
        let p := if o.kind.isAtomic then l1AtomDo o else (o, [])
        let ws := lineWrites o.bytes p.2
        let o := p.1
        let s := storeLines br o (decide (o.hint = 4)) ws (s.setBrick br b1)
        let n := if o.bytes ≤ 4 then 1 else if o.bytes = 8 then 2 else 4
        let wr := fun (g : Group) =>
          let g := if o.kind = .load ∨ o.kind = .atom then
            o.lanes.foldl (fun (g : Group) a => g.mapLanes (maskOf fun k => decide (k = a.lane)) fun _ th =>
              if th.exited then th else (List.range n).foldl (fun th j => wrG th (o.dst + j) (BitVec.ofNat 32 (o.laneVal a >>> (32 * j)))) th) g
            else g
          { g with
            pend := g.pend.filter fun q => !(decide (q.cls = .m) && decide (q.op = op))
            acq := if g.acq = some op then none else g.acq }
        let s := s.modBrick br fun b =>
          let b := { b with groups := b.groups.map fun q => if q.2.gid = o.gid then (q.1, wr q.2) else q }
          let b := constInstall o victims b
          if o.acquire && decide (2 ≤ o.scope) then b.invalidate else b
        let lines := uniq ((o.lanes.filter fun a => decide (a.via ≠ .away)).map fun a => a.addr / 128)
        if o.kind = .load ∧ o.hint = 3 then
          .next (lines.foldl (fun s line =>
            let s := s.modBrick br fun b => b.deadLine line
            match s.targetB (line * 128) with
            | .hbm h => s.modMem h fun m => { m with dead := m.dead ++
                [⟨line, o.strict, (brickAgent br 0).charged h⟩] }
            | _ => s) s)
        else .next s

/-- A cluster access is performed at the target brick (R266 to R269), in the order of the accesses to that brick: a retired
rank faults a load or atomic with CSP_RANGE and ignores a store. -/
def cspAccessAtTargetOn (br : BrickRef) (i : Nat) (s : State) : Res :=
  match (s.brick br).cspQ[i]? with
  | none => .next s
  | some m =>
    if ((s.brick br).cspQ.take i).any fun o => (o.dest.isSome && decide (o.dest = m.dest)) ||
        (decide (o.rank = m.rank) && decide (o.clusterId = m.clusterId) && decide (o.launch = m.launch))
    then .next s
    else
      let tgt := s.cspTarget br m.launch m.clusterId m.rank
      let s := s.modBrick br fun b => { b with cspQ := ldel b.cspQ i }
      match tgt with
      | none =>
        match m.op with
        | some _ => .next (s.modBrick br fun b => Brick.opMod m.op b fun x =>
            { x with need := x.need.filter (fun p => decide (p.1 ≠ m.id))
                     err := x.err.orElse fun _ => some ((m.lanes.head?.map LaneAcc.lane).getD 0, .cspRange) })
        | none => .next (storeFails br m.id .cspRange s)
      | some (sl, key) =>
        let t := (s.tw br.t).brick sl
        match sfind t.blocks key with
        | none => .next s
        | some blk =>
          let r := blk.access (br.t.nat * 576 + sl) m.kind m.bytes m.aop m.unsig (m.rank * 2 ^ 19) m.lanes
          let s := s.modTw br.t fun x => x.setBrick sl { t with blocks := sset t.blocks key r.2 }
          .next (s.modBrick br fun b => match m.op with
            | some _ => Brick.opMod m.op b fun x =>
                { x with need := x.need.filter (fun p => decide (p.1 ≠ m.id))
                         olds := r.1.foldl (fun o p => sset o p.1 p.2) x.olds }
            | none => { b with ackIn := b.ackIn ++ [(m.id, .tower)] })

def AckScope.lvl : AckScope → AckLvl
  | .tower => .tower
  | .device => .device
  | .system => .system

/-- An acknowledgement of a store or atomic returns to the brick (R140); a cluster store is done with its own. -/
def writeAcknowledgementOn (br : BrickRef) (wid : Nat) (lvl : AckScope) (s : State) : Res :=
  let b := s.brick br
  if !b.ackIn.contains (wid, AckScope.lvl lvl) then .next s
  else
    let done := decide (lvl = .system) || b.outst.any fun o => decide (o.wid = wid) && o.csp
    if done then
      .next (s.setBrick br { b with
        ackIn := b.ackIn.filter fun p => decide (p.1 ≠ wid)
        outst := b.outst.filter fun o => decide (o.wid ≠ wid) })
    else
      .next (s.setBrick br { b with
        ackIn := b.ackIn.filter fun p => decide (p ≠ (wid, AckScope.lvl lvl))
        outst := b.outst.map fun o =>
          if o.wid = wid ∧ o.ack.rank < (AckScope.lvl lvl).rank then { o with ack := AckScope.lvl lvl } else o })

/-- The acknowledgement of a line of the vertical port reaches the brick (R263). -/
def vportWriteAckOn (br : BrickRef) (i : Nat) (s : State) : Res :=
  let b := s.brick br
  match b.ackQ[i]? with
  | none => .next s
  | some wid => .next (s.setBrick br { b with ackQ := ldel b.ackQ i, outst := b.outst.filter fun o => decide (o.wid ≠ wid) }.pump)

/-- The line of the code window that a group's next instruction lacks (R255). -/
def Group.fetchLine (g : Group) (b : Brick) (size : Nat) : Option Nat :=
  (lowLane g.merged).bind fun l =>
    let pc := (g.thread l).pc.toNat
    if size < pc + 8 then none
    else if (sfind b.icache (pc / 128)).isNone then some (pc / 128)
    else if pc + 16 ≤ size ∧ (sfind b.icache ((pc + 8) / 128)).isNone then some ((pc + 8) / 128)
    else none

/-- A missing line of the code window reaches the instruction cache (R255): read over the vertical port or the mortar, or answered by the host; a
failed read faults the group that waits (log entry 15). -/
def instructionCacheFillOn (g : GroupRef) (victims : List Nat) (host : Line) (poison : Bool) (s : State) : Res :=
  let b := s.brick g.b
  match b.group? (gkey g), b.run with
  | some grp, some run =>
    match grp.fetchLine b run.codeSize with
    | none => .next s
    | some ln =>
      let dev := run.codeBase / 128 + ln
      match roRoom b.icache 64 4 (sget 0 b.romru (ln % 64)) ln victims with
      | none => .next s
      | some ic =>
        let put := fun (s : State) (d : Line) => s.modBrick g.b fun b =>
          { b with icache := sset ic ln d, romru := sset b.romru (ln % 64) (ln + 1) }
        let fetched := fun (b : Brick) => b.portFree fun e => decide (e.who = fetchUnit) && decide (e.line = dev)
        let bad := fun (s : State) (c : Nat) => match lowLane grp.merged with
          | some l => raiseFault g { grp with cur := grp.merged } c l (grp.thread l).pc (dev * 128) s
          | none => s
        if !(s.tw g.b.t).kwinOk (dev * 128) 128 then .next (bad s 0x13)
        else if s.targetB (dev * 128) = .host then
          if g.b.t ≠ .t0 ∧ !s.t0.serving then .next (bad s 0x15)
          else if poison || s.hostDown then .next (bad (s.poisoned poison) 0x16)
          else .next (put (s.send (.cxlRead (dev * 128 - 2 ^ 47) 128)) host)
        else match portRead s g.b fetchUnit (dev * 128) 128 with
          | .wait s => .next s
          | .done s (.ok d) => .next ((put s (BitVec.ofNat 1024 d)).modBrick g.b fetched)
          | .done s (.error e) => .next ((bad s e.code).modBrick g.b fetched)
  | _, _ => .next s

/-! The commands, with the stop of the clocks and the engine records. -/

/-- `CSP_ACCESS_AT_TARGET`, held while the tower's clocks are stopped (R600, R602). -/
def execCspAccessAtTarget (br : BrickRef) (i : Nat) (s : State) : Res :=
  gate br.t (cspAccessAtTargetOn br i) s

/-- `INSTRUCTION_CACHE_FILL`, held while the tower's clocks are stopped (R600, R602). -/
def execInstructionCacheFill (g : GroupRef) (victims : List Nat) (host : Line) (poison : Bool) (s : State) : Res :=
  gate g.b.t (instructionCacheFillOn g victims host poison) s

/-- `L1_FILL_ARRIVAL`, held while the tower's clocks are stopped (R600, R602). -/
def execL1FillArrival (br : BrickRef) (src : FillSrc) (s : State) : Res :=
  gate br.t (marking (fun s1 => decide ((s1.brick br).upQ ≠ (s.brick br).upQ) || decide ((s1.brick br).mortarRd ≠ (s.brick br).mortarRd)) (fun s1 => s1.modBrick br fun x => x.adv 7) (l1FillArrivalOn br src)) s

/-- `L1_INPUT_ACCEPT`, held while the tower's clocks are stopped (R600, R602). -/
def execL1InputAccept (br : BrickRef) (sched : Fin 4) (victims : List Nat) (s : State) : Res :=
  gate br.t (marking (fun s1 => decide ((s1.brick br).l1in.length ≠ (s.brick br).l1in.length)) (fun s1 => s1.modBrick br fun x => x.adv 7) (l1InputAcceptOn br sched victims)) s

/-- `LOAD_RESPONSE`, held while the tower's clocks are stopped (R600, R602). -/
def execLoadResponse (br : BrickRef) (op : Nat) (victims : List Nat) (s : State) : Res :=
  gate br.t (loadResponseOn br op victims) s

/-- `VPORT_WRITE_ACK`, held while the tower's clocks are stopped (R600, R602). -/
def execVportWriteAck (br : BrickRef) (i : Nat) (s : State) : Res :=
  gate br.t (vportWriteAckOn br i) s

/-- `WRITE_ACKNOWLEDGEMENT`, held while the tower's clocks are stopped (R600, R602). -/
def execWriteAcknowledgement (br : BrickRef) (wid : Nat) (lvl : AckScope) (s : State) : Res :=
  gate br.t (writeAcknowledgementOn br wid lvl) s

end Sys2Proof.Machine
end

