-- ==== Sys2Proof/Machine/Matrix.lean ====
section
/-! DEFINITION. The matrix array (R152 to R189): images, formats, accumulation, the queue and its units, request batching
and fragment multiply-accumulate, 0xC0 to 0xC5. -/

namespace Sys2Proof.Machine

open Sys2Proof

/-- N and M of a sparse form code (R123, R157); dense is 1:1. -/
def sparseN (c : Nat) : Nat := if c = 1 ∨ c = 3 then 2 else 1
def sparseM (c : Nat) : Nat := if c = 0 then 1 else if c ≤ 2 then 4 else 8
def sparseF (c : Nat) : Nat := sparseM c / sparseN c

/-- Bytes of a record of 64 × f elements (R163). -/
def mxRec (fmt f : Nat) : Nat := fmtWidth fmt * 8 * f

def up128 (n : Nat) : Nat := cdiv n 128 * 128

/-- Bytes of an image of records with its scale or index section (R163 to R165). -/
def imgBytes (fmt f rows sparse : Nat) : Nat :=
  let r := mxRec fmt f * rows
  if rows = 0 then 0
  else if isMx fmt then up128 r + 2 * rows
  else if sparse ≠ 0 then r + 2048
  else r

/-- The first issue fault of an image, in the order of R179: MISALIGNED, SP_RANGE, ADDR_HOLE, WINDOW, MX_TARGET. -/
def imgFault (s : State) (t : TowerId) (run : RunCtx) (blk : Block) (addr n : Nat) (write : Bool) : Option Nat :=
  if addr % 128 ≠ 0 then some 0x10
  else if isSp addr then
    if bits addr 62 32 ≠ 0 ∨ blk.spBytes < addr % 2 ^ 32 + n then some 0x11 else none
  else if n = 0 then none
  else
    let ts := (List.range (cdiv n 128)).map fun i => s.targetB (addr + 128 * i)
    if (ts.any fun k => decide (k = .hole)) || !(s.tw t).kwinOk addr n then some 0x13
    else if !run.winOk addr n write then some 0x14
    else if ts.any fun k => decide (k = .host) then some 0x20
    else none

/-- A read of an image by an engine: it waits, it fails with a code, or it is done. -/
inductive ImgR where
  | wait (s : State)
  | fail (s : State) (code : Nat)
  | done (s : State) (v : Nat)

/-- Bytes at an address with bit 63 set lie within a block's scratchpad (R171). -/
def Block.spOk (k : Block) (addr n : Nat) : Bool := decide (bits addr 62 32 = 0) && decide (addr % 2 ^ 32 + n ≤ k.spBytes)

/-- Reads bytes from scratchpad of a block (R171). -/
def spRead (s : State) (br : BrickRef) (block addr n : Nat) : ImgR := match sfind (s.brick br).blocks block with
  | some k => if k.spOk addr n then .done s (k.spRd (pbid br) (addr % 2 ^ 32) n) else .fail s 0x11
  | none => .fail s 0x11

/-- Reads bytes from scratchpad of a block, or from device memory past the L1 (R171). -/
def imgRead (s : State) (br : BrickRef) (who block addr n : Nat) : ImgR :=
  if isSp addr then spRead s br block addr n
  else if !(s.tw br.t).kwinOk addr n then .fail s 0x13
  else match portRead s br who addr n with
    | .wait s => .wait s
    | .done s (.ok v) => .done s v
    | .done s (.error e) => .fail s e.code

/-- Asks for every one of some ranges of bytes, and says whether all of them are there. -/
def imgAsk (s : State) (br : BrickRef) (who block : Nat) (rs : List (Nat × Nat)) : State × Bool :=
  rs.foldl (fun (a : State × Bool) r => match imgRead a.1 br who block r.1 r.2 with
    | .wait s => (s, false)
    | .fail s _ | .done s _ => (s, a.2)) (s, true)

/-- Reads several ranges of bytes, all or none: `none` while one must wait, else their values or the first failure. -/
def imgReads (s : State) (br : BrickRef) (who block : Nat) (rs : List (Nat × Nat)) : State × Option (Except Nat (List Nat)) :=
  match imgAsk s br who block rs with
  | (s, false) => (s, none)
  | (s, true) => (s, some (rs.foldl (fun (a : Except Nat (List Nat)) r => match a, imgRead s br who block r.1 r.2 with
    | .ok l, .done _ v => .ok (l ++ [v])
    | .ok _, .fail _ c => .error c
    | a, _ => a) (.ok [])))

/-- Writes bytes to scratchpad, or sends them to device memory with the covered L1 sectors of the brick invalidated (R171): the fault
code of a write that cannot be sent. -/
def imgWrite (s : State) (br : BrickRef) (who gid block addr n v : Nat) : State × Option Nat :=
  if isSp addr then
    match sfind (s.brick br).blocks block with
    | some k => if k.spOk addr n then
        (s.modBrick br fun b => { b with blocks := sset b.blocks block (k.spWr n (addr % 2 ^ 32) v) }, none) else (s, some 0x11)
    | none => (s, some 0x11)
  else if !(s.tw br.t).kwinOk addr n then (s, some 0x13)
  else match portWrite s br who gid addr n v with
    | (s, some e) => (s, some e.code)
    | (s, none) => (s.modBrick br fun b => (List.range ((addr + n - 1) / 32 - addr / 32 + 1)).foldl (fun (b : Brick) i =>
        b.l1Store (addr / 32 + i) 0 0 true) b, none)

/-- The earlier stores of a group that a matrix read waits for (R178): block scope for scratchpad, tower scope for the own
tower's memory, device scope for the other tower's. -/
def storesDone (s : State) (br : BrickRef) (gid addr : Nat) : Bool :=
  let b := s.brick br
  if isSp addr then true
  else
    let need := if (s.targetB addr).home? = some br.t then 1 else 2
    !(b.l1in.any fun p => decide (p.2.gid = gid) && decide (p.2.kind ≠ .load) && decide (p.2.kind ≠ .prefetch)) &&
    b.outst.all fun o => decide (o.gid ≠ gid) || o.eng.isSome || o.csp || decide (need ≤ o.ack.rank)

/-- The presented width of a brick (R167). -/
def State.width (s : State) (br : BrickRef) : Nat := (s.tw br.t).fget Fld.brkArray_WIDTH br.s.val

/-- Element k of a record of elements of a width. -/
def elemOf (w v k : Nat) : Nat := bits v (w * k + w - 1) (w * k)

/-- A weight tile from its records, scale and index bytes, for columns below the presented width (R163 to R168): none when
the index rule of R165 is broken. -/
def parseWeights (fmt sparse w recs scales idx : Nat) : Option WTile :=
  let r := mxRec fmt 1
  let ew := fmtWidth fmt
  let ws : SMap Nat := (List.range 64).flatMap fun k => (List.range w).map fun n =>
    (k * 64 + n, elemOf ew (recs >>> (8 * r * n)) k)
  let ix : SMap Nat := if sparse = 0 then [] else
    (List.range 64).flatMap fun k => (List.range w).map fun n => (k * 64 + n, bits (idx >>> (256 * n)) (4 * k + 3) (4 * k))
  let sc : SMap Nat := if isMx fmt then (List.range (2 * w)).map fun i => (i, bits scales (8 * i + 7) (8 * i)) else []
  let n := sparseN sparse
  let bad := decide (sparse ≠ 0) && ix.any fun p =>
    let k := p.1 / 64
    decide (sparseM sparse ≤ p.2) || (decide (k % n ≠ 0) && decide (p.2 ≤ sget 0 ix (p.1 - 64)))
  if bad then none else some ⟨true, fmt, sparse, ws, ix, sc⟩

/-- Reads the parts of a weight image that a brick of the presented width needs, and parses them (R168, R174). The error
is a fault code. -/
def loadWeights (s : State) (br : BrickRef) (who block addr fmt sparse : Nat) : State × Option (Except Nat WTile) :=
  let w := s.width br
  let r := mxRec fmt 1
  let rows := (addr, w * r)
  let scales := if isMx fmt then (addr + up128 (64 * r), 2 * w) else (addr, 0)
  let idx := if sparse = 0 then (addr, 0) else (addr + 64 * r, 32 * w)
  let z := imgReads s br who block [rows, scales, idx]
  (z.1, z.2.map fun v => v.bind fun l => match parseWeights fmt sparse w (l.getD 0 0) (l.getD 1 0) (l.getD 2 0) with
    | some t => .ok t
    | none => .error 0x22)

/-- The accumulation type of a pairing of weight and activation formats (R156): none when the pairing is not listed, else
whether it accumulates INT32. -/
def mxPair (wf af : Nat) : Option Bool :=
  if (wf = 1 ∧ af = 1) ∨ (wf = 2 ∧ af = 2) then some false
  else if (wf = 3 ∨ wf = 4) ∧ (af = 3 ∨ af = 4) then some false
  else if isMx wf && isMx af then some false
  else if wf = 0xA ∧ (af = 0xA ∨ af = 0xB) then some true
  else none

/-- A product group summed in one step (R158): exact products aligned to the largest exponent, truncated 28 bits below its
leading bit, summed exactly and rounded once to FP32. -/
def groupSum (ps : List FV) : R32 :=
  let nan := ps.any FV.isNan
  let infs := ps.filterMap fun p => match p with
    | .inf s => some s
    | _ => none
  let v : FV :=
    if nan then .nan false
    else match infs with
    | a :: r => if r.all fun b => decide (b = a) then .inf a else .nan false
    | [] =>
      let tops := ps.filterMap fun p => match p with
        | .fin _ m e => if m = 0 then none else some (e + (Nat.log2 m : Int))
        | _ => none
      match tops with
      | [] => .fin (!ps.isEmpty && ps.all FV.sign) 0 0
      | t :: r =>
        let q := r.foldl max t - 28
        let sum : Int := ps.foldl (fun a p => match p with
          | .fin sg m e =>
            let x := ((roundAt 1 sg m e q 0).1 : Int)
            if sg then a - x else a + x
          | _ => a) 0
        dyVal false sum q
  BitVec.ofNat 32 (fEncode fp32 0 false false 0 v).1

/-- An FP32 addition rounded to nearest, ties to even (R160). -/
def accAdd (a b : R32) : R32 :=
  BitVec.ofNat 32 (fEncode fp32 0 false false 0 (fvAdd 0 (fDecode fp32 false a.toNat) (fDecode fp32 false b.toNat)).1).1

/-- Products of one row with one column added to an accumulator entry: `n` cell rows in groups of 16 (R158 to R160). -/
def accumulate (int : Bool) (n : Nat) (acc : R32) (wt act : Nat → FV) (wi ai : Nat → Int) : R32 :=
  if int then
    BitVec.ofNat 32 (wrapN 32 ((List.range n).foldl (fun (a : Int) r => a + wi r * ai r) acc.toInt))
  else
    (List.range (n / 16)).foldl (fun a j =>
      accAdd a (groupSum ((List.range 16).map fun i => (fvMul (wt (16 * j + i)) (act (16 * j + i))).1))) acc

/-- An element of a format as an exact value, with its block's scale byte for MX codes. -/
def elemVal (fmt sc e : Nat) : FV :=
  if isMx fmt then mxElem fmt sc e
  else match fmtOf fmt with
    | some f => fDecode f false e
    | none => .fin false 0 0

def elemInt (fmt e : Nat) : Int := if fmt = 0xA then sext 8 e else ((e % 256 : Nat) : Int)

/-- The K position of the activation element that a cell row multiplies (R165). -/
def kPos (t : WTile) (r n : Nat) : Nat :=
  if t.sparse = 0 then r else sparseM t.sparse * (r / sparseN t.sparse) + sget 0 t.idx (r * 64 + n)

/-- One activation row accumulated into row i of a half (R152, R158 to R161, R168). -/
def rowInto (t : WTile) (w fmt : Nat) (int : Bool) (i rec sc : Nat) (h : Half) : Half :=
  let ew := fmtWidth fmt
  { h with acc := (List.range w).foldl (fun acc n =>
      let e := fun r => elemOf ew rec (kPos t r n)
      let wv := fun r => sget 0 t.w (r * 64 + n)
      let v := accumulate int 64 (sget 0 acc (i * 64 + n))
        (fun r => elemVal t.fmt (sget 0 t.sc (2 * n + r / 32)) (wv r))
        (fun r => elemVal fmt (bits sc (8 * (r / 32) + 7) (8 * (r / 32))) (e r))
        (fun r => elemInt t.fmt (wv r)) (fun r => elemInt fmt (e r))
      sset acc (i * 64 + n) v) h.acc }

/-- The active rows of an activation image, with their records and scale bytes as ranges of bytes (R163, R164, R175). -/
def rowRanges (addr fmt f rows mask : Nat) : List (Nat × (Nat × Nat) × Nat × Nat) :=
  let r := mxRec fmt f
  ((List.range rows).filter fun i => mask.testBit i).map fun i =>
    (i, (addr + i * r, r), if isMx fmt then (addr + up128 (rows * r) + 2 * i, 2) else (addr, 0))

/-- Streams the active rows of an image into rows of a half from `row0` on (R175): the state, the half, and the fault code
or `none` when a row must wait. -/
def streamRows (s : State) (br : BrickRef) (who block addr fmt rows mask row0 : Nat) (t : WTile) (int : Bool) (h : Half) :
    State × Option (Half × Option Nat) :=
  let w := s.width br
  let rs := rowRanges addr fmt (sparseF t.sparse) rows mask
  match imgAsk s br who block (rs.flatMap fun p => [p.2.1, p.2.2]) with
  | (s, false) => (s, none)
  | (s, true) => (s, some (rs.foldl (fun (a : Half × Option Nat) p => match a with
    | (h, none) =>
      (match imgRead s br who block p.2.1.1 p.2.1.2, imgRead s br who block p.2.2.1 p.2.2.2 with
      | .done _ rec, .done _ sc => (rowInto t w fmt int (row0 + p.1) rec sc h, none)
      | .fail _ c, _ | _, .fail _ c => (h, some c)
      | _, _ => (h, none))
    | a => a) (h, none)))

/-- One FP32 accumulator entry converted for a non-MX drain (R176). -/
def drainElem (fmt rm draw : Nat) (v : R32) : Nat :=
  match fmt with
  | 0xC => v.toNat
  | 3 | 4 =>
    let inf := match fDecode fp32 false v.toNat with
      | .inf _ => true
      | _ => false
    (convert 0 fmt rm (!inf) false draw v.toNat).1
  | _ => (convert 0 fmt rm false false draw v.toNat).1

/-- A row of a drain: the bytes of the record that are written, their number, the scale bytes and their number, and the
generator after its draws (R168, R176, R177). -/
def drainRow (fmt rm w : Nat) (row : Nat → R32) (g : R32) : (Nat × Nat) × (Nat × Nat) × R32 :=
  let ew := fmtWidth fmt
  let sr := decide (rm = 4)
  if isMx fmt then
    let nb := cdiv w 32
    let z := (List.range nb).foldl (fun (a : Nat × Nat × R32) b =>
      let vs := (List.range 32).map fun k =>
        if 32 * b + k < w then fDecode fp32 false (row (32 * b + k)).toNat else .fin false 0 0
      let blk := mxBlock fmt rm (fun k => (srAfter (k + 1) a.2.2).toNat) vs
      (a.1 + packBits ew blk.2 <<< (32 * ew * b), a.2.1 + blk.1 <<< (8 * b), if sr then srAfter 32 a.2.2 else a.2.2)) (0, 0, g)
    ((z.1, nb * ew * 4), (z.2.1, nb), z.2.2)
  else
    let z := (List.range w).foldl (fun (a : Nat × R32) n =>
      let g' := if sr then srStep a.2 else a.2
      (a.1 + drainElem fmt rm g'.toNat (row n) <<< (ew * n), g')) (0, g)
    ((z.1, w * ew / 8), (0, 0), z.2)

/-- Drains `rows` rows of a half from `row0` on as records 0 on (R176 to R178): the state, and the fault code of a record that cannot
be sent. -/
def drainRows (s : State) (br : BrickRef) (who gid block addr fmt rm rows row0 : Nat) (h : Half) : State × Option Nat :=
  let w := s.width br
  let r := mxRec fmt 1
  (List.range rows).foldl (fun (a : State × Option Nat) i =>
    match a with
    | (s, none) =>
      let d := drainRow fmt rm w (fun n => sget 0 h.acc ((row0 + i) * 64 + n)) (s.brick br).sr
      let s := s.modBrick br fun b => { b with sr := d.2.2 }
      (match imgWrite s br who gid block (addr + i * r) d.1.2 d.1.1 with
      | (s, some c) => (s, some c)
      | (s, none) => if d.2.1.2 = 0 then (s, none)
        else imgWrite s br who gid block (addr + up128 (rows * r) + 2 * i) d.2.1.2 d.2.1.1)
    | x => x) (s, none)

def Mx.half (m : Mx) (k : Nat) : Half := if k = 0 then m.h0 else m.h1
def Mx.setHalf (m : Mx) (k : Nat) (h : Half) : Mx := if k = 0 then { m with h0 := h } else { m with h1 := h }

/-- Removes a completed queue entry; a free entry may take a fired batch, and scratchpad may be released (R56). -/
def Brick.mxDone (b : Brick) (id : Nat) : Brick :=
  (((b.modMx fun m => { m with queue := m.queue.filter fun e => decide (e.id ≠ id) }).portFree fun e => decide (e.who = id)).portClear
    id).enqueueFired.freeBlocks

/-- The image address of a queue entry. -/
def MxKind.addr : MxKind → Nat
  | .wload a _ _ => a
  | .stream a _ _ _ _ _ => a
  | .drain a _ _ _ => a
  | _ => 0

/-- A group faults at the execution of an entry, its own or a batch's (R180, R186): its entries behind that one are discarded. -/
def mxFaultFor (br : BrickRef) (entry gid lane : Nat) (pc : R32) (addr code : Nat) (s : State) : State :=
  let s := faultGid br (((s.brick br).run.map RunCtx.launch).getD 0) gid entry code lane pc
    (if code ≤ 0x20 then addr else noAddr br gid) s
  s.modBrick br fun b =>
    let later := (b.mx.queue.dropWhile fun x => decide (x.id ≠ entry)).drop 1
    let gone := (later.filter fun x => decide (x.gid = gid) && decide (x.st = .queued) && match x.kind with
      | .tile _ _ => false
      | .batch _ => false
      | _ => true).map MxEntry.id
    (b.modMx fun m => { m with queue := m.queue.filter fun x => !gone.contains x.id }).portFree fun e => gone.contains e.who

/-- A fault at execution (R180): the entry stops, the group faults, and its later entries are discarded. -/
def mxFault (br : BrickRef) (e : MxEntry) (code : Nat) (s : State) : State :=
  (mxFaultFor br e.id e.gid e.lane e.pc e.kind.addr code s).modBrick br fun b => b.mxDone e.id

/-- The units of the array (R173). -/
inductive MxUnit where
  | loader | streamer | drainer | whole
  deriving DecidableEq, Repr

def MxKind.unit : MxKind → MxUnit
  | .wload _ _ _ => .loader
  | .swap | .stream _ _ _ _ _ _ | .mma _ _ _ => .streamer
  | .drain _ _ _ _ => .drainer
  | .tile _ _ | .batch _ => .whole

def MxEntry.isLoad (e : MxEntry) : Bool := match e.kind with
  | .wload _ _ _ => true
  | _ => false

def MxEntry.streamHalf (e : MxEntry) : Option Nat := match e.kind with
  | .stream _ _ _ _ h _ => some h
  | _ => none

def MxEntry.drainHalf (e : MxEntry) : Option Nat := match e.kind with
  | .drain _ _ _ h => some h
  | _ => none

/-- Whether a queued entry may start, given the entries before it (R173). Executed entries stay in the queue until they
complete. -/
def mxStarts (before : List MxEntry) (e : MxEntry) : Bool :=
  let q := fun (x : MxEntry) => decide (x.st = .queued)
  !(before.any fun x => decide (x.kind.unit = .whole)) &&
  !(before.any fun x => q x && decide (x.kind.unit = e.kind.unit)) &&
  match e.kind with
  | .wload _ _ _ => !(before.any fun x => x.isLoad) && !(before.any fun x => decide (x.kind = .swap))
  | .swap => !(before.any fun x => x.isLoad)
  | .stream _ _ _ _ h _ => !(before.any fun x => q x && decide (x.drainHalf = some h))
  | .drain _ _ _ h => !(before.any fun x => decide (x.streamHalf = some h)) && !(before.any fun x => x.drainHalf.isSome)
  | .mma _ _ _ => true
  | .tile _ _ | .batch _ => before.isEmpty

/-- The first queued entry that a test picks and that may start. -/
def Mx.next (m : Mx) (p : MxKind → Bool) : Option MxEntry :=
  match m.queue.findIdx? fun e => decide (e.st = .queued) && p e.kind with
  | some i => (m.queue[i]?).bind fun e => if mxStarts (m.queue.take i) e then some e else none
  | none => none

/-- The first executed entry that a test picks. -/
def Mx.running (m : Mx) (p : MxKind → Bool) : Option MxEntry := m.queue.find? fun e => decide (e.st = .running) && p e.kind

def Brick.mxRun (b : Brick) (id : Nat) : Brick :=
  b.modMx fun m => { m with queue := m.queue.map fun e => if e.id = id then { e with st := .running } else e }

def MxKind.isLoad : MxKind → Bool
  | .wload _ _ _ => true
  | _ => false
def MxKind.isStream : MxKind → Bool
  | .stream _ _ _ _ _ _ => true
  | _ => false
def MxKind.isDrain : MxKind → Bool
  | .drain _ _ _ _ => true
  | _ => false
def MxKind.isMma : MxKind → Bool
  | .mma _ _ _ => true
  | _ => false
def MxKind.isBatch : MxKind → Bool
  | .batch _ => true
  | _ => false

/-- The loader executes an `mx.wload`: the back registers are written and stay invalid until it completes (R174, R180). -/
def mxLoadExecuteOn (br : BrickRef) (s : State) : Res :=
  match (s.brick br).mx.next MxKind.isLoad with
  | some e => match e.kind with
    | .wload addr fmt sparse =>
      if !storesDone s br e.gid addr then .next s
      else match loadWeights s br e.id e.block addr fmt sparse with
        | (s, none) => .next s
        | (s, some (.error c)) =>
          .next (mxFault br e c (s.modBrick br fun b => b.modMx fun m => { m with back := WTile.empty }))
        | (s, some (.ok t)) => .next (s.modBrick br fun b => ((b.modMx fun m =>
            { m with back := { t with valid := false } }).mxRun e.id).adv 4)
    | _ => .next s
  | none => .next s

/-- An `mx.wload` completes: the back registers become valid with its format and form (R174). -/
def mxLoadCompleteOn (br : BrickRef) (s : State) : Res :=
  match (s.brick br).mx.running MxKind.isLoad with
  | some e => .next (s.modBrick br fun b =>
      (b.modMx fun m => { m with back := { m.back with valid := true } }).mxDone e.id)
  | none => .next s

/-- The swap cycle of an `mx.swap` (R154, R174). -/
def mxSwapExecuteOn (br : BrickRef) (s : State) : Res :=
  match (s.brick br).mx.next fun k => decide (k = .swap) with
  | some e => .next (s.modBrick br fun b =>
      (b.modMx fun m => { m with front := m.back, back := m.front }).mxDone e.id)
  | none => .next s

/-- The records of an activation image beyond the extent checked at issue, which exist when the front weights are sparse (R179). -/
def recordFault (s : State) (br : BrickRef) (run : RunCtx) (block addr fmt f rows : Nat) : Option Nat :=
  if f = 1 then none
  else imgFault s br.t run ((sfind (s.brick br).blocks block).getD Block.init) addr (imgBytes fmt f rows 0) false

/-- A stream executes (R175): the format checks, ZERO, and its active rows. -/
def mxStreamExecuteOn (br : BrickRef) (s : State) : Res :=
  match (s.brick br).mx.next MxKind.isStream with
  | some e => match e.kind, (s.brick br).run with
    | .stream addr fmt rows mask hn zero, some run =>
      let m := (s.brick br).mx
      if !storesDone s br e.gid addr then .next s
      else match (if m.front.valid then mxPair m.front.fmt fmt else none) with
        | none => .next (mxFault br e 0x21 s)
        | some int =>
          let h := m.half hn
          if !zero && decide (h.int ≠ int) then .next (mxFault br e 0x21 s)
          else
            let h : Half := if zero then ⟨int, rows, []⟩ else { h with extent := max h.extent rows }
            let put := fun (s : State) (h : Half) => s.modBrick br fun b => b.modMx fun m => m.setHalf hn h
            match recordFault s br run e.block addr fmt (sparseF m.front.sparse) rows with
            | some c => .next (mxFault br e c (put s h))
            | none =>
              match streamRows s br e.id e.block addr fmt rows mask 0 m.front int h with
              | (s, none) => .next s
              | (s, some (h, some c)) => .next (mxFault br e c (put s h))
              | (s, some (h, none)) => .next ((put s h).modBrick br fun b =>
                  ((b.mxRun e.id).advRows ((List.range rows).filter fun i => mask.testBit i).length : Brick))
    | _, _ => .next s
  | none => .next s

/-- The last accumulation of the oldest executed stream. -/
def mxStreamCompleteOn (br : BrickRef) (s : State) : Res :=
  match (s.brick br).mx.running MxKind.isStream with
  | some e => .next (s.modBrick br fun b => b.mxDone e.id)
  | none => .next s

/-- The scope at which a drain's records must be performed before it completes (R178): 1 tower for memory of the own tower, else 2
device. -/
def drainScope (s : State) (br : BrickRef) (addr : Nat) : Nat := if (s.targetB addr).home? = some br.t then 1 else 2

/-- A drain executes (R176 to R178): the type check, then every row of the half's extent. -/
def mxDrainExecuteOn (br : BrickRef) (s : State) : Res :=
  match (s.brick br).mx.next MxKind.isDrain with
  | some e => match e.kind with
    | .drain addr fmt rm hn =>
      let h := (s.brick br).mx.half hn
      if h.int ≠ decide (fmt = 0xC) then .next (mxFault br e 0x21 s)
      else match drainRows s br e.id e.gid e.block addr fmt rm h.extent 0 h with
        | (s, some c) => .next (mxFault br e c s)
        | (s, none) => .next (s.modBrick br fun b => ((b.mxRun e.id).adv 4 : Brick))
    | _ => .next s
  | none => .next s

/-- A drain completes: every record it wrote is performed at the scope of R178, or one has failed. -/
def mxDrainCompleteOn (br : BrickRef) (s : State) : Res :=
  match (s.brick br).mx.running MxKind.isDrain with
  | some e =>
    if !(s.brick br).portDone e.id (drainScope s br e.kind.addr) then .next s
    else match (s.brick br).portErr e.id with
      | some c => .next (mxFault br e c s)
      | none => .next (s.modBrick br fun b => b.mxDone e.id)
  | none => .next s

/-- The result of the oldest `mx.mma` reaches its D registers in the lanes of its subset (R187 to R189). -/
def mxMmaResultOn (br : BrickRef) (s : State) : Res :=
  match (s.brick br).mx.next MxKind.isMma with
  | some e => match e.kind with
    | .mma dst lanes d =>
      .next (s.modBrick br fun b =>
        let b : Brick := { b with groups := b.groups.map fun (p : Nat × Group) =>
          if p.2.gid = e.gid then
            let g := p.2.mapLanes lanes fun l th =>
              if th.exited then th else (List.range 8).foldl (fun th j => wrG th (dst + j) ((d.getD l []).getD j 0)) th
            (p.1, { g with pend := g.pend.filter fun q => !(decide (q.cls = .m) && decide (q.op = e.id)) })
          else p }
        b.mxDone e.id)
    | _ => .next s
  | none => .next s

/-! The instructions. -/

/-- The effective address of an image, at the lowest current lane (R170, R171). -/
def Ctx.imgAddr (x : Ctx) : Nat := wrapN 64 (((x.aPair x.low).toNat : Int) + x.f.offset)

/-- What a matrix instruction does once it may issue: faults, waits, or goes on with a new group and brick. -/
inductive MxIssue where
  | fault (code : Nat)
  | wait
  | go (g : Group) (b : Brick)

/-- Issues a matrix instruction (R170, R173). -/
def mxIssue (op : Nat) (o : OpInfo) (f : Ctx → State → MxIssue) (g : GroupRef) (w : IWord) (s : State) : Res :=
  match prepare op (fun _ => true) o g w s with
  | .no => .next s
  | .fault grp c l pc i => .next (raiseFault g grp c l pc i s)
  | .go x =>
    if x.grp.acq.isSome then .next s
    else match f x s with
      | .fault c => .next (raiseFault g x.grp c x.low x.pc (if c ≤ 0x20 then x.imgAddr else noAddr g.b x.grp.gid) s)
      | .wait => .next s
      | .go grp b => .next (s.setBrick g.b ((b.setGroup (gkey g) grp).issued x false))

/-- A free entry of the array queue, and the entry put there. -/
def Ctx.mxPush (x : Ctx) (pend : Nat → List Pend) (k : MxKind) (f : Brick → Brick) : MxIssue :=
  if 16 ≤ x.br.mx.queue.length then .wait
  else
    let id := x.br.nextId
    let e : MxEntry := ⟨id, x.grp.gid, x.grp.block, x.low, x.pc, .queued, k⟩
    .go (x.memGroup (pend id) none) (f ((x.br.take 1).modMx fun m => { m with queue := m.queue ++ [e] }))

/-- `mx.wload` (R174, R179). Its entry into the queue ends the hold of a batch tile (R186). -/
def execMxWload (g : GroupRef) (w : IWord) (s : State) : Res :=
  mxIssue 0xC0 infoWload (fun x s =>
    match imgFault s x.ref.b.t x.run x.blk x.imgAddr (imgBytes x.f.xFmt 1 64 x.f.xSparse) false with
    | some c => .fault c
    | none =>
      if x.grp.bound.isSome then .fault 0x23
      else x.mxPush (fun _ => []) (.wload x.imgAddr x.f.xFmt x.f.xSparse) fun b => b.modMx fun m => { m with batchTile := none })
    g w s

/-- `mx.swap` (R174). -/
def execMxSwap (g : GroupRef) (w : IWord) (s : State) : Res :=
  mxIssue 0xC1 infoSwap (fun x _ =>
    if x.grp.bound.isSome then .fault 0x23
    else x.mxPush (fun _ => []) .swap fun b => b.modMx fun m => { m with batchTile := none }) g w s

/-- `mx.stream` (R175, R179, R183). -/
def execMxStream (g : GroupRef) (w : IWord) (s : State) : Res :=
  mxIssue 0xC2 infoStream (fun x s =>
    let rows := (x.b x.low).toNat
    let mask := (x.cPair x.low).toNat
    let rows64 := min 64 rows
    match imgFault s x.ref.b.t x.run x.blk x.imgAddr (imgBytes x.f.xFmt 1 rows64 0) false with
    | some c => .fault c
    | none =>
      let seq := match x.grp.bound with
        | some b => b.streamed || decide (x.f.xBuf ≠ 0) || !x.f.xZero
        | none => false
      if seq then .fault 0x23
      else if rows = 0 ∨ 64 < rows then .fault 0x24
      else match x.grp.bound with
        | none => x.mxPush (fun _ => []) (.stream x.imgAddr x.f.xFmt rows (mask % 2 ^ rows) x.f.xBuf x.f.xZero) id
        | some bd =>
          let id := x.br.nextId
          match joinBatch (x.br.take 1) bd.addr x.f.xFmt
              ⟨id, x.grp.gid, x.grp.block, x.low, x.pc, x.imgAddr, rows, mask % 2 ^ rows, bd.timeout, none⟩ with
          | none => .wait
          | some b => .go { x.memGroup [] none with bound := some { bd with streamed := true, req := id } } b) g w s

/-- The extent that a half will have once the queued entries have run: what a drain issued now writes (R176, R179). -/
def Mx.extentAhead (m : Mx) (h : Nat) : Nat :=
  m.queue.foldl (fun n e => match e.kind, e.st with
    | .stream _ _ rows _ k zero, .queued => if k = h then (if zero then rows else max n rows) else n
    | .batch id, _ => if h = 1 then
        ((m.batches.find? fun t => decide (t.id = id)).map fun t => t.reqs.foldl (fun a r => a + r.rows) 0).getD n else n
    | _, _ => n) (m.half h).extent

/-- `mx.drain` (R176, R179, R183). -/
def execMxDrain (g : GroupRef) (w : IWord) (s : State) : Res :=
  mxIssue 0xC3 infoDrain (fun x s =>
    let rows := match x.grp.bound with
      | some bd => ((x.br.mx.batches.findSome? fun t => t.reqs.find? fun r => decide (r.id = bd.req)).map BatchReq.rows).getD 0
      | none => x.br.mx.extentAhead x.f.xBuf
    match imgFault s x.ref.b.t x.run x.blk x.imgAddr (imgBytes x.f.xFmt 1 rows 0) true with
    | some c => .fault c
    | none => match x.grp.bound with
      | none => x.mxPush (fun _ => []) (.drain x.imgAddr x.f.xFmt x.f.xRm x.f.xBuf) id
      | some bd =>
        if !bd.streamed ∨ x.f.xBuf ≠ 0 then .fault 0x23
        else .go { x.memGroup [] none with bound := none } (x.br.modMx fun m =>
          { m with batches := m.batches.map fun t => { t with reqs := t.reqs.map fun r =>
              if r.id = bd.req then { r with drain := some (x.imgAddr, x.f.xFmt, x.f.xRm, x.pc) } else r } })) g w s

/-- `mx.batch` binds its group (R182, R183). -/
def execMxBatch (g : GroupRef) (w : IWord) (s : State) : Res :=
  mxIssue 0xC5 infoBatch (fun x s =>
    match imgFault s x.ref.b.t x.run x.blk x.imgAddr 128 false with
    | some c => .fault c
    | none =>
      if isSp x.imgAddr then .fault 0x20
      else if x.grp.bound.isSome then .fault 0x23
      else .go { x.memGroup [] none with bound := some ⟨x.imgAddr, x.f.xTimeout, false, 0⟩ } x.br) g w s

/-- An element of fragment A (row i) or B (column i) at position k (R188). -/
def fragElem (regs : Nat → Nat → R32) (w i k : Nat) : Nat :=
  let per := 32 / w
  let half := 256 / w
  let lane := i + 16 * (k / half)
  let k' := k % half
  elemOf w (regs lane (k' / per)).toNat (k' % per)

/-- The result fragment of `mx.mma` by lane and register (R187, R188). -/
def mmaResult (fmt : Nat) (a b c : Nat → Nat → R32) : List (List R32) :=
  let w := fmtWidth fmt
  let n := 512 / w
  let int := decide (fmt = 0xA) || decide (fmt = 0xB)
  (List.range 32).map fun l => (List.range 8).map fun j =>
    let i := l % 16
    let col := 8 * (l / 16) + j
    let ae := fun k => fragElem a w i k
    let be := fun k => fragElem b w col k
    accumulate int n (c l j) (fun k => elemVal fmt 0 (be k)) (fun k => elemVal fmt 0 (ae k))
      (fun k => elemInt 0xA (be k)) (fun k => elemInt fmt (ae k))

/-- `mx.mma`: fragments are read from all 32 lanes at issue (R187 to R189). -/
def execMxMma (g : GroupRef) (w : IWord) (s : State) : Res :=
  mxIssue 0xC4 infoMma (fun x _ =>
    if x.grp.bound.isSome then .fault 0x23
    else
      let frag := fun r l j => rdG (x.grp.thread l) (r + j)
      x.mxPush (fun id => [⟨.m, id, gDst x.o x.f, [], [], 0⟩])
        (.mma x.f.d x.cur (mmaResult x.f.xFmt (frag x.f.a) (frag x.f.b) (frag x.f.c))) id) g w s

/-- A batch reaches its deadline and fires (R185). -/
def batchDeadlineOn (br : BrickRef) (batch : Nat) (s : State) : Res :=
  match (s.brick br).mx.batches.find? fun t => decide (t.id = batch) && !t.fired with
  | some _ => .next (s.modBrick br fun b => b.fireBatch batch)
  | none => .next s

/-- The fault of one request of a batch: its group faults, and its queued matrix entries are discarded (R186). -/
def reqFault (br : BrickRef) (entry : Nat) (r : BatchReq) (addr code : Nat) (s : State) : State :=
  mxFaultFor br entry r.gid r.lane r.pc addr code s

/-- Loads the headed tile of a batch (R182, R186): none while it must wait, else the tile or a fault code. -/
def batchLoad (s : State) (br : BrickRef) (run : RunCtx) (t : Batch) : State × Option (Except Nat WTile) :=
  let m := (s.brick br).mx
  if m.batchTile = some t.addr then (s, some (.ok m.front))
  else match imgRead s br t.id 0 t.addr 128 with
    | .wait s => (s, none)
    | .fail s c => (s, some (.error c))
    | .done s h =>
      let fmt := h % 256
      let sp := h / 256 % 256
      if h / 65536 ≠ 0 ∨ weightOk fmt sp = false then (s, some (.error 0x21))
      else match imgFault s br.t run Block.init (t.addr + 128) (imgBytes fmt 1 64 sp) false with
        | some c => (s, some (.error c))
        | none => loadWeights s br t.id 0 (t.addr + 128) fmt sp

/-- Whether a request's group has faulted or is gone, so that it issues no drain any more. -/
def Brick.gone (b : Brick) (gid : Nat) : Bool :=
  match b.groups.find? fun p => decide (p.2.gid = gid) with
  | some p => p.2.fault.isSome
  | none => true

/-- The rows of every request of a batch streamed into half 1, in join order (R179, R186): the half and the requests whose reads
failed; none when a row must wait. -/
def batchStream (s : State) (br : BrickRef) (run : RunCtx) (t : Batch) (w : WTile) (int : Bool) (total : Nat) :
    State × Option (Half × Nat × List (BatchReq × Nat)) :=
  t.reqs.foldl (fun (a : State × Option (Half × Nat × List (BatchReq × Nat))) r =>
    match recordFault a.1 br run r.block r.addr t.fmt (sparseF w.sparse) r.rows with
    | some c => (a.1, a.2.map fun p => (p.1, p.2.1 + r.rows, p.2.2 ++ [(r, c)]))
    | none =>
      let row0 := (a.2.map fun p => p.2.1).getD 0
      let h := (a.2.map fun p => p.1).getD Half.empty
      match streamRows a.1 br r.id r.block r.addr t.fmt r.rows r.mask row0 w int h with
      | (s, none) => (s, none)
      | (s, some (h, c)) => (s, a.2.map fun p => (h, row0 + r.rows, match c with
          | some c => p.2.2 ++ [(r, c)]
          | none => p.2.2))) (s, some ((⟨int, total, []⟩ : Half), 0, []))

/-- The drains of the requests of a batch, in join order (R186), but for those whose rows failed; with the fault of each that could not
be sent. -/
def batchDrains (s : State) (br : BrickRef) (t : Batch) (int : Bool) (h : Half) (errs : List (BatchReq × Nat)) :
    State × List (BatchReq × Nat) :=
  let r := t.reqs.foldl (fun (a : State × Nat × List (BatchReq × Nat)) r =>
    let next := a.2.1 + r.rows
    match (if errs.any fun p => decide (p.1.id = r.id) then none else r.drain) with
    | none => (a.1, next, a.2.2)
    | some (addr, fmt, rm, pc) =>
      if int ≠ decide (fmt = 0xC) then (a.1, next, a.2.2 ++ [({ r with pc := pc }, 0x21)])
      else
        let d := drainRows a.1 br r.id r.gid r.block addr fmt rm r.rows a.2.1 h
        (d.1, next, match d.2 with
          | some c => a.2.2 ++ [({ r with pc := pc, addr := addr }, c)]
          | none => a.2.2)) (s, 0, errs)
  (r.1, r.2.2)

/-- The load and swap of a fired batch, when the tile is not held (R186): the front registers hold the batch tile, the back registers
are invalid. The tile counts as held by the next fired batch unless an `mx.wload` or `mx.swap` waits behind. -/
def Brick.batchSwap (b : Brick) (t : Batch) (w : WTile) : Brick :=
  b.modMx fun m => { m with
    front := w, back := WTile.empty
    batchTile := if m.queue.any fun e => e.isLoad || decide (e.kind = .swap) then none else some t.addr }

/-- A fired batch ends: its requests' failed drains fault their groups, and its slot is gone. -/
def batchClose (br : BrickRef) (e : MxEntry) (t : Batch) (errs : List (BatchReq × Nat)) (s : State) : State :=
  (errs.foldl (fun s p => reqFault br e.id p.1 p.1.addr p.2 s) s).modBrick br fun b =>
    (((b.modMx fun m => { m with batches := m.batches.filter fun u => decide (u.id ≠ t.id) }).portFree fun x =>
      t.reqs.any fun r => decide (r.id = x.who)).mxDone e.id)

/-- A fired batch whose drains are sent ends once they are performed (R178, R186). -/
def batchWait (br : BrickRef) (e : MxEntry) (t : Batch) (s : State) : State :=
  let b := s.brick br
  let at' := fun (r : BatchReq) => (r.drain.map fun d => d.1).getD r.addr
  if t.reqs.all fun r => b.portDone r.id (drainScope s br (at' r)) then
    batchClose br e t (t.reqs.filterMap fun r => (b.portErr r.id).map fun c =>
      ({ r with addr := at' r, pc := (r.drain.map fun d => d.2.2.2).getD r.pc }, c)) (s.modBrick br fun b =>
        t.reqs.foldl (fun (b : Brick) r => b.portClear r.id) b)
  else s

/-- A fired batch whose tile cannot be used faults the group of every request, and leaves the back registers invalid (R180, R186). -/
def batchStop (br : BrickRef) (e : MxEntry) (t : Batch) (code : Nat) (s : State) : State :=
  batchClose br e t (t.reqs.map fun r => ({ r with addr := t.addr }, code))
    (s.modBrick br fun b => b.modMx fun m => { m with back := WTile.empty, batchTile := none })

/-- A fired batch runs (R186): load and swap unless the tile is held, one stream of all rows into half 1, and each request's drain in
join order. It waits until every live request's drain has issued and the stores that it must see are performed (R178). DESIGN CHOICE,
unsafe: R186 does not say which groups fault when tile and activations are no pairing of R156; here it is the group of every request,
with MX_FORMAT, and there is no swap (log entry 62). -/
def batchRun (br : BrickRef) (run : RunCtx) (e : MxEntry) (t : Batch) (s : State) : State :=
  let ready := t.reqs.all fun r => r.drain.isSome || (s.brick br).gone r.gid
  let stores := t.reqs.all fun r => storesDone s br r.gid r.addr && storesDone s br r.gid t.addr
  if !ready || !stores then s
  else
    match batchLoad (s.modBrick br fun b => b.mxRun e.id) br run t with
    | (s, none) => s
    | (s, some (.error c)) => batchStop br e t c s
    | (s, some (.ok w)) =>
      match mxPair w.fmt t.fmt with
      | none => batchStop br e t 0x21 s
      | some int =>
        let total := t.reqs.foldl (fun n r => n + r.rows) 0
        match batchStream s br run t w int total with
        | (s, none) => s
        | (s, some (h, _, errs)) =>
          let n := t.reqs.foldl (fun n r => n + ((List.range r.rows).filter fun i => r.mask.testBit i).length) 0
          let s := s.modBrick br fun b => ((b.batchSwap t w).modMx fun m => { m with
            h1 := h, batches := m.batches.map fun u => if u.id = t.id then { u with sent := true } else u }).advRows n
          let d := batchDrains s br t int h errs
          d.2.foldl (fun s p => reqFault br e.id p.1 p.1.addr p.2 s) d.1

/-- The entry of a fired batch goes on (R186): it runs, and ends when its drains are performed. -/
def batchEntryExecuteOn (br : BrickRef) (s : State) : Res :=
  let m := (s.brick br).mx
  match (m.running MxKind.isBatch).orElse fun _ => m.next MxKind.isBatch, (s.brick br).run with
  | some e, some run =>
    match m.batches.find? fun t => decide (t.id = e.id) with
    | none => .next (s.modBrick br fun b => b.mxDone e.id)
    | some t => .next (if t.sent then batchWait br e t s else batchRun br run e t s)
  | _, _ => .next s

/-! The commands, with the stop of the clocks and the engine records. -/

/-- `BATCH_DEADLINE`, held while the tower's clocks are stopped (R600, R602). -/
def execBatchDeadline (br : BrickRef) (batch : Nat) (s : State) : Res :=
  gate br.t (batchDeadlineOn br batch) s

/-- `BATCH_ENTRY_EXECUTE`, held while the tower's clocks are stopped (R600, R602). -/
def execBatchEntryExecute (br : BrickRef) (s : State) : Res :=
  gate br.t (unthrottled ((s.tw br.t).withheld br.s.val) (batchEntryExecuteOn br)) s

/-- `MX_DRAIN_COMPLETE`, held while the tower's clocks are stopped (R600, R602). -/
def execMxDrainComplete (br : BrickRef) (s : State) : Res :=
  gate br.t (mxDrainCompleteOn br) s

/-- `MX_DRAIN_EXECUTE`, held while the tower's clocks are stopped (R600, R602). -/
def execMxDrainExecute (br : BrickRef) (s : State) : Res :=
  gate br.t (mxDrainExecuteOn br) s

/-- `MX_LOAD_COMPLETE`, held while the tower's clocks are stopped (R600, R602). -/
def execMxLoadComplete (br : BrickRef) (s : State) : Res :=
  gate br.t (mxLoadCompleteOn br) s

/-- `MX_LOAD_EXECUTE`, held while the tower's clocks are stopped (R600, R602). -/
def execMxLoadExecute (br : BrickRef) (s : State) : Res :=
  gate br.t (mxLoadExecuteOn br) s

/-- `MX_MMA_RESULT`, held while the tower's clocks are stopped (R600, R602). -/
def execMxMmaResult (br : BrickRef) (s : State) : Res :=
  gate br.t (mxMmaResultOn br) s

/-- `MX_STREAM_COMPLETE`, held while the tower's clocks are stopped (R600, R602). -/
def execMxStreamComplete (br : BrickRef) (s : State) : Res :=
  gate br.t (mxStreamCompleteOn br) s

/-- `MX_STREAM_EXECUTE`, held while the tower's clocks are stopped (R600, R602). -/
def execMxStreamExecute (br : BrickRef) (s : State) : Res :=
  gate br.t (unthrottled ((s.tw br.t).withheld br.s.val) (mxStreamExecuteOn br)) s

/-- `MX_SWAP_EXECUTE`, held while the tower's clocks are stopped (R600, R602). -/
def execMxSwapExecute (br : BrickRef) (s : State) : Res :=
  gate br.t (mxSwapExecuteOn br) s

end Sys2Proof.Machine
end

