-- ==== Sys2Proof/Machine/Engine.lean ====
section
/-! DEFINITION. The operation table of a brick (R120 to R122, R144, R220): the issue of engine work, the record of its
completion, and `eng.wait` and `eng.poll`, 0xD3 and 0xD4. -/

namespace Sys2Proof.Machine

open Sys2Proof

/-- Writes a word into D of the current threads, pending under class I (R122). -/
def Ctx.wordGroup (x : Ctx) (v : R32) : Group :=
  let grp := x.grp.mapLanes x.cur fun _ th => wrG th x.f.d v
  { x with grp := grp }.memGroup (pendOf .i 0 x.o x.f 0) x.grp.acq

/-- Issues engine work of a kind (R120, R122, R144): after the release at device scope and when `f` accepts the address
and handle, the entry is taken and the handle written. -/
def engIssue (op kind : Nat) (f : Ctx → R32 → Nat → State → Option State) (g : GroupRef) (w : IWord) (s : State) : Res :=
  match prepare op (fun _ => true) infoIssue g w s with
  | .no => .next s
  | .fault grp c l pc i => .next (raiseFault g grp c l pc i s)
  | .go x =>
    if x.grp.acq.isSome || !x.br.released x.grp.gid 4 || x.br.mxOut x.grp.gid then .next s
    else match x.br.opSlot with
      | none => .next s
      | some k =>
        let h : R32 := BitVec.ofNat 32 (kind * 2 ^ 30 + k * 2 ^ 24 + x.br.issues % 2 ^ 24)
        match f x h x.imgAddr s with
        | none => .next s
        | some s =>
          .next (s.modBrick g.b fun b =>
            ({ b with
                ops := sset b.ops k ⟨h, x.grp.block, x.grp.gid, x.low, x.pc, b.opOrder, none, decide (kind ≠ 3)⟩
                opOrder := b.opOrder + 1
                issues := b.issues + 1 }.setGroup (gkey g) (x.wordGroup h)).issued x false)

/-- `tp.issue` takes an entry of the array queue (R192, R193). -/
def execTpIssue (g : GroupRef) (w : IWord) (s : State) : Res :=
  engIssue 0xD0 1 (fun x h a s =>
    if 16 ≤ x.br.mx.queue.length then none
    else some (s.modBrick g.b fun b =>
      (b.take 1).modMx fun m =>
        { m with queue := m.queue ++ [⟨b.nextId, x.grp.gid, x.grp.block, x.low, x.pc, .queued, .tile h.toNat a⟩] })) g w s

/-- An engine reports completion into its entry (R122): the word is kept while the block lives; a failed result of a group
that has exited is a fault of that group (R220); held scratchpad may be released (R56). -/
def opComplete (br : BrickRef) (h word : R32) (s : State) : State :=
  let b := s.brick br
  match b.ops.find? fun p => decide (p.2.handle = h) && p.2.status.isNone with
  | none => s.modBrick br Brick.freeBlocks
  | some (k, e) =>
    let e' := { e with status := some word }
    let live := match sfind b.blocks e.block with
      | some x => !x.retired
      | none => false
    let s := if (b.keyOf e.gid).isNone then orphanFaults br [e'] s else s
    s.modBrick br fun b => { b with ops := if live then sset b.ops k e' else sdel b.ops k }.freeBlocks

/-- `eng.wait` and `eng.poll` (R121, R122, R144, R220): a handle that names no live entry faults; a completion word that is
returned frees the entry, acquires at device scope, and faults the group when its RESULT is not zero. -/
def engWord (op : Nat) (poll : Bool) (g : GroupRef) (w : IWord) (s : State) : Res :=
  match prepare op (fun _ => true) infoWait g w s with
  | .no => .next s
  | .fault grp c l pc i => .next (raiseFault g grp c l pc i s)
  | .go x =>
    if x.grp.acq.isSome then .next s
    else match x.br.opFind (x.a x.low) x.grp.block with
      | none => .next (raiseFault g x.grp 0x81 x.low x.pc (noAddr g.b x.grp.gid) s)
      | some (k, e) => match e.status with
        | none =>
          if poll then .next (s.setBrick g.b ((x.br.setGroup (gkey g) (x.wordGroup 0)).issued x false))
          else .next s
        | some v =>
          let b := ({ x.br with ops := sdel x.br.ops k }).invalidate
          if statusResult v ≠ 0 then
            .next (raiseFault g x.grp (statusResult v) x.low x.pc (noAddr g.b x.grp.gid) (s.setBrick g.b b))
          else .next (s.setBrick g.b ((b.setGroup (gkey g) (x.wordGroup v)).issued x false))

/-- `eng.wait` (R121). -/
def execEngWait (g : GroupRef) (w : IWord) (s : State) : Res := engWord 0xD3 false g w s
/-- `eng.poll` (R121). -/
def execEngPoll (g : GroupRef) (w : IWord) (s : State) : Res := engWord 0xD4 true g w s

end Sys2Proof.Machine
end

