-- ==== Sys2Proof/Machine/Tile.lean ====
section
/-! DEFINITION. The tile sequencer (R192 to R222): descriptors and their start checks, the loop nest, control data, staging,
K-steps, drains, failures and completion. -/

namespace Sys2Proof.Machine

open Sys2Proof

/-- n bytes of a descriptor from an offset, little-endian. -/
def dbytes (d : Nat) (o n : Nat) : Nat := (d >>> (8 * o)) % 2 ^ (8 * n)

/-- A tensor reference (R198). -/
structure TRef where
  base : Nat
  pitch : Nat
  s0 : Nat
  s1 : Nat
  s2 : Nat

def tref (d o : Nat) : TRef :=
  ⟨dbytes d o 8, dbytes d (o + 8) 4, dbytes d (o + 12) 4, dbytes d (o + 16) 4, dbytes d (o + 20) 4⟩

/-- The address of row r at outer indices (R198). -/
def TRef.row (t : TRef) (o0 o1 o2 r : Nat) : Nat :=
  t.base + 128 * (o0 * t.s0 + o1 * t.s1 + o2 * t.s2) + r * t.pitch

/-- A tile-program descriptor, parsed (R196, R197). -/
structure TDesc where
  raw : Nat
  ctrl : Nat
  m : Nat
  n : Nat
  k : Nat
  x0 : Nat
  x1 : Nat
  x2 : Nat
  a : TRef
  w : TRef
  o : TRef
  ix : TRef
  as' : TRef
  ws : TRef

def tdesc (d : Nat) : TDesc where
  raw := d
  ctrl := dbytes d 0 8
  m := dbytes d 8 4
  n := dbytes d 12 4
  k := dbytes d 16 4
  x0 := dbytes d 0x14 2
  x1 := dbytes d 0x16 2
  x2 := dbytes d 0x18 2
  a := tref d 0x20
  w := tref d 0x38
  o := tref d 0x50
  ix := tref d 0x68
  as' := tref d 0x80
  ws := tref d 0x98

def TDesc.wfmt (x : TDesc) : Nat := bits x.ctrl 55 52
def TDesc.afmt (x : TDesc) : Nat := bits x.ctrl 51 48
def TDesc.ofmt (x : TDesc) : Nat := bits x.ctrl 47 44
def TDesc.sparse (x : TDesc) : Nat := bits x.ctrl 43 41
def TDesc.rm (x : TDesc) : Nat := bits x.ctrl 40 38
def TDesc.mode (x : TDesc) : Nat := bits x.ctrl 37 36
def TDesc.tm (x : TDesc) : Nat := 16 * (bits x.ctrl 35 34 + 1)
def TDesc.pair (x : TDesc) : Bool := x.ctrl.testBit 33
def TDesc.lm (x : TDesc) : Bool := x.ctrl.testBit 32
def TDesc.lk (x : TDesc) : Bool := x.ctrl.testBit 31
def TDesc.zb (x : TDesc) : Bool := x.ctrl.testBit 30
def TDesc.mk' (x : TDesc) : Bool := x.ctrl.testBit 29
def TDesc.lmi (x : TDesc) : Nat := bits x.ctrl 28 26
def TDesc.lki (x : TDesc) : Nat := bits x.ctrl 25 23
def TDesc.cplEn (x : TDesc) : Bool := x.ctrl.testBit 15
/-- Slot s of ORDER, slot 0 the outermost (R197). -/
def TDesc.slot (x : TDesc) (s : Nat) : Nat := bits x.ctrl (14 - 3 * s) (12 - 3 * s)
def TDesc.lenM (x : TDesc) : Nat := dbytes x.raw 0xB0 8
def TDesc.lenK (x : TDesc) : Nat := dbytes x.raw 0xB8 8
def TDesc.zbBase (x : TDesc) : Nat := dbytes x.raw 0xC0 8
def TDesc.maskBase (x : TDesc) : Nat := dbytes x.raw 0xC8 8
def TDesc.zbPitch (x : TDesc) : Nat := dbytes x.raw 0xD0 4
def TDesc.maskPitch (x : TDesc) : Nat := dbytes x.raw 0xD4 4
def TDesc.cpl (x : TDesc) : Nat := dbytes x.raw 0xD8 8
def TDesc.f (x : TDesc) : Nat := sparseF x.sparse
def TDesc.kt (x : TDesc) : Nat := x.k / (64 * x.f)
def TDesc.mt (x : TDesc) : Nat := cdiv x.m x.tm

/-- Row bytes of the tensors (R199). -/
def TDesc.aBytes (x : TDesc) : Nat := x.k * fmtWidth x.afmt / 8
def TDesc.wBytes (x : TDesc) : Nat := x.k / x.f * fmtWidth x.wfmt / 8
def TDesc.oBytes (x : TDesc) : Nat := x.n * fmtWidth x.ofmt / 8

/-- The tensors in use: reference, rows, row bytes, written (R196, R199). -/
def TDesc.refs (x : TDesc) : List (TRef × Nat × Nat × Bool) :=
  [(x.a, x.m, x.aBytes, false), (x.w, x.n, x.wBytes, false), (x.o, x.m, x.oBytes, true)] ++
    (if x.sparse = 0 then [] else [(x.ix, x.n, x.k / (2 * x.f), false)]) ++
    (if isMx x.afmt then [(x.as', x.m, x.k / 32, false)] else []) ++
    (if isMx x.wfmt then [(x.ws, x.n, x.k / 32, false)] else [])

/-- The extent of outer index dimension d of LEN_M_IDX and LEN_K_IDX: one word for 0 (R212). -/
def TDesc.ext (x : TDesc) (d : Nat) : Nat := if d = 1 then x.x0 else if d = 2 then x.x1 else if d = 3 then x.x2 else 1

/-- Footprints: first byte, bytes, written (R200, R212). -/
def TDesc.foots (x : TDesc) : List (Nat × Nat × Bool) :=
  (x.refs.map fun p =>
    (p.1.base, (p.1.row (x.x0 - 1) (x.x1 - 1) (x.x2 - 1) (p.2.1 - 1) - p.1.base) + p.2.2.1, p.2.2.2)) ++
    (if x.lm then [(x.lenM, 4 * x.ext x.lmi, false)] else []) ++
    (if x.lk then [(x.lenK, 4 * x.ext x.lki, false)] else []) ++
    (if x.zb then [(x.zbBase, (x.x0 * x.x1 * x.x2 - 1) * x.zbPitch + cdiv (x.m / 16 * x.kt) 8, false)] else []) ++
    (if x.mk' then [(x.maskBase, (x.x0 * x.x1 * x.x2 - 1) * x.maskPitch + cdiv x.m 8, false)] else [])

/-- TP_DESC (R196, R197, R208). -/
def TDesc.bad (x : TDesc) : Bool :=
  let z := fun (o n : Nat) => decide (dbytes x.raw o n ≠ 0)
  decide (bits x.ctrl 63 56 ≠ 1) || decide (bits x.ctrl 22 16 ≠ 0) || z 0x1A 6 || z 0xE0 32 ||
  decide (x.mode = 3) || decide (4 < x.sparse) || decide (4 < x.rm) || decide (3 < x.lmi) || decide (3 < x.lki) ||
  !((List.range 5).all fun v => (List.range 5).any fun s => decide (x.slot s = v)) ||
  (x.pair && decide (x.slot 4 ≠ 0)) ||
  [x.m, x.n, x.k, x.x0, x.x1, x.x2].any (fun e => decide (e = 0)) ||
  (decide (x.sparse = 0) && z 0x68 24) || (!isMx x.afmt && z 0x80 24) || (!isMx x.wfmt && z 0x98 24) ||
  (!x.lm && decide (x.lenM ≠ 0)) || (!x.lk && decide (x.lenK ≠ 0)) || (!x.zb && decide (x.zbBase ≠ 0)) ||
  (!x.mk' && decide (x.maskBase ≠ 0)) || (!x.cplEn && decide (x.cpl ≠ 0))

/-- A completion word that may be written (R218, R219). -/
def TDesc.cplAligned (x : TDesc) : Bool := !x.cplEn || decide (x.cpl % 4 = 0)

/-- TP_ALIGN (R200, R212, R218). -/
def TDesc.misaligned (x : TDesc) : Bool :=
  decide (x.m % 16 ≠ 0) || decide (x.n % 64 ≠ 0) || decide (x.k % (64 * x.f) ≠ 0) ||
  (x.refs.any fun p => decide (p.1.base % 128 ≠ 0) || decide (p.1.pitch % 128 ≠ 0) || decide (p.1.pitch < p.2.2.1)) ||
  (x.lm && decide (x.lenM % 4 ≠ 0)) || (x.lk && decide (x.lenK % 4 ≠ 0)) || (x.zb && decide (x.zbBase % 4 ≠ 0)) ||
  (x.mk' && decide (x.maskBase % 4 ≠ 0)) || !x.cplAligned

/-- MX_FORMAT (R155, R156, R176, R205). -/
def TDesc.badFormat (x : TDesc) : Bool :=
  !weightOk x.wfmt x.sparse || !(decide (1 ≤ x.afmt) && decide (x.afmt ≤ 0xB)) ||
  match mxPair x.wfmt x.afmt with
  | none => true
  | some int =>
    if x.mode = 0 then
      !(decide (x.ofmt ≤ 4) || decide (x.ofmt = 0xC)) || decide (int ≠ decide (x.ofmt = 0xC)) || !rmDrainOk x.ofmt x.rm
    else int || !((decide (x.ofmt = 0) && decide (x.rm = 0)) || (decide (x.ofmt = 2) && (decide (x.rm = 0) || decide (x.rm = 4))))

/-- The start checks of a descriptor, in the order of R219. -/
def startCheck (s : State) (run : RunCtx) (blk : Block) (x : TDesc) : Option Nat :=
  let dev := x.foots.filter fun p => !isSp p.1
  let sp := x.foots.filter fun p => isSp p.1
  let at' := fun a => s.targetB a
  let redBad := decide (x.mode ≠ 0) && (isSp x.o.base ||
    match x.foots[2]? with
    | some (a, n, _) => !(at' a).isHbm || decide (at' a ≠ at' (a + n - 1))
    | none => true)
  if x.bad then some 0x30
  else if x.misaligned then some 0x31
  else if x.badFormat then some 0x21
  else if (dev.any fun p => decide (at' p.1 = .host) || decide (at' (p.1 + p.2.1 - 1) = .host)) || redBad then some 0x20
  else if (sp.any fun p => !blk.spOk p.1 p.2.1) || (x.cplEn && isSp x.cpl && decide (bits x.cpl 62 32 ≠ 0)) then some 0x11
  else if dev.any fun p => !run.winOk p.1 p.2.1 p.2.2 then some 0x14
  else none

def Brick.modTp (b : Brick) (f : TpRun → TpRun) : Brick := { b with tp := { b.tp with run := b.tp.run.map f } }

/-- The queue entry of the running program. -/
def MxKind.isTile : MxKind → Bool
  | .tile _ _ => true
  | _ => false

/-- The number under which the sequencer reads for one access: its kind, unit and K-step. -/
def tpWho (kind unit step : Nat) : Nat := tileUnit + ((unit * 2 ^ 32 + step) * 4 + kind)

/-- The sequencer gives up the lines that it has read for some accesses. -/
def State.tpFree (s : State) (br : BrickRef) (p : Nat → Bool) : State :=
  s.modBrick br fun b => b.portFree fun e => decide (tileUnit ≤ e.who) && p e.who

/-- The descriptor as scratchpad or the descriptor cache holds it (R257). -/
def Brick.tpHeld (b : Brick) (pb block addr : Nat) : Option (BitVec 2048) :=
  if isSp addr then (sfind b.blocks block).bind fun k =>
    if k.spOk addr 256 then some (BitVec.ofNat 2048 (k.spRd pb (addr % 2 ^ 32) 256)) else none
  else sfind b.dcache (addr / 128)

/-- A failure of the descriptor's own address (R192, R219). DESIGN CHOICE, unsafe: R219 and R200 give no window check for the 256 bytes
of the descriptor itself, and none is made here (log entry 63). -/
def tpAddrFault (s : State) (addr : Nat) : Option Nat :=
  if addr % 128 ≠ 0 then some 0x31
  else if !isSp addr && decide (s.targetB addr = .host) then some 0x20
  else none

/-- A tile program's entry starts (R193, R194, R222): it holds the array, the width is sampled, the counts restart, and the descriptor
is read: at once where scratchpad or the descriptor cache holds it, else the read leaves now (log entry 64). -/
def tpEntryStartOn (br : BrickRef) (s : State) : Res :=
  match (s.brick br).mx.next MxKind.isTile with
  | some e => match e.kind with
    | .tile h a =>
      let raw := (s.brick br).tpHeld (pbid br) e.block a
      let s := s.modBrick br fun b => { b.mxRun e.id with
        romru := if raw.isSome && !isSp a then sset b.romru 200 (a / 128 + 1) else b.romru
        engErr := b.engErr.filter fun p => decide (p.1 ≠ tileUnit)
        tp := { b.tp with
          run := some ⟨BitVec.ofNat 32 h, e.block, e.gid, a, s.width br, raw, none, 0, none, none, [], 0, [], 0, false, 0, false, false⟩
          ksRun := 0, ksSkip := 0, tlDrain := 0, tlSkip := 0 } }
      .next (if raw.isSome || (tpAddrFault s a).isSome then s else (imgAsk s br tileUnit e.block [(a, 256)]).1)
    | _ => .next s
  | none => .next s

/-- A program ends with a failure (R219): no further tile is started. -/
def tpStop (br : BrickRef) (code : Nat) (s : State) : State :=
  (s.modBrick br fun b => b.modTp fun r => { r with result := code, ended := true, cur := none, next := none, staged := [] }).tpFree br
    fun _ => true

/-- The descriptor cache of 32 entries takes a descriptor (R255, R257): `none` when it is full and `victim` may not be replaced. -/
def Brick.dcPut (b : Brick) (line victim : Nat) (d : BitVec 2048) : Option Brick :=
  (roRoom b.dcache 1 32 (sget 0 b.romru 200) line [victim]).map fun c =>
    { b with dcache := sset c line d, romru := sset b.romru 200 (line + 1) }

/-- Work of the program lies in its block's scratchpad (R56): a tensor, control data or the completion word. -/
def TDesc.inScratch (x : TDesc) : Bool := (x.foots.any fun p => isSp p.1) || (x.cplEn && isSp x.cpl)

/-- The descriptor has arrived and the start checks run (R219); from now on the program names its block's scratchpad only where the
descriptor does (R56, log entry 56). -/
def tpChecked (br : BrickRef) (ctx : RunCtx) (r : TpRun) (d : BitVec 2048) (s : State) : State :=
  let x := tdesc d.toNat
  let s := s.modBrick br fun b => { b with
    ops := b.ops.map fun (p : Nat × OpEntry) => if p.2.handle = r.handle && p.2.status.isNone then (p.1, { p.2 with names := x.inScratch }) else p }.modTp
      fun r => { r with desc := some d, cplOk := x.cplEn && x.cplAligned }
  match startCheck s ctx ((sfind (s.brick br).blocks r.block).getD Block.init) x with
  | some c => tpStop br c s
  | none => s.modBrick br Brick.freeBlocks

/-- The descriptor arrives (R192, R194, R257). -/
def tpDescriptorArrivalOn (br : BrickRef) (victim : Nat) (s : State) : Res :=
  match (s.brick br).tp.run, (s.brick br).run with
  | some r, some ctx =>
    if r.desc.isSome || r.ended then .next s
    else match tpAddrFault s r.addr, r.raw with
      | some c, _ => .next (tpStop br c s)
      | none, some d => .next (tpChecked br ctx r d s)
      | none, none => match imgRead s br tileUnit r.block r.addr 256 with
        | .wait s => .next s
        | .fail s c => .next (tpStop br c s)
        | .done s v => match (s.brick br).dcPut (r.addr / 128) victim (BitVec.ofNat 2048 v) with
          | none => .next s
          | some b => .next (tpChecked br ctx r (BitVec.ofNat 2048 v) ((s.setBrick br b).tpFree br fun w => decide (w = tileUnit)))
  | _, _ => .next s

/-- The number of steps of an ORDER value: M-tiles (or pairs of them), N-tiles, outer indices. -/
def TDesc.span (x : TDesc) (width v : Nat) : Nat :=
  match v with
  | 0 => if x.pair then cdiv x.mt 2 else x.mt
  | 1 => cdiv x.n width
  | 2 => x.x0
  | 3 => x.x1
  | _ => x.x2

/-- The index that value v of ORDER has in unit n of the nest, slot 0 outermost (R204). -/
def TDesc.index (x : TDesc) (width n v : Nat) : Nat :=
  let inner := (List.range 5).foldl (fun a s =>
    if (List.range s).any fun t => decide (x.slot t = v) then a * x.span width (x.slot s) else a) 1
  n / inner % x.span width v

/-- Units of the nest. -/
def TDesc.units (x : TDesc) (width : Nat) : Nat := (List.range 5).foldl (fun a v => a * x.span width v) 1

/-- The control data of the tiles of a unit (R212 to R214). -/
structure TpCtl where
  mlen : Nat
  klen : Nat
  clamp : Bool
  mask : Nat
  zb : Nat

/-- The control data of the tiles of a unit: the M and K lengths with the clamp flag, the mask and the bitmap of its outer index (R212
to R214). DESIGN CHOICE, unsafe: R214 does not say how much of L's mask and bitmap one tile's read covers; here it covers both whole, so
a sector that cannot be read fails a tile even where it holds only other tiles' bits (log entry 63). -/
def tpControl (br : BrickRef) (r : TpRun) (x : TDesc) (o0 o1 o2 : Nat) (s : State) : State × Option (Except Nat TpCtl) :=
  let dim := fun i => if i = 1 then o0 else if i = 2 then o1 else if i = 3 then o2 else 0
  let l := (o0 * x.x1 + o1) * x.x2 + o2
  let on := fun (en : Bool) (a n : Nat) => if en then (a, n) else (0, 0)
  let z := imgReads s br (tpWho 1 r.unit 0) r.block
    [on x.lm (x.lenM + 4 * dim x.lmi) 4, on x.lk (x.lenK + 4 * dim x.lki) 4,
     on x.mk' (x.maskBase + l * x.maskPitch) (cdiv x.m 8), on x.zb (x.zbBase + l * x.zbPitch) (cdiv (x.m / 16 * x.kt) 8)]
  (z.1, z.2.map fun v => v.map fun c =>
    let vm := c.getD 0 0
    let vk := c.getD 1 0
    { mlen := if x.lm then min vm x.m else x.m, klen := if x.lk then min vk x.k else x.k
      clamp := (x.lm && decide (x.m < vm)) || (x.lk && decide (x.k < vk))
      mask := if x.mk' then c.getD 2 0 else 2 ^ x.m - 1, zb := c.getD 3 0 })

/-- One output tile under its control data: `none` when it is skipped whole (R209), else its active rows and the K-steps
it skips (R210). -/
def tpTile (x : TDesc) (c : TpCtl) (i : Nat) : Option (List Nat × List Nat) :=
  let r0 := x.tm * i
  let rows := (List.range (min (r0 + x.tm) x.m - r0)).map (· + r0)
  let act := rows.filter fun r => c.mask.testBit r
  if (x.lm && decide (c.mlen ≤ r0)) || (x.mk' && act.isEmpty) then none
  else
    let units := uniq ((act.filter fun r => decide (r < c.mlen)).map (· / 16))
    some (act, (List.range x.kt).filter fun t =>
      (x.lk && decide (c.klen ≤ 64 * x.f * t)) || (x.zb && units.all fun u => c.zb.testBit (u * x.kt + t)))

/-- The K-steps a unit runs: those that some tile does not skip. -/
def TpUnit.runs (u : TpUnit) (t : Nat) : Bool := u.tiles.any fun k => !k.skip.contains t

/-- The next K-step of a unit from one on. -/
def TpUnit.step (u : TpUnit) (kt from' : Nat) : Option Nat :=
  (List.range kt).find? fun t => decide (from' ≤ t) && u.runs t

/-- The drain of a tile of a unit. -/
def TpUnit.drain (u : TpUnit) (t : TpTile) : TpDrain := ⟨u.num, t.i, u.j, u.o0, u.o1, u.o2, t.half, t.rows, !t.started⟩

/-- K-steps from one on and below another that the tiles of a unit skip (R222). -/
def TpUnit.skips (u : TpUnit) (from' to' : Nat) : Nat :=
  u.tiles.foldl (fun a k => a + (k.skip.filter fun t => decide (from' ≤ t) && decide (t < to')).length) 0

/-- The drains of tiles whose K-steps have all accumulated: a tile of a reduction mode that ran no step has none (R211). -/
def TpUnit.drains (u : TpUnit) (x : TDesc) (ts : List TpTile) : List TpDrain :=
  (if x.mode = 0 then ts else ts.filter TpTile.started).map u.drain

/-- Tiles whose K-steps have all accumulated: their steps are counted, they go to their drains, or are skipped tiles of a reduction mode
(R204, R211, R222). -/
def Brick.tpDone (b : Brick) (x : TDesc) (u : TpUnit) (ts : List TpTile) : Brick :=
  let ds := u.drains x ts
  { b with tp := { b.tp with
      tlSkip := satAdd 32 b.tp.tlSkip (ts.length - ds.length)
      ksSkip := satAdd 32 b.tp.ksSkip (({ u with tiles := ts } : TpUnit).skips u.kstep x.kt) } }.modTp fun r =>
    { r with drains := r.drains ++ ds }

/-- When the current unit has no further step, its tiles go to their drains and the following unit becomes current (R204). -/
def tpAdvance (x : TDesc) : Nat → Brick → Brick
  | 0, b => b
  | n + 1, b => match b.tp.run with
    | none => b
    | some r => match r.cur with
      | none => match r.next with
        | none => b
        | some u => tpAdvance x n (b.modTp fun r => { r with cur := some u, next := none })
      | some u =>
        if u.err.isSome || (u.step x.kt u.kstep).isSome then b
        else tpAdvance x n ((b.tpDone x u u.tiles).modTp fun r => { r with cur := none })

/-- The control data of the next unit arrive (R209 to R214): no earlier than the first K-step of the unit before. DESIGN CHOICE, unsafe:
R214 does not say when the control data of the second tile of a pair are read; here one read before the pair's first step serves both
tiles (log entry 63). -/
def tpControlDataArrivalOn (br : BrickRef) (s : State) : Res :=
  match (s.brick br).tp.run with
  | none => .next s
  | some r => match r.desc with
    | none => .next s
    | some d =>
      let x := tdesc d.toNat
      let early := match r.cur with
        | some u => !(u.tiles.any TpTile.started) || u.err.isSome
        | none => false
      if r.ended || early || r.next.isSome || decide (x.units r.width ≤ r.unit) then .next s
      else
        let ix := x.index r.width r.unit
        let u : TpUnit := ⟨r.unit, ix 1, ix 2, ix 3, ix 4, [], 0, none⟩
        match tpControl br r x (ix 2) (ix 3) (ix 4) s with
        | (s, none) => .next s
        | (s, some (.error c)) => .next ((s.tpFree br fun w => decide (w = tpWho 1 r.unit 0)).modBrick br fun b =>
            tpAdvance x 2 (b.modTp fun r => { r with unit := r.unit + 1, next := some { u with err := some c } }))
        | (s, some (.ok c)) =>
          let is := if x.pair then [2 * ix 0, 2 * ix 0 + 1].filter fun i => decide (i < x.mt) else [ix 0]
          let ts := is.filterMap fun i => (tpTile x c i).map fun p => (i, p.1, p.2)
          let tiles : List TpTile := ts.zipIdx.map fun p =>
            ⟨p.1.1, if x.pair then p.2 else (r.parity + p.2) % 2, p.1.2.1, p.1.2.2, false⟩
          .next ((s.tpFree br fun w => decide (w = tpWho 1 r.unit 0)).modBrick br fun b =>
            tpAdvance x 4 ({ b with tp := { b.tp with tlSkip := satAdd 32 b.tp.tlSkip (is.length - ts.length) } }.modTp fun r =>
              { r with unit := r.unit + 1, clamp := r.clamp || c.clamp
                       parity := if x.pair then 0 else (r.parity + ts.length) % 2
                       next := if tiles.isEmpty then none else some { u with tiles := tiles } }))

/-- The first K-step that is not yet staged. -/
def TpRun.stageNext (r : TpRun) (kt : Nat) : Option (TpUnit × Nat) :=
  ([r.cur, r.next].filterMap id).findSome? fun u =>
    if u.err.isSome then none
    else ((List.range kt).find? fun t => decide (u.kstep ≤ t) && u.runs t &&
      !(r.staged.any fun g => decide (g.num = u.num) && decide (g.kstep = t))).map fun t => (u, t)

/-- Columns of an N-tile (R203). -/
def TDesc.cols (x : TDesc) (width j : Nat) : Nat := min (width * (j + 1)) x.n - width * j

/-- Values of n bytes each, one after the other. -/
def joinBytes (n : Nat) (vs : List Nat) : Nat := (vs.zipIdx.foldl (fun a p => a + p.1 <<< (8 * n * p.2)) 0)

/-- Records the failure of an access for a unit (R219). -/
def tpFail (br : BrickRef) (num code : Nat) (s : State) : State :=
  s.modBrick br fun b => b.modTp fun r =>
    let f := fun (u : TpUnit) => if u.num = num then { u with err := some code } else u
    { r with cur := r.cur.map f, next := r.next.map f }

/-- The weight tile of a K-step, with its indices and scales (R199, R201, R215). -/
def tpWeights (br : BrickRef) (r : TpRun) (x : TDesc) (u : TpUnit) (t : Nat) (s : State) : State × Option (Except Nat WTile) :=
  let c := x.cols r.width u.j
  let n := 8 * fmtWidth x.wfmt
  let part := fun (on : Bool) (g : TRef) (o n : Nat) =>
    if on then (List.range c).map fun i => (g.row u.o0 u.o1 u.o2 (r.width * u.j + i) + o, n) else []
  let recs := part true x.w (t * n) n
  let idx := part (decide (x.sparse ≠ 0)) x.ix (32 * t) 32
  let scales := part (isMx x.wfmt) x.ws (2 * t) 2
  let z := imgReads s br (tpWho 2 u.num t) r.block (recs ++ idx ++ scales)
  (z.1, z.2.map fun v => v.bind fun l =>
    match parseWeights x.wfmt x.sparse c (joinBytes n (l.take c)) (joinBytes 2 (l.drop (c + idx.length)))
        (joinBytes 32 ((l.drop c).take idx.length)) with
    | none => .error 0x22
    | some w => .ok w)

/-- A weight tile fills a free staging half (R199, R201, R204, R215); with none before it, it goes on into the back registers, whatever
they hold. -/
def tpStagingFillOn (br : BrickRef) (s : State) : Res :=
  match (s.brick br).tp.run with
  | none => .next s
  | some r => match r.desc with
    | none => .next s
    | some d =>
      let x := tdesc d.toNat
      match (if 2 ≤ r.staged.length ∨ r.ended then none else r.stageNext x.kt) with
      | none => .next s
      | some (u, t) =>
        let free := fun (s : State) => s.tpFree br fun w => decide (w = tpWho 2 u.num t)
        match tpWeights br r x u t s with
        | (s, none) => .next s
        | (s, some (.error e)) => .next (tpFail br u.num e (free s))
        | (s, some (.ok w)) => .next ((free s).modBrick br fun b =>
            let b := b.modTp fun r => { r with staged := r.staged ++ [⟨u.num, t, w⟩] }
            ((if r.staged.isEmpty then b.modMx fun m => { m with back := w } else b).adv 4).adv 5)

/-- The rows that a K-step streams, tile by tile, with their records and scale bytes as ranges of bytes (R199, R204, R211). -/
def tpRows (x : TDesc) (u : TpUnit) (t : Nat) (on : List TpTile) : List ((TpTile × Nat) × (Nat × Nat) × Nat × Nat) :=
  let n := 8 * fmtWidth x.afmt * x.f
  on.flatMap fun k => k.rows.map fun row =>
    ((k, row), (x.a.row u.o0 u.o1 u.o2 row + t * n, n), if isMx x.afmt then (x.as'.row u.o0 u.o1 u.o2 row + 2 * t, 2) else (0, 0))

/-- The halves after a K-step (R204, R208): a tile's first step zeroes its half, and each row is accumulated. DESIGN CHOICE, unsafe: the
extent that a half shows while a program runs is TM rows, even for a short last M-tile, since no rule states it (log entry 63). -/
def tpStreams (x : TDesc) (c : Nat) (w : WTile) (int : Bool) (on : List TpTile) (rows : List (TpTile × Nat)) (vs : List Nat)
    (hs : Half × Half) : Half × Half :=
  let atHalf := fun (k : TpTile) (f : Half → Half) (hs : Half × Half) => if k.half = 0 then (f hs.1, hs.2) else (hs.1, f hs.2)
  let hs := on.foldl (fun hs k => if k.started then hs else atHalf k (fun _ => ⟨int, x.tm, []⟩) hs) hs
  rows.zipIdx.foldl (fun hs p =>
    atHalf p.1.1 (rowInto w c x.afmt int (p.1.2 - x.tm * p.1.1.i) (vs.getD (2 * p.2) 0) (vs.getD (2 * p.2 + 1) 0)) hs) hs

/-- The swap of a K-step (R154, R204, R215): front and back registers are exchanged, and a tile that waits in staging goes on into the back
registers as the exchange passes. -/
def Mx.tpSwap (m : Mx) (rest : List TpStage) : Mx :=
  { m with front := m.back, back := match rest with
      | n :: _ => n.tile
      | [] => m.front }

/-- A K-step (R204, R208, R211): the staged tile is swapped in and the rows of each tile that does not skip the step are
streamed. It waits until the drains that still read its halves have been made. -/
def tpKstepOn (br : BrickRef) (s : State) : Res :=
  match (s.brick br).tp.run with
  | none => .next s
  | some r => match r.desc, r.cur with
    | some d, some u =>
      let x := tdesc d.toNat
      match u.step x.kt u.kstep, r.staged with
      | some t, g :: rest =>
        let on := u.tiles.filter fun k => !k.skip.contains t
        let clear := on.all fun k => k.started || !(r.drains.any fun q => decide (q.half = k.half))
        if u.err.isSome || r.ended || decide (g.num ≠ u.num) || decide (g.kstep ≠ t) || !clear then .next s
        else
          let int := (mxPair x.wfmt x.afmt).getD false
          let rows := tpRows x u t on
          let who := tpWho 3 u.num t
          let free := fun (s : State) => s.tpFree br fun w => decide (w = who)
          match imgReads s br who r.block (rows.flatMap fun p => [p.2.1, p.2.2]) with
          | (s, none) => .next s
          | (s, some (.error e)) => .next (tpFail br u.num e (free s))
          | (s, some (.ok vs)) => .next ((free s).modBrick br fun b =>
              let hs := tpStreams x (x.cols r.width u.j) g.tile int on (rows.map Prod.fst) vs (b.mx.h0, b.mx.h1)
              let b := b.modMx fun m => { m.tpSwap rest with h0 := hs.1, h1 := hs.2 }
              let b := { b with tp := { b.tp with
                ksRun := satAdd 32 b.tp.ksRun on.length, ksSkip := satAdd 32 b.tp.ksSkip (u.skips u.kstep (t + 1)) } }
              let b := b.modTp fun r => { r with
                staged := rest
                cur := some { u with
                  kstep := t + 1
                  tiles := u.tiles.map fun k =>
                    if k.skip.contains t then k else { k with started := true } } }
              ((tpAdvance x 4 b).advRows rows.length).adv 5)
      | _, _ => .next s
    | _, _ => .next s

/-- The reduction requests of one row of a tile: one per line, FP32 values and an element mask (R205, R300). -/
def tpReduceRow (br : BrickRef) (r : TpRun) (x : TDesc) (q : TpDrain) (row : Nat) (h : Half) (s : State) : State :=
  let eb := fmtWidth x.ofmt / 8
  let c := x.cols r.width q.j
  let base := x.o.row q.o0 q.o1 q.o2 row + r.width * q.j * eb
  let per := 128 / eb
  let lines := uniq ((List.range c).map fun n => (base + n * eb) / 128)
  let s := lines.foldl (fun (s : State) (line : Nat) =>
    let e := fun (i : Nat) => ((line * 128 + i * eb : Nat) : Int) - base
    let on := fun i => decide (0 ≤ e i) && decide (e i / eb < c)
    let t := ((s.targetB (line * 128)).home?).getD br.t
    s.modMem t fun m => { m with redQ := m.redQ ++
      [⟨.tile br.t br.s.val r.handle, line, decide (x.mode = 2), decide (x.ofmt = 2), decide (x.rm = 4),
        (List.range per).foldl (fun a i => if on i then a + 2 ^ i else a) 0,
        (List.range per).map (fun i =>
          if on i then sget 0 h.acc ((row - x.tm * q.i) * 64 + (e i / eb).toNat) else 0),
        (brickAgent br 0).charged t, none⟩] }) s
  s.modBrick br fun b => (List.range ((base + c * eb - 1) / 32 - base / 32 + 1)).foldl (fun (b : Brick) i =>
    b.l1Store (base / 32 + i) 0 0 true) b

/-- Reduction requests of a program that no home has performed yet. -/
def State.redOf (s : State) (br : BrickRef) (h : R32) : Bool :=
  [TowerId.t0, .t1].any fun t => (s.tw t).mem.redQ.any fun q => decide (q.src = .tile br.t br.s.val h)

/-- A failed reduction of a program. -/
def State.redFail (s : State) (br : BrickRef) (h : R32) : Option Nat :=
  [TowerId.t0, .t1].findSome? fun t =>
    ((s.tw t).mem.redErr.find? fun q => decide (q.1 = .tile br.t br.s.val h)).map Prod.snd

/-- The active rows of a tile written to O, one after the other (R201, R205, R206), up to the first that cannot be sent. -/
def tpDrainRows (br : BrickRef) (r : TpRun) (x : TDesc) (q : TpDrain) (h : Half) (s : State) : State × Option Nat :=
  q.rows.foldl (fun (a : State × Option Nat) row => match a with
    | (s, none) =>
      let v := drainRow x.ofmt x.rm (x.cols r.width q.j) (fun n => sget 0 h.acc ((row - x.tm * q.i) * 64 + n)) (s.brick br).sr
      imgWrite (s.modBrick br fun b => { b with sr := v.2.2 }) br tileUnit r.gid r.block
        (x.o.row q.o0 q.o1 q.o2 row + r.width * q.j * fmtWidth x.ofmt / 8) v.1.2 v.1.1
    | a => a) (s, none)

/-- What the sequencer has sent of its last drain is performed at device scope, or has failed (R218). -/
def State.tpSettled (s : State) (br : BrickRef) (h : R32) : Bool := (s.brick br).portDone tileUnit 2 && !s.redOf br h

/-- The failure of the last drain: of a line, or of a reduction. -/
def State.tpLost (s : State) (br : BrickRef) (h : R32) : Option Nat := ((s.brick br).portErr tileUnit).orElse fun _ => s.redFail br h

/-- The oldest accumulated tile is drained to O, row by row (R176, R201, R205, R206), or its rows are sent to the home slices, once what
an earlier tile has sent is performed: a failure then belongs to one tile (R219). -/
def tpTileDrainOn (br : BrickRef) (s : State) : Res :=
  match (s.brick br).tp.run with
  | none => .next s
  | some r => match r.desc, r.drains with
    | some d, q :: rest =>
      let x := tdesc d.toNat
      let int := (mxPair x.wfmt x.afmt).getD false
      let h : Half := if q.zero then ⟨int, x.tm, []⟩ else (s.brick br).mx.half q.half
      if !s.tpSettled br r.handle || (s.tpLost br r.handle).isSome then .next s
      else
        let z : State × Option Nat :=
          if x.mode = 0 then tpDrainRows br r x q h s
          else if q.rows.all fun row => (s.tw br.t).kwinOk (x.o.row q.o0 q.o1 q.o2 row + r.width * q.j * fmtWidth x.ofmt / 8)
            (x.cols r.width q.j * fmtWidth x.ofmt / 8) then (q.rows.foldl (fun s row => tpReduceRow br r x q row h s) s, none)
          else (s, some 0x13)
        .next (z.1.modBrick br fun b =>
          ({ b with
            engErr := b.engErr ++ (z.2.map fun c => (tileUnit, c)).toList
            tp := { b.tp with tlDrain := satAdd 32 b.tp.tlDrain 1 } }.modTp fun r =>
              { r with drains := rest, drained := satAdd 23 r.drained 1 }).adv 4 |>.adv 5)
    | _, _ => .next s

/-- The last drain has failed (R219): its tile does not count, and later tiles write nothing. -/
def tpDrainFails (br : BrickRef) (r : TpRun) (code : Nat) (s : State) : State :=
  let drop := fun (m : MemSys) => { m with
    redQ := m.redQ.filter (fun q => decide (q.src ≠ .tile br.t br.s.val r.handle))
    redErr := m.redErr.filter fun q => decide (q.1 ≠ .tile br.t br.s.val r.handle) }
  (((s.modMem .t0 drop).modMem .t1 drop).modBrick br fun b =>
    { b.portClear tileUnit with tp := { b.tp with tlDrain := b.tp.tlDrain - 1 } }.modTp fun r =>
      { r with drains := [], cur := none, next := none, staged := [], ended := true, drained := r.drained - 1
               result := if r.result = 0 then code else r.result }).tpFree br fun _ => true

/-- Tiles of a failing unit whose K-steps had all accumulated before: the first of a pair, when the failing access served the second
alone (R219). -/
def TpUnit.complete (u : TpUnit) (x : TDesc) : List TpTile :=
  u.tiles.takeWhile fun k => (List.range x.kt).all fun t => decide (t < u.kstep) || k.skip.contains t

/-- A running failure takes effect (R219): that of a drain, once everything it sent has its answer; or that of a tile, once every earlier
unit has accumulated. Later tiles write nothing and earlier ones are drained. -/
def tpRunningFailureOn (br : BrickRef) (s : State) : Res :=
  match (s.brick br).tp.run with
  | none => .next s
  | some r => match s.tpLost br r.handle with
    | some c => .next (if (s.brick br).portDone tileUnit 2 then tpDrainFails br r c s else s)
    | none => match r.cur, r.desc with
      | some u, some d => match u.err with
        | some c =>
          let x := tdesc d.toNat
          .next (tpStop br c (s.modBrick br fun b => b.tpDone x u (u.complete x)))
        | none => .next s
      | _, _ => .next s

/-- Whether a program has nothing left to do: it has ended, or every unit is done; drains and reductions are performed. -/
def State.tpDone (s : State) (br : BrickRef) (r : TpRun) : Bool :=
  let all := match r.desc with
    | some d => r.cur.isNone && r.next.isNone && decide ((tdesc d.toNat).units r.width ≤ r.unit)
    | none => false
  (r.ended || all) && r.drains.isEmpty && s.tpSettled br r.handle && (s.tpLost br r.handle).isNone

/-- The status word of R218. -/
def TpRun.word (r : TpRun) : R32 :=
  BitVec.ofNat 32 (2 ^ 31 + r.result % 128 * 2 ^ 24 + (if r.clamp then 2 ^ 23 else 0) + r.drained % 2 ^ 23)

/-- A program completes (R195, R218 to R220): the status word is formed and sent to CPL_ADDR, the entry is recorded,
and the array is left as at a launch's start. A completion word that cannot be written is lost. -/
def tpCompleteOn (br : BrickRef) (s : State) : Res :=
  match (s.brick br).tp.run with
  | none => .next s
  | some r =>
    if !s.tpDone br r then .next s
    else
      let w := r.word
      let id := (((s.brick br).mx.running MxKind.isTile).map MxEntry.id)
      let s := match r.desc with
        | some d => if r.cplOk then (imgWrite s br wordUnit r.gid r.block (tdesc d.toNat).cpl 4 w.toNat).1 else s
        | none => s
      let s := (s.tpFree br fun _ => true).modBrick br fun b =>
        let b := { b with
          tp := { b.tp with run := none, lastHandle := r.handle, lastResult := r.result, lastClamp := r.clamp }
          mx := { b.mx with front := WTile.empty, back := WTile.empty, h0 := Half.empty, h1 := Half.empty, batchTile := none } }
        match id with
        | some i => b.mxDone i
        | none => b
      .next (opComplete br r.handle w s)

/-! The commands, with the stop of the clocks and the engine records. -/

/-- `TP_COMPLETE`, held while the tower's clocks are stopped (R600, R602). -/
def execTpComplete (br : BrickRef) (s : State) : Res :=
  gate br.t (tpCompleteOn br) s

/-- `TP_CONTROL_DATA_ARRIVAL`, held while the tower's clocks are stopped (R600, R602). -/
def execTpControlDataArrival (br : BrickRef) (s : State) : Res :=
  gate br.t (tpControlDataArrivalOn br) s

/-- `TP_DESCRIPTOR_ARRIVAL`, held while the tower's clocks are stopped (R600, R602). -/
def execTpDescriptorArrival (br : BrickRef) (victim : Nat) (s : State) : Res :=
  gate br.t (tpDescriptorArrivalOn br victim) s

/-- `TP_ENTRY_START`, held while the tower's clocks are stopped (R600, R602). -/
def execTpEntryStart (br : BrickRef) (s : State) : Res :=
  gate br.t (tpEntryStartOn br) s

/-- `TP_KSTEP`, held while the tower's clocks are stopped (R600, R602). -/
def execTpKstep (br : BrickRef) (s : State) : Res :=
  gate br.t (unthrottled ((s.tw br.t).withheld br.s.val) (tpKstepOn br)) s

/-- `TP_RUNNING_FAILURE`, held while the tower's clocks are stopped (R600, R602). -/
def execTpRunningFailure (br : BrickRef) (s : State) : Res :=
  gate br.t (tpRunningFailureOn br) s

/-- `TP_STAGING_FILL`, held while the tower's clocks are stopped (R600, R602). -/
def execTpStagingFill (br : BrickRef) (s : State) : Res :=
  gate br.t (unthrottled ((s.tw br.t).withheld br.s.val) (tpStagingFillOn br)) s

/-- `TP_TILE_DRAIN`, held while the tower's clocks are stopped (R600, R602). -/
def execTpTileDrain (br : BrickRef) (s : State) : Res :=
  gate br.t (tpTileDrainOn br) s

end Sys2Proof.Machine
end

