-- ==== Sys2Proof/Machine/Route.lean ====
section
/-! DEFINITION. The route units (R223 to R245): descriptors, dispatch, combine, results. -/

namespace Sys2Proof.Machine

open Sys2Proof

def Tower.route (x : Tower) (c : Nat) : RtUnit := sget RtUnit.init x.routes c
def Tower.modRoute (x : Tower) (c : Nat) (f : RtUnit → RtUnit) : Tower := { x with routes := smod RtUnit.init x.routes c f }
def State.modRun (s : State) (t : TowerId) (c : Nat) (f : RtRun → RtRun) : State :=
  s.modTw t fun x => x.modRoute c fun u => { u with run := u.run.map f }

/-- `rt.issue` enters the course's queue of 16 (R224). -/
def execRtIssue (g : GroupRef) (w : IWord) (s : State) : Res :=
  engIssue 0xD1 2 (fun x h a s =>
    let c := g.b.s.val / 24
    let u := (s.tw g.b.t).route c
    if 16 ≤ u.load then none
    else some (s.modTw g.b.t fun y => (y.modRtr fun r => { r with nextJob := r.nextJob + 1 }).modRoute c fun u =>
      { u with q := u.q ++ [⟨y.rtr.nextJob, h, g.b.s, x.grp.block, x.run.launch, x.grp.gid, x.blk.clusterId, a⟩] })) g w s

def RtJob.br (j : RtJob) (t : TowerId) : BrickRef := ⟨t, j.slice⟩

/-- Fields of a route descriptor (R226, R227). -/
def rOp (d : Nat) : Nat := bits d 55 54
def rPad (d : Nat) : Nat := 16 * (bits d 52 51 + 1)
def rNoMap (d : Nat) : Bool := d.testBit 50
def rCplEn (d : Nat) : Bool := d.testBit 49
def rIfmt (d : Nat) : Nat := bits d 48 45
def rOfmt (d : Nat) : Nat := bits d 44 41
def rRm (d : Nat) : Nat := bits d 40 38
def rGate (d : Nat) : Nat := dbytes d 0x08 8
def rTokens (d : Nat) : Nat := dbytes d 0x10 4
def rExperts (d : Nat) : Nat := dbytes d 0x14 2
def rTopk (d : Nat) : Nat := dbytes d 0x16 1
def rSrc (d : Nat) : Nat := dbytes d 0x18 8
def rSrcPitch (d : Nat) : Nat := dbytes d 0x20 4
def rRow (d : Nat) : Nat := dbytes d 0x24 4
def rTable (d : Nat) : Nat := dbytes d 0x28 8
def rLen (d : Nat) : Nat := dbytes d 0x30 8
def rMap (d : Nat) : Nat := dbytes d 0x38 8
def rCpl (d : Nat) : Nat := dbytes d 0x40 8
def rSeed (d : Nat) : Nat := dbytes d 0x48 4
def rDst (d : Nat) : Nat := dbytes d 0x50 8
def rDstPitch (d : Nat) : Nat := dbytes d 0x58 4
/-- Elements and bytes of an output row of combine (R236). -/
def rElems (d : Nat) : Nat := rRow d * 8 / fmtWidth (rIfmt d)
def rOutRow (d : Nat) : Nat := rElems d * fmtWidth (rOfmt d) / 8

/-- RT_DESC of the descriptor (R226, R227). -/
def rtBad (d : Nat) : Bool :=
  let z := fun (o n : Nat) => decide (dbytes d o n ≠ 0)
  let disp := decide (rOp d = 0)
  decide (bits d 63 56 ≠ 1) || decide (1 < rOp d) || decide (bits d 36 0 ≠ 0) || z 0x17 1 || z 0x4C 4 || z 0x5C 36 ||
  decide (rTokens d = 0) || decide (65536 < rTokens d) || decide (rExperts d = 0) || decide (1024 < rExperts d) ||
  decide (rTopk d = 0) || decide (8 < rTopk d) || decide (rRow d < 128) || decide (65536 < rRow d) || decide (rRow d % 128 ≠ 0) ||
  (!rCplEn d && decide (rCpl d ≠ 0)) ||
  (if disp then decide (bits d 48 37 ≠ 0) || z 0x50 12
   else d.testBit 53 || rNoMap d || z 0x18 12 || decide (2 < rIfmt d) || decide (2 < rOfmt d) ||
     !(decide (rRm d = 0) || (decide (rRm d = 4) && decide (rOfmt d ≠ 0))))

/-- RT_ALIGN of the descriptor (R226, R230). -/
def rtMisaligned (d : Nat) : Bool :=
  decide (rGate d % 8 ≠ 0) || decide (rTable d % 32 ≠ 0) || decide (rLen d % 4 ≠ 0) || decide (rMap d % 8 ≠ 0) ||
  decide (rCpl d % 4 ≠ 0) ||
  (if rOp d = 0 then decide (rSrc d % 128 ≠ 0) || decide (rSrcPitch d % 128 ≠ 0) || decide (rSrcPitch d < rRow d)
   else decide (rDst d % 128 ≠ 0) || decide (rDstPitch d % 128 ≠ 0) || decide (rDstPitch d < rOutRow d))

/-- Footprints: first byte, bytes, written (R230). The completion word comes last. -/
def rtFoots (d : Nat) : List (Nat × Nat × Bool) :=
  let n := 8 * rTokens d * rTopk d
  (if rOp d = 0 then
    [(rGate d, n, false), (rSrc d, (rTokens d - 1) * rSrcPitch d + rRow d, false), (rLen d, 4 * rExperts d, true)] ++
      (if rNoMap d then [] else [(rMap d, n, true)])
   else [(rMap d, n, false), (rDst d, (rTokens d - 1) * rDstPitch d + rOutRow d, true)]) ++
  (if rCplEn d then [(rCpl d, 4, true)] else [])

/-- The place of a footprint: MX_TARGET, SP_RANGE or WINDOW (R230, R242). -/
def placeFault (s : State) (run : RunCtx) (sp : Nat) (p : Nat × Nat × Bool) : Option Nat :=
  if isSp p.1 then
    if bits p.1 62 32 ≠ 0 ∨ sp < p.1 % 2 ^ 32 + p.2.1 then some 0x11 else none
  else if s.targetB p.1 = .host ∨ s.targetB (p.1 + p.2.1 - 1) = .host then some 0x20
  else if run.winOk p.1 p.2.1 p.2.2 then none else some 0x14

/-- The start checks (R242), in the order RT_DESC, RT_ALIGN, MX_TARGET, SP_RANGE, WINDOW. -/
def rtCheck (s : State) (run : RunCtx) (sp d : Nat) : Option Nat :=
  let fs := (rtFoots d).filterMap (placeFault s run sp) ++
    (if !isSp (rTable d) && decide (s.targetB (rTable d) = .host) then [0x20]
     else if isSp (rTable d) && (decide (bits (rTable d) 62 32 ≠ 0) || decide (sp < rTable d % 2 ^ 32 + 32 * rExperts d)) then [0x11]
     else [])
  if rtBad d then some 0x40
  else if rtMisaligned d then some 0x41
  else [0x20, 0x11, 0x14].find? fun c => fs.contains c

/-- The launch context of a job, while its launch is on the brick. -/
def State.rtCtx (s : State) (t : TowerId) (j : RtJob) : Option (RunCtx × Block) :=
  match (s.brick (j.br t)).run, sfind (s.brick (j.br t)).blocks j.block with
  | some r, some k => if r.launch = j.launch then some (r, k) else none
  | _, _ => none

/-- A route unit as an agent (R353). -/
def rtAgent (t : TowerId) (c : Nat) : Agent := ⟨t, 25, c⟩

/-- A route unit reads a block's scratchpad, or device memory coherently past the L1 (R225). What is uncorrectable is never delivered
(R384). -/
def rtReadAt (s : State) (t : TowerId) (c : Nat) (br : BrickRef) (block addr n : Nat) : ImgR :=
  if isSp addr then spRead s br block addr n
  else if !(s.tw t).kwinOk addr n then .fail s 0x13
  else match engReadBytes s (rtAgent t c) none addr n with
    | .wait s => .wait s
    | .done s (.error .uncorrectable) => .wait s
    | .done s (.error e) => .fail s e.code
    | .done s (.ok v) => .done s v

/-- A read in the issuing block's view. -/
def rtRead (s : State) (t : TowerId) (c : Nat) (j : RtJob) (addr n : Nat) : ImgR := rtReadAt s t c (j.br t) j.block addr n

/-- A route unit writes device memory, charged to master 25, or the issuing block's scratchpad. -/
def rtWrite (s : State) (t : TowerId) (c : Nat) (j : RtJob) (addr n v : Nat) : ImgR :=
  if isSp addr then
    match sfind (s.brick (j.br t)).blocks j.block with
    | some k => .done (s.modBrick (j.br t) fun b => { b with blocks := sset b.blocks j.block (k.spWr n (addr % 2 ^ 32) v) }) 0
    | none => .fail s 0x11
  else if !(s.tw t).kwinOk addr n then .fail s 0x13
  else match engWriteBytes s (rtAgent t c) addr n v with
    | .wait s => .wait s
    | .done s (some .uncorrectable) => .wait s
    | .done s (some e) => .fail s e.code
    | .done s none => .done s 0

/-- Fields of an address of the descriptor that lie in scratchpad (R56). -/
def rtInScratch (d : Nat) : Bool :=
  ((if rOp d = 0 then [rGate d, rSrc d, rTable d, rLen d] ++ (if rNoMap d then [] else [rMap d]) else [rTable d, rMap d, rDst d]) ++
    (if rCplEn d then [rCpl d] else [])).any isSp

/-- From here on the descriptor names its block's scratchpad, or no longer does (R56, log entry 56). -/
def State.rtNames (s : State) (t : TowerId) (j : RtJob) (v : Bool) : State := s.modBrick (j.br t) fun b =>
  { b with ops := b.ops.map fun (p : Nat × OpEntry) =>
      if p.2.handle = j.handle && p.2.status.isNone then (p.1, { p.2 with names := v }) else p }.freeBlocks

/-- A route unit starts the next descriptor of its queue and reads it once (R225, R230, R238). -/
def rtDescriptorStartOn (t : TowerId) (c : Fin 24) (s : State) : Res :=
  let u := (s.tw t).route c
  match u.run, u.q with
  | none, j :: rest =>
    let start := fun (s : State) (d : Nat) (ok : Bool) (e : Option Nat) => s.modTw t fun x => x.modRoute c fun u =>
      { u with q := rest, run := some ⟨j, d, if d ≠ 0 ∧ rOp d = 1 then 1 else 0, [], [], [], [], 0, none, none,
          srSeed (BitVec.ofNat 32 (rSeed d)), 0, false, false, ok, e, 0, false⟩ }
    match s.rtCtx t j with
    | none => .next (s.modTw t fun x => x.modRoute c fun u => { u with q := rest })
    | some (run, k) =>
      if j.addr % 128 ≠ 0 then .next (start s 0 false (some 0x41))
      else if !isSp j.addr && decide (s.targetB j.addr = .host) then .next (start s 0 false (some 0x20))
      else if isSp j.addr && (decide (bits j.addr 62 32 ≠ 0) || decide (k.spBytes < j.addr % 2 ^ 32 + 128)) then
        .next (start s 0 false (some 0x11))
      else match rtRead s t c j j.addr 128 with
        | .wait s => .next s
        | .fail s e => .next (start s 0 false (some e))
        | .done s d =>
          let ok := rCplEn d && decide (rCpl d % 4 = 0) && (placeFault s run k.spBytes (rCpl d, 4, true)).isNone
          .next (start s d ok (rtCheck s run k.spBytes d))
  | _, _ => .next s

/-- Fields of an expert-table entry (R229). -/
def eKind (e : Nat) : Nat := dbytes e 0 1
def eRank (e : Nat) : Nat := dbytes e 1 1
def eCap (e : Nat) : Nat := dbytes e 2 2
def eNode (e : Nat) : Nat := dbytes e 4 2
def eBase (e : Nat) : Nat := dbytes e 8 8
def ePitch (e : Nat) : Nat := dbytes e 0x10 4
def eRlen (e : Nat) : Nat := dbytes e 0x18 8

/-- The first failure of an expert-table entry (R229, R230, R235, R236). -/
def expertBad (s : State) (run : RunCtx) (d e : Nat) : Option Nat :=
  let k := eKind e
  let rows := cdiv (eCap e) (rPad d) * rPad d
  let n := (rows - 1) * ePitch e + rRow d
  if decide (3 < k) || (decide (k ≠ 2) && decide (eRank e ≠ 0)) || (decide (k ≠ 0) && decide (eCap e = 0)) ||
      (decide (k ≠ 3) && (decide (eNode e ≠ 0) || decide (eRlen e ≠ 0))) || decide (2 ^ 11 ≤ eNode e) ||
      decide (dbytes e 6 2 ≠ 0) || decide (dbytes e 0x14 4 ≠ 0) || (decide (k = 2) && decide (2 ^ 19 ≤ eBase e)) ||
      (decide (k = 3) && decide (rOp d = 1)) then some 0x40
  else if k = 0 then none
  else if eBase e % 128 ≠ 0 ∨ ePitch e % 128 ≠ 0 ∨ ePitch e < rRow d then some 0x41
  else if k = 1 then
    if s.targetB (eBase e) = .host ∨ s.targetB (eBase e + n - 1) = .host then some 0x20
    else if run.winOk (eBase e) n (decide (rOp d = 0)) then none else some 0x14
  else if k = 2 then
    if run.cluster ≤ eRank e then some 0x44 else if run.spBytes < eBase e + n then some 0x12 else none
  else none

/-- Reads and checks the whole expert table (R229, R230): its entries, or the first failure. From then on the block's scratchpad is named
only by the descriptor's own addresses and by a KIND 2 entry of its rank (R56). -/
def readTable (s : State) (t : TowerId) (c : Nat) (r : RtRun) (run : RunCtx) (rank : Nat) : State × Option (Except Nat (List Nat)) :=
  match rtRead s t c r.job (rTable r.desc) (32 * rExperts r.desc) with
  | .wait s => (s, none)
  | .fail s e => (s, some (.error e))
  | .done s v =>
    let tb := (List.range (rExperts r.desc)).map fun i => bits v (256 * i + 255) (256 * i)
    match tb.findSome? (expertBad s run r.desc) with
    | some e => (s, some (.error e))
    | none => (s.rtNames t r.job (rtInScratch r.desc || tb.any fun e => decide (eKind e = 2) && decide (eRank e = rank)), some (.ok tb))

/-- Forms the expert lists (R231 to R233): lengths, the work of the gather phase, entries routed and dropped, and whether any
was dropped for capacity or KIND 0, or as a duplicate. -/
structure RtLists where
  lens : SMap Nat
  work : List RtItem
  routed : Nat
  lost : Nat
  dropped : Bool
  dup : Bool

def rtLists (d : Nat) (gates : List (Nat × Nat)) (table : List Nat) : RtLists :=
  let k := rTopk d
  let z := gates.zipIdx.foldl (fun (a : RtLists) p =>
    let e := p.1.1
    let t := p.2 / k
    let sl := p.2 % k
    let inv : List RtItem := if rNoMap d then [] else [.map t sl]
    if e = 0xFFFF then { a with work := a.work ++ inv }
    else if (List.range sl).any fun i => decide ((gates.getD (t * k + i) (0xFFFF, 0)).1 = e) then
      { a with work := a.work ++ inv, lost := a.lost + 1, dup := true }
    else
      let x := table.getD e 0
      let j := sget 0 a.lens e
      if eKind x = 0 ∨ eCap x ≤ j then { a with work := a.work ++ inv, lost := a.lost + 1, dropped := true }
      else { a with work := a.work ++ [.row e j t sl], lens := sset a.lens e (j + 1), routed := a.routed + 1 })
    (⟨[], [], 0, 0, false, false⟩ : RtLists)
  if d.testBit 53 then
    { z with work := z.work ++ (List.range (rExperts d)).flatMap fun e =>
        let n := sget 0 z.lens e
        if n = 0 then [] else (List.range (cdiv n (rPad d) * rPad d - n)).map fun i => .zero e (n + i) }
  else z

/-- The whole gating table is counted: the expert table is checked and the lists are formed (R229, R231, R232). -/
def rtListsForm (t : TowerId) (c : Fin 24) (r : RtRun) (run : RunCtx) (rank : Nat) (s : State) : State :=
  match readTable s t c r run rank with
  | (s, none) => s
  | (s, some (.error e)) => s.modRun t c fun r => { r with err := some e }
  | (s, some (.ok tb)) =>
    let z := rtLists r.desc r.gates tb
    (s.modTw t fun x => x.modRoute c fun u => { u with dropped := satAdd 32 u.dropped z.lost }).modRun t c fun r =>
      { r with
        table := tb, work := z.work, count := z.routed, dropped := z.dropped, dup := z.dup
        lens := (List.range (rExperts r.desc)).map fun e => sget 0 z.lens e
        phase := if z.work.isEmpty then 2 else 1 }

/-- A line of the gating table is counted; after the last, the lists are formed (R228, R231, R232). -/
def rtGatingLineCountOn (t : TowerId) (c : Fin 24) (s : State) : Res :=
  match ((s.tw t).route c).run with
  | none => .next s
  | some r =>
    let d := r.desc
    let total := rTokens d * rTopk d
    if r.ended || r.err.isSome || decide (r.phase ≠ 0) then .next s
    else match s.rtCtx t r.job with
    | none => .next s
    | some (run, blk) =>
      let i := r.gates.length
      if total ≤ i then .next (rtListsForm t c r run blk.rank s)
      else
        let a := rGate d + 8 * i
        let k := min (total - i) ((128 - a % 128) / 8)
        match rtRead s t c r.job a (8 * k) with
        | .wait s => .next s
        | .fail s e => .next (s.modRun t c fun r => { r with err := some e })
        | .done s v =>
          let es := (List.range k).map fun j => (bits v (64 * j + 15) (64 * j), bits v (64 * j + 63) (64 * j + 32))
          let r' := { r with gates := r.gates ++ es }
          if es.any fun e => decide (e.1 ≠ 0xFFFF) && decide (rExperts d ≤ e.1) then
            .next (s.modRun t c fun r => { r with err := some 0x42 })
          else
            let s := s.modRun t c fun _ => r'
            .next (if r'.gates.length < total then s else rtListsForm t c r' run blk.rank s)

/-- The block at a rank of the job's cluster: brick and block key (R235, R266). -/
def State.rankBlock (s : State) (t : TowerId) (j : RtJob) (rank : Nat) : Option (Nat × Nat) :=
  (List.range 24).findSome? fun i =>
    let sl := j.slice.val / 24 * 24 + i
    ((s.tw t).brick sl).blocks.findSome? fun p =>
      if p.2.launch = j.launch ∧ p.2.clusterId = j.clusterId ∧ p.2.rank = rank ∧ !p.2.retired then some (sl, p.1) else none

/-- Writes row j of an expert (R232, R235). -/
def expertWrite (s : State) (t : TowerId) (c : Nat) (r : RtRun) (e j v : Nat) : ImgR :=
  let x := r.table.getD e 0
  let n := rRow r.desc
  let a := eBase x + j * ePitch x
  match eKind x with
  | 1 => rtWrite s t c r.job a n v
  | 2 => match s.rankBlock t r.job (eRank x) with
    | none => .fail s 0x44
    | some (sl, k) => .done (s.modTw t fun y => y.modBrick sl fun b =>
        { b with blocks := smapv b.blocks fun i q => if i = k then q.spWr n a v else q }) 0
  | _ => .done (s.modTw t fun y => y.remoteWrite (eNode x) a n v (.route c r.job.num e)) 0

/-- The map entry of a gating entry (R233): its weight, and where it went when it is routed. -/
def mapWord (r : RtRun) (tk sl : Nat) (routed : Option (Nat × Nat)) : Nat :=
  (r.gates.getD (tk * rTopk r.desc + sl) (0, 0)).2 * 2 ^ 32 + match routed with
    | some (e, j) => 2 ^ 31 + e * 2 ^ 16 + j
    | none => 0

/-- A map entry is written, unless the descriptor asks for none (R233). -/
def mapWrite (s : State) (t : TowerId) (c : Nat) (r : RtRun) (tk sl : Nat) (routed : Option (Nat × Nat)) : ImgR :=
  if rNoMap r.desc then .done s 0
  else rtWrite s t c r.job (rMap r.desc + 8 * (tk * rTopk r.desc + sl)) 8 (mapWord r tk sl routed)

/-- The piece of work at the head is done and leaves the given work; the phase ends with the last. -/
def State.rtWorked (s : State) (t : TowerId) (c : Nat) (work : List RtItem) : State :=
  s.modRun t c fun r => { r with work := work, out := none, phase := if work.isEmpty then 2 else 1 }

/-- The token row of a routed entry: read once, and then written to its expert (R232). -/
def rowCopy (s : State) (t : TowerId) (c : Nat) (r : RtRun) (e j tk : Nat) : ImgR :=
  let d := r.desc
  match r.out with
  | some v => expertWrite s t c r e j v
  | none => match rtRead s t c r.job (rSrc d + tk * rSrcPitch d) (rRow d) with
    | .done s v => expertWrite (s.modRun t c fun r => { r with out := some v }) t c r e j v
    | z => z

/-- One token row is copied, or a zero row or a map entry written (R232, R233, R235). -/
def rtGatherRowOn (t : TowerId) (c : Fin 24) (s : State) : Res :=
  match ((s.tw t).route c).run with
  | none => .next s
  | some r =>
    let put := fun (z : ImgR) (f : State → State) => match z with
      | .wait s => s
      | .fail s e => s.modRun t c fun r => { r with err := some e }
      | .done s _ => f s
    if r.ended || r.err.isSome || decide (r.phase ≠ 1) || decide (rOp r.desc ≠ 0) then .next s
    else match r.work with
    | [] => .next s
    | .map tk sl :: rest => .next (put (mapWrite s t c r tk sl none) fun s => s.rtWorked t c rest)
    | .mark e j tk sl :: rest => .next (put (mapWrite s t c r tk sl (some (e, j))) fun s => s.rtWorked t c rest)
    | .zero e j :: rest => .next (put (expertWrite s t c r e j 0) fun s => s.rtWorked t c rest)
    | .row e j tk sl :: rest => .next (put (rowCopy s t c r e j tk) fun s =>
        let s := (s.modTw t fun x => x.modRoute c fun u => { u with rows := satAdd 32 u.rows 1 }).rtWorked t c (.mark e j tk sl :: rest)
        put (mapWrite s t c r tk sl (some (e, j))) fun s => s.rtWorked t c rest)

/-- A remote request of a descriptor, of one of its experts or of any (R234, R235, R457). -/
def RemSrc.ofRoute (c job : Nat) (e : Option Nat) : RemSrc → Bool
  | .route c' job' e' => decide (c' = c) && decide (job' = job) && (match e with
    | some e => decide (e' = e)
    | none => true)
  | _ => false

def Tower.remOut (x : Tower) (c job : Nat) (e : Option Nat) : Bool := x.rtr.rem.any fun q => RemSrc.ofRoute c job e q.src
def Tower.remFail (x : Tower) (c job : Nat) : Bool := x.rtr.remDone.any fun q => RemSrc.ofRoute c job none q.src && !q.ok

/-- The length word of the next expert is written after its rows and map entries are acknowledged (R234). -/
def rtLengthWordWriteOn (t : TowerId) (c : Fin 24) (s : State) : Res :=
  match ((s.tw t).route c).run with
  | none => .next s
  | some r =>
    let d := r.desc
    let e := r.next
    let k := r.job.num
    if r.ended || r.err.isSome || decide (rOp d ≠ 0) || decide (r.phase ≠ 2) || decide (rExperts d ≤ e) || (s.tw t).remOut c k (some e) ||
        (s.tw t).remFail c k then .next s
    else
      let n := r.lens.getD e 0
      match rtWrite s t c r.job (rLen d + 4 * e) 4 n with
      | .wait s => .next s
      | .fail s k => .next (s.modRun t c fun r => { r with err := some k })
      | .done s _ =>
        let x := r.table.getD e 0
        let s := if eKind x = 3 then s.modTw t fun y =>
            let a := eRlen x
            let v := putBits (Config.remotePad y.rtr.nextTag).toNat (8 * (a % 16) + 31) (8 * (a % 16)) n % 2 ^ 128
            y.remoteWrite (eNode x) (a / 16 * 16) 16 v (.route c k e)
          else s
        .next (s.modRun t c fun r => { r with next := e + 1 })

/-- One element of combine (R237): contributions in slot order, each one fused multiply-add. -/
def combineElem (ifmt acc0 : Nat) (ys : List (Nat × Nat)) : Nat :=
  ys.foldl (fun acc p =>
    let y := match fmtOf ifmt with
      | some f => fDecode f false p.2
      | none => .fin false 0 0
    (fEncode fp32 0 false false 0 (fvFma 0 (fDecode fp32 false p.1) y (fDecode fp32 false acc)).1).1) acc0

/-- The routed slots of a token, in slot order: map words of entries whose expert has a region (R236, R237). -/
def combineSlots (d : Nat) (table : List Nat) (mv : Nat) : List Nat :=
  ((List.range (rTopk d)).map fun i => bits mv (64 * i + 63) (64 * i)).filter fun m =>
    m.testBit 31 && decide (eKind (table.getD (bits m 25 16) 0) ≠ 0)

/-- The row of an expert's region that a map word names. -/
def slotRow (table : List Nat) (m : Nat) : Nat :=
  let x := table.getD (bits m 25 16) 0
  eBase x + bits m 15 0 * ePitch x

/-- What one output row of combine takes (R236): the weights and rows of the token's routed slots in slot order, and the old row when it
accumulates. All of it is asked for before any is taken. -/
def rtCombineInputs (t : TowerId) (c : Nat) (r : RtRun) (table : List Nat) (mv : Nat) (s : State) :
    State × Option (Except Nat (List (Nat × Nat) × Nat)) :=
  let d := r.desc
  let j := r.job
  let slots := combineSlots d table mv
  let old := rDst d + r.next * rDstPitch d
  let dev := (slots.filter fun m => decide (eKind (table.getD (bits m 25 16) 0) = 1)).map fun m => (slotRow table m, rRow d)
  match engAskAll s (rtAgent t c) ((dev ++ if d.testBit 37 then [(old, rOutRow d)] else []).filter fun p => !isSp p.1) with
  | (s, false) => (s, none)
  | (s, true) =>
    let rows := slots.foldl (fun (a : State × Option (Except Nat (List (Nat × Nat)))) m => match a.2 with
      | some (.ok l) =>
        let x := table.getD (bits m 25 16) 0
        let rd := if eKind x = 2 then
            match a.1.rankBlock t j (eRank x) with
            | none => ImgR.fail a.1 0x44
            | some (sl, q) => rtReadAt a.1 t c ⟨t, ⟨sl % 576, Nat.mod_lt _ (by decide)⟩⟩ q (2 ^ 63 + slotRow table m) (rRow d)
          else rtRead a.1 t c j (slotRow table m) (rRow d)
        match rd with
        | .wait s => (s, none)
        | .fail s e => (s, some (.error e))
        | .done s v => (s, some (.ok (l ++ [(bits m 63 32, v)])))
      | _ => a) (s, some (.ok []))
    match rows.2 with
    | none => (rows.1, none)
    | some (.error e) => (rows.1, some (.error e))
    | some (.ok ys) => match (if d.testBit 37 then rtRead rows.1 t c j old (rOutRow d) else .done rows.1 0) with
      | .wait s => (s, none)
      | .fail s e => (s, some (.error e))
      | .done s ov => (s, some (.ok (ys, ov)))

/-- The output row of combine, element by element, with the generator for stochastic rounding (R236 to R238). -/
def combineRow (d : Nat) (ys : List (Nat × Nat)) (ov : Nat) (sr0 : R32) : Nat × R32 :=
  let ow := fmtWidth (rOfmt d)
  let iw := fmtWidth (rIfmt d)
  (List.range (rElems d)).foldl (fun (a : Nat × R32) i =>
    let g := if rRm d = 4 then srStep a.2 else a.2
    let a0 := if d.testBit 37 then (convert (rOfmt d) 0 0 false false 0 (elemOf ow ov i)).1 else 0
    let v := combineElem (rIfmt d) a0 (ys.map fun y => (y.1, elemOf iw y.2 i))
    (a.1 + (convert 0 (rOfmt d) (rRm d) false false g.toNat v).1 * 2 ^ (ow * i), g)) (0, sr0)

/-- Combine has its table: the token's map words are read, then its inputs, and the row is computed once (R236 to R238). -/
def rtCombineCompute (t : TowerId) (c : Fin 24) (r : RtRun) (s : State) : State × Option (Except Nat RtRun) :=
  match r.out with
  | some _ => (s, some (.ok r))
  | none =>
    let d := r.desc
    match (match r.tmap with
      | some v => ImgR.done s v
      | none => rtRead s t c r.job (rMap d + 8 * r.next * rTopk d) (8 * rTopk d)) with
    | .wait s => (s, none)
    | .fail s e => (s, some (.error e))
    | .done s mv =>
      let s := s.modRun t c fun r => { r with tmap := some mv }
      match rtCombineInputs t c r r.table mv s with
      | (s, none) => (s, none)
      | (s, some (.error e)) => (s, some (.error e))
      | (s, some (.ok (ys, ov))) =>
        let z := combineRow d ys ov r.sr
        let r' := { r with tmap := some mv, out := some z.1, sr := z.2 }
        (s.modRun t c fun _ => r', some (.ok r'))

/-- One output row of combine (R236 to R238): after the table has been read and checked, the row is computed and written. -/
def rtCombineRowOn (t : TowerId) (c : Fin 24) (s : State) : Res :=
  match ((s.tw t).route c).run with
  | none => .next s
  | some r =>
    let d := r.desc
    let fail := fun (s : State) (e : Nat) => s.modRun t c fun r => { r with err := some e }
    if r.ended || r.err.isSome || decide (rOp d ≠ 1) || decide (rTokens d ≤ r.next) then .next s
    else match s.rtCtx t r.job with
    | none => .next s
    | some (run, blk) =>
      match (if r.table.isEmpty then readTable s t c r run blk.rank else (s, some (.ok r.table))) with
      | (s, none) => .next s
      | (s, some (.error e)) => .next (fail s e)
      | (s, some (.ok table)) =>
        let r := { r with table := table }
        match rtCombineCompute t c r (s.modRun t c fun _ => r) with
        | (s, none) => .next s
        | (s, some (.error e)) => .next (fail s e)
        | (s, some (.ok r)) => match rtWrite s t c r.job (rDst d + r.next * rDstPitch d) (rOutRow d) (r.out.getD 0) with
          | .wait s => .next s
          | .fail s e => .next (fail s e)
          | .done s _ =>
            .next ((s.modTw t fun x => x.modRoute c fun u => { u with rows := satAdd 32 u.rows 1 }).modRun t c fun r =>
              { r with
                next := r.next + 1, count := r.count + 1, tmap := none, out := none
                phase := if rTokens d ≤ r.next + 1 then 2 else 1 })

/-- A route descriptor ends at its first failure (R242): no further row and no length word is written. -/
def rtFailureOn (t : TowerId) (c : Fin 24) (s : State) : Res :=
  match ((s.tw t).route c).run with
  | none => .next s
  | some r =>
    if r.ended then .next s
    else match r.err.orElse fun _ => if (s.tw t).remFail c r.job.num then some 0x43 else none with
      | some e => .next (s.modRun t c fun r => { r with result := e, ended := true, work := [] })
      | none => .next s

/-- The status word of R241. -/
def RtRun.word (r : RtRun) : R32 :=
  BitVec.ofNat 32 (2 ^ 31 + r.result % 128 * 2 ^ 24 + (if r.dropped then 2 ^ 23 else 0) + (if r.dup then 2 ^ 22 else 0) +
    min r.count (2 ^ 22 - 1))

/-- A route descriptor completes (R241, R242): every write is acknowledged, the status word is formed and written, and the
entry of the operation table is completed. -/
def rtCompleteOn (t : TowerId) (c : Fin 24) (s : State) : Res :=
  match ((s.tw t).route c).run with
  | none => .next s
  | some r =>
    let d := r.desc
    let h := r.job.handle
    let all := if rOp d = 0 then decide (r.phase = 2) && decide (rExperts d ≤ r.next) else decide (rTokens d ≤ r.next)
    if !(r.ended || (all && r.err.isNone)) || (s.tw t).remOut c r.job.num none || (!r.ended && (s.tw t).remFail c r.job.num) then .next s
    else
      let cpl := if r.cplOk then rtWrite s t c r.job (rCpl d) 4 r.word.toNat else .done s 0
      match cpl with
      | .wait s => .next s
      | .fail s _ | .done s _ =>
        let s := s.modTw t fun x => ((x.modRoute c fun u =>
          { u with run := none, lastHandle := h, lastResult := r.result }).modRtr fun y =>
            { y with remDone := y.remDone.filter fun q => !RemSrc.ofRoute c r.job.num none q.src })
        .next (opComplete (r.job.br t) h r.word s)

/-! The commands, with the stop of the clocks and the engine records. -/

/-- `RT_COMBINE_ROW`, held while the tower's clocks are stopped (R600, R602). -/
def execRtCombineRow (t : TowerId) (c : Fin 24) (s : State) : Res :=
  gate t (marking (fun s1 => decide (sfind (s1.tw t).routes c.val ≠ sfind (s.tw t).routes c.val)) (fun s1 => s1.advEng t c.val) (rtCombineRowOn t c)) s

/-- `RT_COMPLETE`, held while the tower's clocks are stopped (R600, R602). -/
def execRtComplete (t : TowerId) (c : Fin 24) (s : State) : Res :=
  gate t (marking (fun s1 => decide (sfind (s1.tw t).routes c.val ≠ sfind (s.tw t).routes c.val)) (fun s1 => s1.advEng t c.val) (rtCompleteOn t c)) s

/-- `RT_DESCRIPTOR_START`, held while the tower's clocks are stopped (R600, R602). -/
def execRtDescriptorStart (t : TowerId) (c : Fin 24) (s : State) : Res :=
  gate t (marking (fun s1 => decide (sfind (s1.tw t).routes c.val ≠ sfind (s.tw t).routes c.val)) (fun s1 => s1.advEng t c.val) (rtDescriptorStartOn t c)) s

/-- `RT_FAILURE`, held while the tower's clocks are stopped (R600, R602). -/
def execRtFailure (t : TowerId) (c : Fin 24) (s : State) : Res :=
  gate t (rtFailureOn t c) s

/-- `RT_GATHER_ROW`, held while the tower's clocks are stopped (R600, R602). -/
def execRtGatherRow (t : TowerId) (c : Fin 24) (s : State) : Res :=
  gate t (marking (fun s1 => decide (sfind (s1.tw t).routes c.val ≠ sfind (s.tw t).routes c.val)) (fun s1 => s1.advEng t c.val) (rtGatherRowOn t c)) s

/-- `RT_GATING_LINE_COUNT`, held while the tower's clocks are stopped (R600, R602). -/
def execRtGatingLineCount (t : TowerId) (c : Fin 24) (s : State) : Res :=
  gate t (marking (fun s1 => decide (sfind (s1.tw t).routes c.val ≠ sfind (s.tw t).routes c.val)) (fun s1 => s1.advEng t c.val) (rtGatingLineCountOn t c)) s

/-- `RT_LENGTH_WORD_WRITE`, held while the tower's clocks are stopped (R600, R602). -/
def execRtLengthWordWrite (t : TowerId) (c : Fin 24) (s : State) : Res :=
  gate t (marking (fun s1 => decide (sfind (s1.tw t).routes c.val ≠ sfind (s.tw t).routes c.val)) (fun s1 => s1.advEng t c.val) (rtLengthWordWriteOn t c)) s

end Sys2Proof.Machine
end

