-- ==== Sys2Proof/Machine/Nbu.lean ====
section
/-! DEFINITION. The near-bank units (R313 to R343): dispatcher, descriptors, steps, statistics, results. -/

namespace Sys2Proof.Machine

open Sys2Proof

def Tower.modNbu (x : Tower) (f : Nbu → Nbu) : Tower := { x with nbu := f x.nbu }

/-- Slices by serpentine position (R314): position 24k + p is slice 24k + p on even courses and 24k + 23 − p on odd ones. -/
def serpentine (q : Nat) : Nat := if q / 24 % 2 = 0 then q else q / 24 * 24 + 23 - q % 24

/-- The enabled slices in chain order (R314). -/
def Tower.chain (x : Tower) : List Nat := ((List.range 576).map serpentine).filter fun s => x.enabled.getLsbD s

/-- The number after a handle: 32 bits, skipping 0 (R317). -/
def seqNext (h : Nat) : Nat := if (h + 1) % 2 ^ 32 = 0 then 1 else (h + 1) % 2 ^ 32

/-- A command enters the dispatcher's queue (R316, R317). -/
def Tower.nbuAccept (x : Tower) (src : NbuSrc) (ctx : Option RunCtx) (addr : Nat) : Tower :=
  x.modNbu fun n =>
    let h := seqNext n.lastSeq
    { n with lastSeq := h, cmds := n.cmds ++ [⟨h, src, ctx, addr, false, none, 0, false, [], [], false, 0, 0, 0, false⟩] }

/-- `nbu.issue` (R120, R316). -/
def execNbuIssue (g : GroupRef) (w : IWord) (s : State) : Res :=
  engIssue 0xD2 3 (fun x h a s =>
    if 32 ≤ (s.tw g.b.t).nbu.cmds.length then none
    else some (s.modTw g.b.t fun y => y.nbuAccept (.brick g.b.s x.run.launch h) (some x.run) a)) g w s

/-- The driver submits a descriptor (R316, R341, R342). -/
def execNbuSubmit (t : TowerId) (v : Word) (s : State) : Res :=
  .next (s.modTw t fun x =>
    if 32 ≤ x.nbu.cmds.length then x.fset Fld.nbuSubmitRes_STATE 2
    else
      let x := x.nbuAccept .driver none (bits v.toNat 47 7 * 128)
      (x.fset Fld.nbuSubmitRes_STATE 1).fset Fld.nbuSubmitRes_HANDLE x.nbu.lastSeq)

/-- Fields of an NBU descriptor (R320, R321). -/
def nSteps (d : Nat) : Nat := bits d 55 51
def nCplEn (d : Nat) : Bool := d.testBit 50
def nFirst (d : Nat) : Nat := dbytes d 8 2
def nGroups (d : Nat) : Nat := dbytes d 0x0A 2
def nWidth (d : Nat) : Nat := dbytes d 0x0C 2
def nRows (d : Nat) : Nat := dbytes d 0x10 4
def nSeg (d : Nat) : Nat := dbytes d 0x14 4
def nCpl (d : Nat) : Nat := dbytes d 0x18 8
def nSeed (d : Nat) : Nat := dbytes d 0x20 4
/-- Region entries (R322). -/
def nRegion (d r : Nat) : Nat := dbytes d (0x40 + 8 * r) 8
def nFmt (e : Nat) : Nat := bits e 63 60
def nKind (e : Nat) : Nat := bits e 59 58
def nOff (e : Nat) : Nat := bits e 57 36
def nPitch (e : Nat) : Nat := bits e 35 16

/-- A step record (R324). -/
structure NStep where
  op : Nat
  d : Nat
  a : Nat
  b : Nat
  c : Nat
  mode : Nat
  imm0 : Nat
  imm1 : Nat
  table : Nat
  trows : Nat
  tpitch : Nat
  tfmt : Nat
  count : Nat
  resv : Nat

def nStep (d k : Nat) : NStep :=
  let o := 128 + 32 * k
  let f := fun i n => dbytes d (o + i) n
  ⟨f 0 1, f 1 1, f 2 1, f 3 1, f 4 1, f 5 1, f 8 4, f 0xC 4, f 0x10 8, f 0x18 4, f 0x1C 2, f 0x1E 1, f 0x1F 1, f 6 2⟩

def nStepsOf (d : Nat) : List NStep := (List.range (nSteps d)).map (nStep d)

def NStep.rm (p : NStep) : Nat := bits p.mode 7 5
def NStep.sat (p : NStep) : Bool := p.mode.testBit 4
/-- An operand of a step (R323, R327): its region, whether the step writes it, and whether its rows hold COUNT entries. -/
structure NOpnd where
  reg : Nat
  wr : Bool
  short : Bool

/-- The operands a step names (R327). -/
def NStep.regs (p : NStep) : List NOpnd :=
  let g := decide (p.op = 0x40)
  [⟨p.d, true, false⟩, ⟨p.a, false, g⟩] ++ (if p.b = 0xFF then [] else [⟨p.b, false, g⟩]) ++
    (if p.c = 0xFF then [] else [⟨p.c, decide (p.op = 0x31), false⟩])
def NStep.elementOp (p : NStep) : Bool :=
  [1, 2, 3, 4, 5, 6, 7, 8, 0x10, 0x11, 0x12, 0x13, 0x14, 0x32].contains p.op

/-- NBU_DESC of a step record (R324, R327, R330). -/
def NStep.bad (p : NStep) (d : Nat) : Bool :=
  let kd := fun r => nKind (nRegion d r)
  let fm := fun r => nFmt (nRegion d r)
  let none' := fun r => decide (r = 0xFF)
  let scalar := fun r => decide (r ≠ 0xFF) && decide (kd r = 2)
  let known := p.elementOp || [0x20, 0x21, 0x30, 0x31, 0x40].contains p.op
  let gather := decide (p.op = 0x40)
  !known || decide (7 < p.d) || decide (7 < p.a) || (decide (7 < p.b) && !none' p.b) || (decide (7 < p.c) && !none' p.c) ||
  decide (p.resv ≠ 0) || decide (4 < p.rm) || decide (bits p.mode 3 0 ≠ 0) ||
  decide (kd p.d ≠ (if p.op = 0x30 then 2 else 0)) || decide (4 < fm p.d) ||
  (decide (p.rm = 4) && decide (fm p.d = 0)) ||
  (decide (p.op = 7) && none' p.b) || (decide (p.op = 8) && !(none' p.b && none' p.c)) ||
  (decide (p.op = 0x20) && !none' p.c) || (decide (p.op = 0x31) && !(scalar p.b && scalar p.c)) ||
  (decide (p.op = 0x32) && !scalar p.b) ||
  (if gather then
    decide (kd p.a ≠ 0) || decide (fm p.a ≠ 0xD) || (!none' p.b && (decide (kd p.b ≠ 0) || decide (fm p.b ≠ 0))) ||
      !none' p.c || decide (p.trows = 0) || decide (4 < p.tfmt) || decide (p.count = 0)
   else
    decide (p.table ≠ 0) || decide (p.trows ≠ 0) || (p.regs.any fun r => decide (4 < fm r.reg)))

/-- A region entry that no engine accepts: a reserved format or kind, reserved bits, a scalar region that is not FP32, or a
pitch outside a row region (R322, R323). -/
def regionBad (e : Nat) : Bool :=
  (decide (4 < nFmt e) && decide (nFmt e ≠ 0xD)) || decide (nKind e = 3) || decide (bits e 15 0 ≠ 0) ||
  (decide (nKind e = 2) && decide (nFmt e ≠ 0)) || (decide (nKind e ≠ 0) && decide (nPitch e ≠ 0))

def nbuUsed (d r : Nat) : Bool := (nStepsOf d).any fun p => p.regs.any fun q => decide (q.reg = r)

/-- NBU_DESC (R320 to R327). -/
def nbuBad (x : Tower) (d : Nat) : Bool :=
  decide (bits d 63 56 ≠ 1) || decide (nSteps d = 0) || decide (16 < nSteps d) || decide (bits d 49 0 ≠ 0) ||
  decide (dbytes d 0x0E 2 ≠ 0) || decide (dbytes d 0x24 28 ≠ 0) || decide (nGroups d = 0) || decide (576 < nGroups d) ||
  decide (nWidth d = 0) || decide (576 < nWidth d) || decide (nRows d = 0) || decide (65536 < nRows d) ||
  decide (nSeg d < 128) || decide (65536 < nSeg d) || decide (nSeg d % 128 ≠ 0) || (!nCplEn d && decide (nCpl d ≠ 0)) ||
  decide (x.chain.length < nFirst d + nGroups d * nWidth d) ||
  ((List.range 8).any fun r => if nbuUsed d r then regionBad (nRegion d r) else decide (nRegion d r ≠ 0)) ||
  ((nStepsOf d).any fun p => p.bad d)

/-- Bytes of a row of an operand, rounded to lines (R323). -/
def NStep.rowBytes (p : NStep) (d : Nat) (q : NOpnd) : Nat :=
  if q.short then up128 (4 * p.count) else up128 (nSeg d * fmtWidth (nFmt (nRegion d q.reg)) / 8)

/-- NBU_ALIGN of the regions and tables (R322, R331). -/
def nbuMisaligned (d : Nat) : Bool :=
  ((nStepsOf d).any fun p =>
    (p.regs.any fun q =>
      let e := nRegion d q.reg
      decide (nOff e % 128 ≠ 0) ||
        (decide (nKind e = 0) && (decide (nPitch e % 128 ≠ 0) || decide (nPitch e < p.rowBytes d q)))) ||
    (decide (p.op = 0x40) && decide (128 * p.tpitch < nWidth d * nSeg d * fmtWidth p.tfmt / 8))) ||
  (nCplEn d && decide (nCpl d % 4 ≠ 0))

/-- The footprint of an operand in a slice: offset, bytes (R323). -/
def NStep.foot (p : NStep) (d : Nat) (q : NOpnd) : Nat × Nat :=
  let e := nRegion d q.reg
  match nKind e with
  | 0 => (nOff e, (nRows d - 1) * nPitch e + p.rowBytes d q)
  | 1 => (nOff e, p.rowBytes d q)
  | _ => (nOff e, up128 (4 * nRows d))

/-- Kernel windows apply to a command that a brick has issued (R659). -/
def NbuSrc.kw : NbuSrc → Bool
  | .brick _ _ _ => true
  | .driver => false

/-- The kernel windows of the tower let an NBU reach the bytes. -/
def State.nbuWin (s : State) (t : TowerId) (kw : Bool) (a n : Nat) : Bool := !kw || (s.tw t).kwinOk a n

/-- The device memory an NBU may name: HBM or pinned (R318, R331, R336). -/
def State.nbuPlace (s : State) (t : TowerId) (kw : Bool) (a : Nat) : Bool :=
  !isSp a && (s.targetB a).home?.isSome && s.nbuWin t kw a 1

/-- NBU_TARGET: the completion word or a table outside HBM and pinned memory (R331, R336, R337). A hole among the rows of a
table is a running failure. -/
def nbuTarget (s : State) (t : TowerId) (kw : Bool) (d : Nat) : Bool :=
  (nCplEn d && !s.nbuPlace t kw (nCpl d / 4 * 4)) ||
  ((nStepsOf d).any fun p => decide (p.op = 0x40) &&
    (isSp p.table || decide (s.targetB p.table = .host) ||
      decide (s.targetB (p.table + 128 * p.tpitch * (p.trows - 1)) = .host)))

/-- The slice of a chain index. -/
def Tower.chainSlice (x : Tower) (c : Nat) : Nat := x.chain.getD c 0

/-- The device address of a slice-local offset (R25). -/
def nbuAddr (t : TowerId) (slice off : Nat) : Nat := pinBase t + slice * 2 ^ 22 + off

/-- The start checks, in the order NBU_TARGET, NBU_DESC, NBU_KEY, NBU_ALIGN, ADDR_HOLE, WINDOW (R337). -/
def nbuCheck (s : State) (t : TowerId) (run : Option RunCtx) (d : Nat) : Option Nat :=
  let x := s.tw t
  let span := (List.range (nGroups d * nWidth d)).map fun i => x.chainSlice (nFirst d + i)
  let foots := (nStepsOf d).flatMap fun p => p.regs.map fun q => (p.foot d q, q.wr)
  if nbuTarget s t run.isSome d then some 0x54
  else if nbuBad x d then some 0x50
  else if 4 < nSteps d ∧ x.fget Fld.licStat_LONG_NBU = 0 then some 0x52
  else if nbuMisaligned d then some 0x51
  else if (foots.any fun q => decide (x.pinned * 2 ^ 18 < q.1.1 + q.1.2)) || (span.any fun sl => !x.sliceLive sl) then
    some 0x13
  else match run with
    | none => none
    | some r =>
      if !(span.all fun sl => foots.all fun q => (s.tw t).kwinOk (nbuAddr t sl q.1.1) q.1.2) then some 0x13
      else if span.all fun sl => foots.all fun q => r.winOk (nbuAddr t sl q.1.1) q.1.2 q.2 then none else some 0x14

def State.modCmd (s : State) (t : TowerId) (seq : Nat) (f : NbuCmd → NbuCmd) : State :=
  s.modTw t fun x => x.modNbu fun n => { n with cmds := n.cmds.map fun c => if c.seq = seq then f c else c }

/-- The head command: the first that has not been delivered and has not ended (R318, R319). -/
def Nbu.head (n : Nbu) : Option NbuCmd := n.cmds.find? fun c => !c.delivered && !c.ended

/-- The dispatcher reads the descriptor at its head, or ends the command when it lies outside HBM and pinned memory
(R318) or is not aligned (R320). -/
def nbuDispatchHeadOn (t : TowerId) (s : State) : Res :=
  match (s.tw t).nbu.head with
  | none => .next s
  | some c =>
    if c.asked then .next s
    else if !s.nbuPlace t c.src.kw c.addr then .next (s.modCmd t c.seq fun c => { c with ended := true, result := 0x54 })
    else if c.addr % 128 ≠ 0 then .next (s.modCmd t c.seq fun c => { c with ended := true, result := 0x51 })
    else .next (s.modCmd t c.seq fun c => { c with asked := true })

/-- The dispatcher and the NBU of a chain index as agents (R353). -/
def dispAgent (t : TowerId) : Agent := ⟨t, 24, 1000⟩
def nbuAgent (t : TowerId) (c : Nat) : Agent := ⟨t, 24, c⟩

/-- The bytes of a command's descriptor, each line read once (R318): the header, and then as many records as its STEPS names. `none`
while it waits. -/
def nbuDescriptor (s : State) (t : TowerId) (c : NbuCmd) : State × Option (Except LineErr Nat) :=
  let rest := fun (s : State) (h : Nat) =>
    if nSteps h = 0 ∨ 16 < nSteps h then (s, some (.ok h))
    else match engReadBytes s (dispAgent t) none (c.addr + 128) (32 * nSteps h) with
      | .wait s => (s, none)
      | .done s r => (s, some (r.map fun v => h + v <<< 1024))
  match c.head with
  | some h => rest s h
  | none => match engReadBytes s (dispAgent t) none c.addr 128 with
    | .wait s => (s, none)
    | .done s (.error e) => (s, some (.error e))
    | .done s (.ok h) => rest (s.modCmd t c.seq fun c => { c with head := some h }) h

/-- The descriptor arrives and the start checks run, with the windows of the launch that issued the command (R318, R323, R337). -/
def nbuDescriptorArrivalOn (t : TowerId) (s : State) : Res :=
  match (s.tw t).nbu.head with
  | none => .next s
  | some c =>
    if !c.asked || decide (c.desc ≠ 0) then .next s
    else match nbuDescriptor s t c with
      | (s, none) => .next s
      | (s, some (.error .uncorrectable)) => .next s
      | (s, some (.error e)) => .next (s.modCmd t c.seq fun c => { c with ended := true, result := e.code })
      | (s, some (.ok d)) =>
        let ok := nCplEn d && decide (nCpl d % 4 = 0) && s.nbuPlace t c.src.kw (nCpl d)
        match nbuCheck s t c.ctx d with
        | some e => .next (s.modCmd t c.seq fun c => { c with desc := d, cplOk := ok, ended := true, result := e })
        | none => .next (s.modCmd t c.seq fun c => { c with desc := d, cplOk := ok })

/-- Commands queued at an NBU, the running one first (R319). -/
def Nbu.queueOf (n : Nbu) (c : Nat) : List NbuCmd :=
  n.cmds.filter fun k => k.delivered && !k.ended && match sfind k.units c with
    | some u => !u.done
    | none => false

/-- The head command is delivered when every NBU of its span has a free entry (R319). -/
def nbuDeliveryOn (t : TowerId) (s : State) : Res :=
  let n := (s.tw t).nbu
  match n.head with
  | none => .next s
  | some c =>
    let d := c.desc
    let span := (List.range (nGroups d * nWidth d)).map fun i => nFirst d + i
    if d = 0 || (span.any fun k => decide (8 ≤ (n.queueOf k).length)) then .next s
    else .next (s.modCmd t c.seq fun c => { c with delivered := true, units := span.map fun k => (k, NbuUnit.init) })

def State.modUnit (s : State) (t : TowerId) (seq c : Nat) (f : NbuUnit → NbuUnit) : State :=
  s.modCmd t seq fun k => { k with units := smod NbuUnit.init k.units c f }

/-- An NBU starts its command, seeding its generator (R330), or its next step (R335). -/
def nbuStepStartOn (t : TowerId) (c : Nat) (s : State) : Res :=
  match (s.tw t).nbu.queueOf c with
  | [] => .next s
  | k :: _ =>
    let u := sget NbuUnit.init k.units c
    if u.failed || !k.errs.isEmpty then .next s
    else if !u.started then
      .next (s.modUnit t k.seq c fun u =>
        { u with started := true, sr := srSeed (BitVec.ofNat 32 (nSeed k.desc) ^^^ BitVec.ofNat 32 c) })
    else if u.stepDone then
      .next (s.modUnit t k.seq c fun u => { NbuUnit.init with step := u.step + 1, started := true, sr := u.sr })
    else .next s

/-- FP32 arithmetic rounded to nearest (R326). -/
def n32 (v : FV) : Nat := (fEncode fp32 0 false false 0 v).1
def nDec (a : Nat) : FV := fDecode fp32 false a
def nAdd (a b : Nat) : Nat := n32 (fvAdd 0 (nDec a) (nDec b)).1
def nSub (a b : Nat) : Nat := n32 (fvAdd 0 (nDec a) (nDec b).neg).1
def nMul (a b : Nat) : Nat := n32 (fvMul (nDec a) (nDec b)).1
def nFma (a b c : Nat) : Nat := n32 (fvFma 0 (nDec a) (nDec b) (nDec c)).1
def nMax (a b : Nat) : Nat := n32 (fvMinMax true (nDec a) (nDec b)).1
def nMin (a b : Nat) : Nat := n32 (fvMinMax false (nDec a) (nDec b)).1
def nTrans (code a : Nat) : Nat := (transVal code (nDec a) (BitVec.ofNat 32 a)).1
/-- A correctly rounded division by a count (R328). -/
def nDivN (a n : Nat) : Nat :=
  match nDec a with
  | .fin s m e =>
    let q := m <<< 64 / n
    n32 (.fin s (2 * q + (if m <<< 64 % n = 0 then 0 else 1)) (e - 65))
  | v => n32 v

/-- An element of an element operation (R327), from A, B, C and the immediate constants. -/
def nbuElem (p : NStep) (a b c : Nat) : Nat :=
  match p.op with
  | 0x01 => nAdd a b
  | 0x02 => nSub a b
  | 0x03 => nMul a b
  | 0x04 => nMax a b
  | 0x05 => nMin a b
  | 0x06 => nFma a b c
  | 0x07 => nAdd (nMul p.imm0 a) (nMul p.imm1 b)
  | 0x10 => nTrans 3 (nMul p.imm0 a)
  | 0x11 => nTrans 8 a
  | 0x12 => nTrans 7 a
  | 0x13 => nMul a (nTrans 8 a)
  | 0x14 =>
    let cube := nMul (nMul a a) a
    let inner := nMul 0x3F4C4231 (nAdd a (nMul 0x3D372713 cube))
    nMul (nMul 0x3F000000 a) (nAdd 0x3F800000 (nTrans 7 inner))
  | 0x31 => nTrans 3 (nMul p.imm0 (nSub a b))
  | 0x32 => nMul a (nTrans 0 b)
  | _ => a

/-- An element of the apply pass (R327, R328): the statistic, then A, B and C. -/
def nbuApply (p : NStep) (st : List R32) (a b c : Nat) : Nat :=
  let s := fun i => (st.getD i 0).toNat
  if p.op = 0x20 then nMul (nMul a (s 0)) b else nFma (nMul (nSub a (s 0)) (s 1)) b c

def NStep.isStat (p : NStep) : Bool := decide (p.op = 0x20) || decide (p.op = 0x21) || decide (p.op = 0x30) || decide (p.op = 0x31)

/-- The region whose lines the first pass walks: A for a statistic without a result of its own, else D. -/
def NStep.walked (p : NStep) : Nat := if p.op = 0x20 ∨ p.op = 0x21 ∨ p.op = 0x30 then p.a else p.d

/-- Elements in a line of a region. -/
def nPer (d r : Nat) : Nat := 1024 / max 8 (fmtWidth (nFmt (nRegion d r)))

/-- Line accesses of a pass (R329). -/
def NStep.accesses (p : NStep) (d : Nat) (pass2 : Bool) : Nat :=
  if !pass2 then nRows d * (nSeg d / nPer d p.walked)
  else if p.op = 0x20 ∨ p.op = 0x21 then nRows d * (nSeg d / nPer d p.d)
  else if p.op = 0x30 ∨ p.op = 0x31 then cdiv (nRows d) 32
  else 0

/-- How an access of an NBU ended: it waits, failed with a code, or a value. -/
inductive CtlR (α : Type) where
  | wait (s : State)
  | fail (s : State) (code : Nat)
  | done (s : State) (v : α)

/-- Sequential composition of accesses. -/
def CtlR.bind {α β : Type} (r : CtlR α) (f : State → α → CtlR β) : CtlR β :=
  match r with
  | .wait s => .wait s
  | .fail s e => .fail s e
  | .done s v => f s v

/-- A line access of an NBU: the tower, the command, the chain index, the slice, and the line it writes, if any. -/
structure NAcc where
  t : TowerId
  k : NbuCmd
  c : Nat
  slice : Nat
  dst : Option Nat

def NAcc.unit (x : NAcc) : NbuUnit := sget NbuUnit.init x.k.units x.c

/-- Sectors among some bytes that a decoder would correct, where an agent of tower `t` reads them. -/
def State.ceOf (s : State) (t : TowerId) (addr n : Nat) : Nat :=
  ((List.range (lineCount addr n)).map fun i =>
    let line := addr / 128 + i
    let secs := lineSecs addr n i
    let h := s.homeOr line t
    let vis := if s.visHit t h line secs then sfind (s.tw t).mem.vis line else none
    ((secsOfMask secs).filter fun k =>
      let r := match vis with
        | some v => v.sec k
        | none => ((s.tw h).mem.now (line * 4 + k)).1
      decide ((eccDecode r.1 r.2).1 = .correctable)).length).sum

/-- An NBU reads bytes through the homes (R331, R332): corrected sectors are counted. What it reads for a line access it keeps until
the access is made, but for the line that the access writes, which it reads last, in the step that writes it (R333). -/
def nbuRead (s : State) (x : NAcc) (addr n : Nat) : CtlR Nat :=
  if !s.nbuWin x.t x.k.src.kw addr n then .fail s 0x13
  else match x.unit.got.find? fun g => decide (g.1 = addr) && decide (g.2.1 = n) with
  | some g => .done s g.2.2
  | none =>
    let a := nbuAgent x.t x.c
    let p := engAskBytes s a none addr n
    if !p.2 then .wait p.1
    else
      let ce := p.1.ceOf x.t addr n
      match engReadBytes p.1 a none addr n with
      | .wait s => .wait s
      | .done s (.error .uncorrectable) => .wait s
      | .done s (.error e) => .fail s e.code
      | .done s (.ok v) =>
        let s := s.modTw x.t fun y => y.modNbu fun k => { k with ce := smod 0 k.ce x.c fun a => satAdd 16 a ce }
        .done (if x.dst = some (addr / 128) then s else s.modUnit x.t x.k.seq x.c fun u => { u with got := u.got ++ [(addr, n, v)] }) v

/-- n elements of a source region from element e of row r, as FP32 (R322, R323, R326). -/
def nbuSource (s : State) (x : NAcc) (reg r e n : Nat) : CtlR (List Nat) :=
  let q := nRegion x.k.desc reg
  let w := fmtWidth (nFmt q)
  let row := fun o => (nbuRead s x (nbuAddr x.t x.slice (o + e * w / 8)) (n * w / 8)).bind fun s v =>
    .done s ((List.range n).map fun i => (convert (nFmt q) 0 0 false false 0 (elemOf w v i)).1)
  match nKind q with
  | 0 => row (nOff q + r * nPitch q)
  | 1 => row (nOff q)
  | _ => (nbuRead s x (nbuAddr x.t x.slice (nOff q + 4 * r)) 4).bind fun s v => .done s (List.replicate n v)

/-- A source, or n copies of its default where it is none. -/
def nbuSourceOr (s : State) (x : NAcc) (reg r e n dflt : Nat) : CtlR (List Nat) :=
  if reg = 0xFF then .done s (List.replicate n dflt) else nbuSource s x reg r e n

/-- Elements of D of a gather (R331), for the j-th NBU of its group. -/
def nbuGather (s : State) (x : NAcc) (j : Nat) (p : NStep) (r e n : Nat) : CtlR (List Nat) :=
  let d := x.k.desc
  let rowOf := fun reg => nbuAddr x.t x.slice (nOff (nRegion d reg) + r * nPitch (nRegion d reg))
  (nbuRead s x (rowOf p.a) (4 * p.count)).bind fun s ix =>
  (if p.b = 0xFF then CtlR.done s 0 else nbuRead s x (rowOf p.b) (4 * p.count)).bind fun s wt =>
  let tw := fmtWidth p.tfmt
  (List.range p.count).foldl (fun (a : CtlR (List Nat)) i => a.bind fun s acc =>
    let y := elemOf 32 ix i
    let w := if p.b = 0xFF then p.imm0 else elemOf 32 wt i
    if y = 0xFFFFFFFF then .done s acc
    else if p.trows ≤ y then .fail s 0x53
    else
      let at' := p.table + 128 * p.tpitch * y + (j * nSeg d + e) * tw / 8
      if s.targetB at' = .host then .fail s 0x54
      else (nbuRead s x at' (n * tw / 8)).bind fun s v =>
        .done s (acc.mapIdx fun k z => nFma w (convert p.tfmt 0 0 false false 0 (elemOf tw v k)).1 z))
    (.done s (List.replicate n 0))

/-- Converts results to the format of D: bits of the elements packed, and the generator (R326, R330). -/
def nbuPack (fmt : Nat) (p : NStep) (g : R32) (vs : List Nat) : Nat × R32 :=
  let w := fmtWidth fmt
  let z := vs.foldl (fun (a : Nat × Nat × R32) v =>
    let g := if p.rm = 4 then srStep a.2.2 else a.2.2
    (a.1 + (convert 0 fmt p.rm p.sat false g.toNat v).1 <<< (w * a.2.1), a.2.1 + 1, g)) (0, 0, g)
  (z.1, z.2.2)

/-- The directory actions of an NBU step for the line it will write come before the line is read (R291, R332). -/
def nbuPrep (s : State) (x : NAcc) : CtlR Unit := match x.dst with
  | none => .done s ()
  | some line => match engWriteReady s (nbuAgent x.t x.c) line with
    | .ok s => .done s ()
    | .wait s => .wait s

/-- An NBU writes one whole line of its slice (R332, R334). -/
def nbuWrite (s : State) (x : NAcc) (v : Nat) : CtlR Unit := match x.dst with
  | none => .done s ()
  | some line =>
    if !s.nbuWin x.t x.k.src.kw (line * 128) 128 then .fail s 0x13
    else match engWriteBytes s (nbuAgent x.t x.c) (line * 128) 128 v with
    | .wait s => .wait s
    | .done s (some .uncorrectable) => .wait s
    | .done s (some e) => .fail s e.code
    | .done s none => .done s ()

/-- Combines two partials of a statistic, componentwise (R328). -/
def nbuCombine (p : NStep) (x y : List R32) : List R32 :=
  (x.zip y).map fun q => BitVec.ofNat 32 ((if p.op = 0x30 then nMax else nAdd) q.1.toNat q.2.toNat)

/-- The lane partials before the first element: sums start at +0.0; the maximum of nothing is the other operand (R98). -/
def NStep.lanes0 (p : NStep) : List R32 :=
  List.replicate (if p.op = 0x21 then 128 else 64) (if p.op = 0x30 then BitVec.ofNat 32 fp32.nanBits else 0)

/-- Adds elements from e on to the lane partials (R328 step 1). -/
def nbuLanes (p : NStep) (ls : List R32) (e : Nat) (vs : List Nat) : List R32 :=
  vs.zipIdx.foldl (fun ls q =>
    let l := (e + q.2) % 64
    let old := fun i => (ls.getD i 0).toNat
    let v := q.1
    match p.op with
    | 0x20 => ls.set l (BitVec.ofNat 32 (nFma v v (old l)))
    | 0x21 => (ls.set l (BitVec.ofNat 32 (nAdd (old l) v))).set (64 + l) (BitVec.ofNat 32 (nFma v v (old (64 + l))))
    | 0x30 => ls.set l (BitVec.ofNat 32 (nMax (old l) v))
    | _ => ls.set l (BitVec.ofNat 32 (nAdd (old l) v))) ls

/-- The fixed tree over 64 partials (R328 step 2). -/
def nbuTree (p : NStep) (ls : List R32) : R32 :=
  let f := fun (n : Nat) (l : List R32) => nbuCombine p (l.take n) (l.drop n)
  ((f 1 (f 2 (f 4 (f 8 (f 16 (f 32 ls)))))).head?).getD 0

/-- The statistic of a row from its total (R328 step 4). -/
def nbuStat (p : NStep) (d : Nat) (v : List R32) : List R32 :=
  let n := nWidth d * nSeg d
  let q := fun i => nDivN (v.getD i 0).toNat n
  match p.op with
  | 0x20 => [BitVec.ofNat 32 (nTrans 1 (nAdd (q 0) p.imm0))]
  | 0x21 =>
    let mu := q 0
    let var := nMax 0 (nFma (n32 (nDec mu).neg) mu (q 1))
    [BitVec.ofNat 32 mu, BitVec.ofNat 32 (nTrans 1 (nAdd var p.imm0))]
  | _ => v

/-- A combined partial leaves an NBU: along the chain, or, at the last NBU of the group, as the row's statistic to every
NBU of the group (R328 steps 3 to 5). -/
def nbuSend (t : TowerId) (k : NbuCmd) (p : NStep) (c r : Nat) (v : List R32) (s : State) : State :=
  let d := k.desc
  let g := (c - nFirst d) / nWidth d
  let s := s.modUnit t k.seq c fun u => { u with sent := sset u.sent r v }
  if (c - nFirst d) % nWidth d + 1 < nWidth d then s
  else
    let st := nbuStat p d v
    (List.range (nWidth d)).foldl (fun s j =>
      let i := nFirst d + g * nWidth d + j
      s.modUnit t k.seq i fun u => if i = c then { u with stat := sset u.stat r st } else { u with inn := sset u.inn r st }) s

/-- A row of a statistic is complete on an NBU: its partial is formed and, on the first NBU of the group, sent (R328). -/
def nbuRowDone (t : TowerId) (k : NbuCmd) (p : NStep) (c r : Nat) (ls : List R32) (s : State) : State :=
  let v := if p.op = 0x21 then [nbuTree p (ls.take 64), nbuTree p (ls.drop 64)] else [nbuTree p ls]
  let s := s.modUnit t k.seq c fun u => { u with own := sset u.own r v }
  if (c - nFirst k.desc) % nWidth k.desc = 0 then nbuSend t k p c r v s else s

/-- Moves an NBU past a line access: to the second pass, or to the end of the step or of its command (R329, R335). -/
def NbuUnit.past (u : NbuUnit) (p : NStep) (d : Nat) : NbuUnit :=
  let u := { u with line := u.line + 1, got := [] }
  if u.line < p.accesses d u.pass2 then u
  else if !u.pass2 && p.isStat then { u with pass2 := true, line := 0 }
  else { u with stepDone := true, done := decide (nSteps d ≤ u.step + 1) }

/-- The line of D that holds element e of row r. -/
def nbuDst (t : TowerId) (slice d reg r e : Nat) : Option Nat :=
  some (nbuAddr t slice (nOff (nRegion d reg) + r * nPitch (nRegion d reg) + e * fmtWidth (nFmt (nRegion d reg)) / 8) / 128)

/-- One line access of the first pass, or of an operation without a statistic (R327 to R331). -/
def nbuFirst (s : State) (t : TowerId) (k : NbuCmd) (c : Nat) (u : NbuUnit) (p : NStep) : CtlR Unit :=
  let d := k.desc
  let sl := (s.tw t).chainSlice c
  let n := nPer d p.walked
  let per := nSeg d / n
  let r := u.line / per
  let e := u.line % per * n
  let stats := fun (s : State) (vs : List Nat) =>
    let ls := nbuLanes p (if e = 0 then p.lanes0 else u.lanes) e vs
    let s := s.modUnit t k.seq c fun u => { u with lanes := ls }
    if e + n = nSeg d then nbuRowDone t k p c r ls s else s
  if p.walked = p.a ∧ p.isStat ∧ p.op ≠ 0x31 then
    (nbuSource s ⟨t, k, c, sl, none⟩ p.a r e n).bind fun s vs => .done (stats s vs) ()
  else
    let x : NAcc := ⟨t, k, c, sl, nbuDst t sl d p.d r e⟩
    (nbuPrep s x).bind fun s _ =>
    let vals := if p.op = 0x40 then nbuGather s x ((c - nFirst d) % nWidth d) p r e n
      else (nbuSourceOr s x p.b r e n p.imm0).bind fun s bs =>
        (if p.op = 0x31 then CtlR.done s (List.replicate n 0) else nbuSourceOr s x p.c r e n p.imm1).bind fun s cs =>
        (nbuSource s x p.a r e n).bind fun s as =>
        .done s ((as.zip (bs.zip cs)).map fun q => nbuElem p q.1 q.2.1 q.2.2)
    vals.bind fun s vs =>
      let f := nFmt (nRegion d p.d)
      let out := nbuPack f p u.sr vs
      (nbuWrite s x out.1).bind fun s _ =>
        let s := s.modUnit t k.seq c fun u => { u with sr := out.2 }
        let w := fmtWidth f
        .done (if p.op = 0x31 then
          stats s ((List.range n).map fun i => (convert f 0 0 false false 0 (elemOf w out.1 i)).1) else s) ()

/-- One line access of the second pass (R329): the apply pass, or a line of the scalar result. -/
def nbuSecond (s : State) (t : TowerId) (k : NbuCmd) (c : Nat) (u : NbuUnit) (p : NStep) : CtlR Unit :=
  let d := k.desc
  let sl := (s.tw t).chainSlice c
  if p.op = 0x20 ∨ p.op = 0x21 then
    if u.stat.length < nRows d then .wait s
    else
      let n := nPer d p.d
      let per := nSeg d / n
      let r := u.line / per
      let e := u.line % per * n
      let x : NAcc := ⟨t, k, c, sl, nbuDst t sl d p.d r e⟩
      (nbuPrep s x).bind fun s _ =>
      (nbuSourceOr s x p.b r e n 0x3F800000).bind fun s bs =>
      (nbuSourceOr s x p.c r e n 0).bind fun s cs =>
      (nbuSource s x p.a r e n).bind fun s as =>
      let st := sget [] u.stat r
      let out := nbuPack (nFmt (nRegion d p.d)) p u.sr ((as.zip (bs.zip cs)).map fun q => nbuApply p st q.1 q.2.1 q.2.2)
      (nbuWrite s x out.1).bind fun s _ => .done (s.modUnit t k.seq c fun u => { u with sr := out.2 }) ()
  else
    let reg := if p.op = 0x30 then p.d else p.c
    let rows := (List.range 32).map fun i => 32 * u.line + i
    if rows.any fun r => decide (r < nRows d) && (sfind u.stat r).isNone then .wait s
    else
      let vs := rows.map fun r => if r < nRows d then ((sget [] u.stat r).getD 0 0).toNat else 0
      nbuWrite s ⟨t, k, c, sl, some (nbuAddr t sl (nOff (nRegion d reg) + 128 * u.line) / 128)⟩ (nbuPack 0 p 0 vs).1

/-- An NBU reads, computes and writes one line (R332). A slice locked out meanwhile is a hole, and after a failure anywhere in the
command it begins no further line (R337). -/
def nbuLineAccessOn (t : TowerId) (c : Nat) (s : State) : Res :=
  match (s.tw t).nbu.queueOf c with
  | [] => .next s
  | k :: _ =>
    let u := sget NbuUnit.init k.units c
    let p := nStep k.desc u.step
    let fail := fun (s : State) (e : Nat) => (s.modUnit t k.seq c fun u => { u with failed := true }).modCmd t k.seq fun k =>
      { k with errs := k.errs ++ [(u.step, c, e)] }
    if !u.started || u.stepDone || u.failed || (!k.errs.isEmpty && u.got.isEmpty) then .next s
    else if !(s.tw t).sliceLive ((s.tw t).chainSlice c) then .next (fail s 0x13)
    else match (if u.pass2 then nbuSecond s t k c u p else nbuFirst s t k c u p) with
      | .wait s => .next s
      | .fail s e => .next (fail s e)
      | .done s _ => .next (s.modUnit t k.seq c fun u => u.past p k.desc)

/-- A row partial arrives from the NBU before: combined, incoming first, and sent on (R328 step 3). -/
def nbuChainPartialArrivalOn (t : TowerId) (c : Nat) (s : State) : Res :=
  match (s.tw t).nbu.queueOf c with
  | [] => .next s
  | k :: _ =>
    let u := sget NbuUnit.init k.units c
    let p := nStep k.desc u.step
    if (c - nFirst k.desc) % nWidth k.desc = 0 || !u.started || !p.isStat then .next s
    else match sfind k.units (c - 1) with
      | none => .next s
      | some q =>
        if q.step ≠ u.step then .next s
        else match q.sent.find? fun m => (sfind u.own m.1).isSome && (sfind u.sent m.1).isNone with
          | none => .next s
          | some m => .next (nbuSend t k p c m.1 (nbuCombine p m.2 (sget [] u.own m.1)) s)

/-- A row statistic reaches an NBU of the group (R328 step 5). -/
def nbuStatisticReturnOn (t : TowerId) (c : Nat) (s : State) : Res :=
  match (s.tw t).nbu.queueOf c with
  | [] => .next s
  | k :: _ =>
    match (sget NbuUnit.init k.units c).inn with
    | [] => .next s
    | (r, v) :: rest => .next (s.modUnit t k.seq c fun u => { u with inn := rest, stat := sset u.stat r v })

/-- A running failure stops every NBU of the span at its next line boundary (R336, R337). -/
def nbuRunningFailureOn (t : TowerId) (s : State) : Res :=
  match (s.tw t).nbu.cmds.find? fun k => !k.ended && !k.errs.isEmpty with
  | none => .next s
  | some k =>
    let step := ((k.errs.head?).map Prod.fst).getD 0
    let here := k.errs.filter fun e => decide (e.1 = step)
    match leastBy (fun e => e.2.1) here with
    | none => .next s
    | some e => .next (s.modCmd t k.seq fun k => { k with ended := true, result := e.2.2, rstep := step, rnbu := e.2.1 })

/-- Advances DONE_SEQ over the numbers that have completed (R340). -/
def seqAdvance : Nat → Nat → List Nat → Nat × List Nat
  | 0, d, a => (d, a)
  | f + 1, d, a => if a.contains (seqNext d) then seqAdvance f (seqNext d) (a.erase (seqNext d)) else (d, a)

/-- A command leaves the dispatcher, counted as completed. -/
def Nbu.finish (n : Nbu) (seq result : Nat) : Nbu :=
  let z := seqAdvance (n.doneAhead.length + 1) n.doneSeq (n.doneAhead ++ [seq])
  { n with cmds := n.cmds.filter fun k => decide (k.seq ≠ seq), doneSeq := z.1, doneAhead := z.2, lastResult := result }

/-- The status word of R336. -/
def NbuCmd.word (k : NbuCmd) : R32 :=
  BitVec.ofNat 32 (2 ^ 31 + k.result % 128 * 2 ^ 24 + k.rstep % 16 * 2 ^ 20 + k.rnbu % 1024 * 2 ^ 10)

/-- A command completes: its writes are system-acknowledged, with host copies of its slices recalled, and its status word
is formed and written (R336, R337). -/
def nbuCommandCompleteOn (t : TowerId) (seq : Nat) (s : State) : Res :=
  match (s.tw t).nbu.cmds.find? fun k => decide (k.seq = seq) with
  | none => .next s
  | some k =>
    let all := k.delivered && k.units.all fun q => q.2.done
    let span := k.units.map fun q => (s.tw t).chainSlice q.1
    let open' := (s.tw t).mem.snoops.any fun q => match s.targetB (q.line * 128) with
      | .pinned _ sl => span.contains sl
      | _ => false
    if !(k.ended || all) || open' then .next s
    else
      let cpl := if k.cplOk then engWriteBytes s (dispAgent t) (nCpl k.desc) 4 k.word.toNat else .done s none
      match cpl with
      | .wait s => .next s
      | .done s _ =>
        let s := s.modTw t fun x => x.modNbu fun n => n.finish seq k.result
        match k.src with
        | .driver => .next s
        | .brick sl _ h => .next (opComplete ⟨t, sl⟩ h k.word s)

/-- Commands of a source are abandoned without a status word (R338). -/
def Tower.nbuAbandon (x : Tower) (p : NbuSrc → Bool) : Tower :=
  x.modNbu fun n => (n.cmds.filter fun k => p k.src).foldl (fun n k => n.finish k.seq n.lastResult) n

/-! The commands, with the stop of the clocks and the engine records. -/

/-- `NBU_CHAIN_PARTIAL_ARRIVAL`, held while the tower's clocks are stopped (R600, R602). -/
def execNbuChainPartialArrival (t : TowerId) (c : Nat) (s : State) : Res :=
  gate t (nbuChainPartialArrivalOn t c) s

/-- `NBU_COMMAND_COMPLETE`, held while the tower's clocks are stopped (R600, R602). -/
def execNbuCommandComplete (t : TowerId) (seq : Nat) (s : State) : Res :=
  gate t (nbuCommandCompleteOn t seq) s

/-- `NBU_DELIVERY`, held while the tower's clocks are stopped (R600, R602). -/
def execNbuDelivery (t : TowerId) (s : State) : Res :=
  gate t (nbuDeliveryOn t) s

/-- `NBU_DESCRIPTOR_ARRIVAL`, held while the tower's clocks are stopped (R600, R602). -/
def execNbuDescriptorArrival (t : TowerId) (s : State) : Res :=
  gate t (nbuDescriptorArrivalOn t) s

/-- `NBU_DISPATCH_HEAD`, held while the tower's clocks are stopped (R600, R602). -/
def execNbuDispatchHead (t : TowerId) (s : State) : Res :=
  gate t (nbuDispatchHeadOn t) s

/-- `NBU_LINE_ACCESS`, held while the tower's clocks are stopped (R600, R602) or thermal retention holds the base side of the
region (R569). -/
def execNbuLineAccess (t : TowerId) (c : Nat) (s : State) : Res :=
  gate t (fun s =>
    if (sget Region.init (s.tw t).sys.regions ((s.tw t).chainSlice c / 8)).ret.testBit 1 then .next s
    else marking (fun s1 => decide ((s1.tw t).nbu.cmds ≠ (s.tw t).nbu.cmds))
      (fun s1 => s1.advEng t (24 + (s.tw t).chainSlice c))
      (unthrottled ((s.tw t).nbuWithheld ((s.tw t).chainSlice c)) (nbuLineAccessOn t c)) s) s

/-- `NBU_RUNNING_FAILURE`, held while the tower's clocks are stopped (R600, R602). -/
def execNbuRunningFailure (t : TowerId) (s : State) : Res :=
  gate t (nbuRunningFailureOn t) s

/-- `NBU_STATISTIC_RETURN`, held while the tower's clocks are stopped (R600, R602). -/
def execNbuStatisticReturn (t : TowerId) (c : Nat) (s : State) : Res :=
  gate t (nbuStatisticReturnOn t c) s

/-- `NBU_STEP_START`, held while the tower's clocks are stopped (R600, R602). -/
def execNbuStepStart (t : TowerId) (c : Nat) (s : State) : Res :=
  gate t (nbuStepStartOn t c) s

end Sys2Proof.Machine
end

