-- ==== Sys2Proof/Machine/Kiln.lean ====
section
/-! DEFINITION. The launch record (R498 to R501) and the kiln's checks of it and of its descriptor list (R502 to R504). -/

namespace Sys2Proof.Machine

open Sys2Proof

/-- Fields of a launch record (R498, R499). -/
def lCtrl (r : Nat) : Nat := dbytes r 0 8
def lIdent (r : Nat) : Nat := dbytes r 0x08 4
def lNblock (r : Nat) : Nat := dbytes r 0x0C 4
def lCode (r : Nat) : Nat := dbytes r 0x10 8
def lCodeSize (r : Nat) : Nat := dbytes r 0x18 4
def lEntry (r : Nat) : Nat := dbytes r 0x1C 4
def lThreads (r : Nat) : Nat := dbytes r 0x20 2
def lRegs (r : Nat) : Nat := dbytes r 0x22 1
def lCluster (r : Nat) : Nat := dbytes r 0x23 1
def lMin (r : Nat) : Nat := max 1 (dbytes r 0x28 2)
def lMax (r : Nat) : Nat := dbytes r 0x2A 2
def lSeed (r : Nat) : Nat := dbytes r 0x2C 4
def lTimeout (r : Nat) : Nat := dbytes r 0x30 4
def lDescs (r : Nat) : Nat := dbytes r 0x34 2
def lList (r : Nat) : Nat := dbytes r 0x38 8
def lSpUnits (r : Nat) : Nat := bits (lCtrl r) 55 53
def lRestart (r : Nat) : Bool := (lCtrl r).testBit 52
def lDebug (r : Nat) : Bool := (lCtrl r).testBit 51
def lStrict (r : Nat) : Bool := (lCtrl r).testBit 50
def lOrdered (r : Nat) : Bool := (lCtrl r).testBit 49
def lMsi (r : Nat) : Bool := (lCtrl r).testBit 48
/-- The declared scratchpad rounded up to 1 KiB (R53). -/
def lSpBytes (r : Nat) : Nat := cdiv (dbytes r 0x24 4) 1024 * 1024
/-- Groups of a block (R39). -/
def lGroups (r : Nat) : Nat := cdiv (lThreads r) 32
/-- The allocated register count A (R52). -/
def lAlloc (r : Nat) : Nat := cdiv (lRegs r) 8 * 8
/-- Groups of the kernel that a scheduler holds, Q (R52). -/
def lQ (r : Nat) : Nat := min 16 (512 / max 1 (lAlloc r))

/-- A window entry: base and word (R500). -/
def lWinBase (r i : Nat) : Nat := dbytes r (0x80 + 16 * i) 8
def lWinWord (r i : Nat) : Nat := dbytes r (0x88 + 16 * i) 8
def lWin (r i : Nat) : Win :=
  ⟨lWinBase r i, bits (lWinWord r i) 47 0, (lWinWord r i).testBit 63, (lWinWord r i).testBit 62⟩

/-- The used windows of a record (R500). -/
def lUsed (r : Nat) : List Nat := (List.range 8).filter fun i => decide (lWinBase r i ≠ 0) || decide (lWinWord r i ≠ 0)

/-- What a brick holds of a launch (R63, R145, R498 to R500), with the brick's logical ID. -/
def runOf (num r lid : Nat) : RunCtx where
  launch := num
  ident := BitVec.ofNat 32 (lIdent r)
  codeBase := lCode r
  codeSize := lCodeSize r
  entry := lEntry r
  alloc := lAlloc r
  threads := lThreads r
  spBytes := lSpBytes r
  spUnits := lSpUnits r
  cluster := lCluster r
  debug := lDebug r
  strictDead := lStrict r
  seed := BitVec.ofNat 32 (lSeed r)
  nblock := lNblock r
  wins := (lUsed r).map (lWin r)
  lbrick := lid

/-- The ranges of device and host addresses that are not holes to bricks, ascending (R23 to R26). -/
def State.validRanges (s : State) : List (Nat × Nat) :=
  let hbm := fun (t : TowerId) => (hbmBase t, hbmBase t + (s.tw t).stackN * 48 * 2 ^ 30)
  let pin := fun (t : TowerId) =>
    if (s.tw t).pinned = 0 then []
    else ((List.range 576).filter (s.tw t).slicePinned).map fun k =>
      (pinBase t + k * 2 ^ 22, pinBase t + k * 2 ^ 22 + (s.tw t).pinned * 2 ^ 18)
  [hbm .t0, hbm .t1] ++ pin .t0 ++ pin .t1 ++ [(2 ^ 47, 2 ^ 48)]

/-- A range of addresses touches a hole (R26, R659). -/
def State.touchesHole (s : State) (t : TowerId) (a n : Nat) : Bool :=
  decide (coverTo s.validRanges 1 a < a + n) || !(s.tw t).kwinOk a n

/-- A range of addresses touches memory of a tower (R27). -/
def touchesTower (t : TowerId) (a n : Nat) : Bool :=
  (decide (a < hbmBase t + 2 ^ 39) && decide (hbmBase t < a + n)) ||
  (decide (a < pinBase t + 2 ^ 39) && decide (pinBase t < a + n))

def overlap (a n b m : Nat) : Bool := decide (a < b + m) && decide (b < a + n)

/-- Live bricks of a tower by slice, ascending (R21, R22). -/
def Tower.liveBricks (x : Tower) : List Nat := x.lmap.map Prod.snd

/-- Live bricks of a course. -/
def Tower.liveOn (x : Tower) (c : Nat) : Nat := (x.liveBricks.filter fun s => decide (s / 24 = c)).length

/-- Checks 0x01 to 0x0B of a record, and those of 0x0C that concern the list as a whole: code and INDEX of the first failure
(R503). -/
def kilnRecord (s : State) (t : TowerId) (r : Nat) : Option (Nat × Nat) :=
  let x := s.tw t
  let used := lUsed r
  let first := fun (p : Nat → Bool) => used.find? p
  let fmtBad := fun i =>
    let w := lWin r i
    decide (w.base % 128 ≠ 0) || decide (w.size = 0) || (decide (w.size % 128 ≠ 0) && (w.write || w.const)) ||
      decide (2 ^ 48 < w.base + w.size) || (w.const && w.write) ||
      (w.const && used.any fun j => decide (j ≠ i) && overlap w.base w.size (lWin r j).base (lWin r j).size)
  if bits (lCtrl r) 63 56 ≠ 1 ∨ bits (lCtrl r) 47 0 ≠ 0 ∨ dbytes r 0x36 2 ≠ 0 ∨ dbytes r 0x40 64 ≠ 0 ∨
      ((List.range 8).any fun i => decide (bits (lWinWord r i) 61 48 ≠ 0)) = true then some (0x01, 0)
  else if lNblock r = 0 ∨ lThreads r = 0 ∨ 2048 < lThreads r ∨ lRegs r = 0 ∨ lCluster r = 0 ∨ 8 < lCluster r ∨
      lNblock r % lCluster r ≠ 0 then some (0x02, 0)
  else if lCode r % 128 ≠ 0 ∨ lCodeSize r % 128 ≠ 0 ∨ 2 ^ 24 < lCodeSize r ∨ lEntry r % 8 ≠ 0 ∨ lCodeSize r ≤ lEntry r ∨
      s.touchesHole t (lCode r) (lCodeSize r) = true then some (0x03, 0)
  else match first fmtBad with
  | some i => some (0x04, i)
  | none => match first fun i => s.touchesHole t (lWin r i).base (lWin r i).size with
  | some i => some (0x05, i)
  | none => match first fun i => touchesTower t.other (lWin r i).base (lWin r i).size && !(s.tw t.other).serving with
  | some i => some (0x06, i)
  | none => match first fun i => (lWin r i).write && overlap (lCode r) (lCodeSize r) (lWin r i).base (lWin r i).size with
  | some i => some (0x07, i)
  | none =>
    if lSpUnits r * 2 ^ 16 < lSpBytes r then some (0x08, 0)
    else if 64 < lGroups r ∨ lQ r < cdiv (lGroups r) 4 then some (0x09, 0)
    else if ((List.range 24).any fun c => decide (lCluster r ≤ x.liveOn c)) = false then some (0x0A, 0)
    else if x.liveBricks.length < lMin r ∨ (lMax r ≠ 0 ∧ (lMax r < lMin r ∨ lMax r < lCluster r)) then some (0x0B, 0)
    else if 4096 < lDescs r ∨ (lDescs r = 0 ∧ lList r ≠ 0) ∨
        (lDescs r ≠ 0 ∧ ((used.map (lWin r)).any fun w => decide (w.base ≤ lList r) &&
          decide (lList r + 8 * lDescs r ≤ w.base + w.size)) = false) then some (0x0C, 0xFFFFFFFF)
    else none

/-- Bytes of a descriptor that lie in no single window (R500, R503). -/
def RunCtx.outside (r : RunCtx) (a n : Nat) : Bool := !r.winOk a n false

/-- The check of one entry of the list: the step waits (with the first line of an NBU descriptor, once it has been read), an uncorrectable sector is met, or code and DETAIL of a failure. -/
inductive DescR where
  | wait (s : State) (head : Option Nat)
  | lost (s : State)
  | done (s : State) (bad : Option (Nat × Nat))

/-- Checks 0x0C to 0x0E of an entry of the descriptor list (R501, R503): its form and place, the checks that its engine makes at
start, and the count of output tiles. `head` is the first line of an NBU descriptor that an earlier try has read. -/
def kilnEntry (s : State) (ag : Agent) (run : RunCtx) (head : Option Nat) (e : Nat) : DescR :=
  let t := ag.t
  let typ := bits e 63 62
  let a := bits e 47 0
  let n := if typ = 1 then 256 else 128
  let read := fun (s : State) (hd : Option Nat) (a n : Nat) (k : State → Nat → DescR) => match engReadBytes s ag none a n with
    | .wait s => .wait s hd
    | .done s (.error .uncorrectable) => .lost s
    | .done s (.error er) => .done s (some (0x0D, er.code))
    | .done s (.ok d) => k s d
  let of := fun (s : State) (c : Option Nat) => DescR.done s (c.map fun c => (0x0D, c))
  if typ = 0 ∨ bits e 61 48 ≠ 0 ∨ a % 128 ≠ 0 ∨ run.outside a n = true then .done s (some (0x0C, 0))
  else if s.targetB a = .host then .done s (some (0x0D, if typ = 3 then 0x54 else 0x20))
  else if typ = 1 then read s none a 256 fun s d =>
    let x := tdesc d
    match startCheck s run ⟨0, 0, 0, 0, 0, 0, run.spBytes, 0, [], [], false, false⟩ x with
    | some c => .done s (some (0x0D, c))
    | none => .done s (if 0x7FFFFF < x.mt * cdiv x.n 8 * (x.x0 * x.x1 * x.x2) then some (0x0E, 0) else none)
  else if typ = 2 then read s none a 128 fun s d => of s (rtCheck s run run.spBytes d)
  else
    let steps := fun (s : State) (h : Nat) =>
      let k := nSteps h
      if k = 0 ∨ 16 < k then of s (nbuCheck s t (some run) h)
      else if run.outside a (128 + 32 * k) then .done s (some (0x0C, 0))
      else read s (some h) (a + 128) (32 * k) fun s v => of s (nbuCheck s t (some run) (h + v <<< 1024))
    match head with
    | some h => steps s h
    | none => read s none a 128 steps

end Sys2Proof.Machine
end

