-- ==== Sys2Proof/Machine/Cp.lean ====
section
/-! DEFINITION. The command processor (R493 to R513): launch tables, the kiln's course, grants of bricks, delivery and placement
of blocks (R51 to R60), faults, timeouts, aborts, reissue and completion. -/

namespace Sys2Proof.Machine

open Sys2Proof

def Tower.modCp (x : Tower) (f : Cp → Cp) : Tower := { x with cp := f x.cp }
def State.modCp (s : State) (t : TowerId) (f : Cp → Cp) : State := s.modTw t fun x => x.modCp f

/-- A launch by the number of its present issue. -/
def Tower.launch? (x : Tower) (num : Nat) : Option Launch := x.cp.launches.find? fun l => decide (l.num = num)

def State.modLaunch (s : State) (t : TowerId) (num : Nat) (f : Launch → Launch) : State :=
  s.modCp t fun c => { c with launches := c.launches.map fun l => if l.num = num then f l else l }

/-- A number names an issue of the launch. -/
def Launch.is (l : Launch) (n : Nat) : Bool := decide (l.num = n) || l.old.contains n

/-- The master that the command processor's requests are charged to (log entry 31). -/
def cpMaster : Nat := 28

/-- The command processor as the agent of a launch table, and of a launch (log entry 31). -/
def ltAgent (t : TowerId) (n : Nat) : Agent := ⟨t, cpMaster, 2 + n⟩
def launchAgent (t : TowerId) (num : Nat) : Agent := ⟨t, cpMaster, 10 + num⟩

/-- The command processor works: the tower is READY and no reset has been detected (R385, R510). -/
def Tower.cpRuns (x : Tower) : Bool :=
  decide (x.fget Fld.glbTower_STATE = 2) && x.cdrReq.isNone && x.warmReq.isNone

/-! Launch tables. -/

/-- Base address and entries of a table (R493). -/
def Tower.ltBase (x : Tower) (n : Nat) : Nat := x.fget Fld.cpLtCfg_BASE n * 128
def Tower.ltEntries (x : Tower) (n : Nat) : Nat := 16 * 2 ^ x.fget Fld.cpLtCfg_SIZE n

/-- The state lines of a table (R495). -/
def Tower.ltLines (x : Tower) (n : Nat) : List Nat :=
  (List.range (x.ltEntries n / 16)).map fun k => x.ltBase n / 128 + k

/-- The lines to read on a watch signal: from HEAD's line onward around the table, and HEAD's line again (R496). -/
def Tower.scanOf (x : Tower) (n : Nat) : List (Nat × Nat × Option Nat) :=
  let k := x.ltEntries n / 16
  let h := x.fget Fld.cpLtStat_HEAD n / 16
  (List.range (k + 1)).map fun i => (n, (h + i) % k, none)

/-- Removes the watches of a table and its reads (R495, R496). -/
def unwatch (t : TowerId) (n : Nat) (s : State) : State :=
  let s := (sget [] (s.tw t).cp.watched n).foldl (fun s l => (watchDo s t false l).1) s
  s.modCp t fun c => { c with watched := sdel c.watched n, scan := c.scan.filter fun p => decide (p.1 ≠ n) }

def Tower.setLt (x : Tower) (n st : Nat) : Tower := x.fset Fld.cpLtStat_STATE st n

/-- Launches of a table that have not completed. -/
def Tower.ltLive (x : Tower) (n : Nat) : Bool := x.cp.launches.any fun l => decide (l.table = n)

/-- A range lies wholly in the tower's HBM or wholly in its pinned memory. -/
def State.inOwn (s : State) (t : TowerId) (a n : Nat) : Bool :=
  let x := s.tw t
  let pins := if x.pinned = 0 then [] else ((List.range 576).filter x.sliceLive).map fun k =>
    (pinBase t + k * 2 ^ 22, pinBase t + k * 2 ^ 22 + x.pinned * 2 ^ 18)
  (decide (hbmBase t ≤ a) && decide (a + n ≤ hbmBase t + x.stackN * 48 * 2 ^ 30)) || decide (a + n ≤ coverTo pins 1 a) && decide (pinBase t ≤ a)

/-- Enables a table (R495): the whole table lies in this tower's memory, and every state line is watched. -/
def ltEnable (t : TowerId) (n : Nat) (s : State) : State :=
  let x := s.tw t
  if !s.inOwn t (x.ltBase n) (2048 + 256 * x.ltEntries n) then s.modTw t fun x => x.setLt n 3
  else
    let r := (x.ltLines n).foldl (fun (a : State × List Nat × Nat) l =>
      if a.2.2 ≠ 1 then a
      else match watchDo a.1 t true l with
        | (s, 1) => (s, a.2.1 ++ [l], 1)
        | (s, 5) => (s, a.2.1, 1)
        | (s, c) => (s, a.2.1, c)) (s, [], 1)
    let s := r.1.modCp t fun c => { c with watched := sset c.watched n r.2.1 }
    if r.2.2 = 1 then
      s.modTw t fun x =>
        let x := (x.setLt n 1).fset Fld.cpLtStat_HEAD 0 n
        x.modCp fun c => { c with scan := c.scan ++ x.scanOf n }
    else (unwatch t n s).modTw t fun x => x.setLt n (if r.2.2 = 3 then 2 else 3)

/-- A write of `CP_LT_CFG[n]` (R495, R523). -/
def ltWrite (t : TowerId) (n : Nat) (v : Nat) (s : State) : State :=
  let st := (s.tw t).fget Fld.cpLtStat_STATE n
  let s := s.modTw t fun x =>
    let x := x.fset Fld.cpLtCfg_ENABLE (bits v 63 63) n
    if st = 1 ∨ st = 4 then x
    else
      let x := x.fset Fld.cpLtCfg_BASE (bits v 47 7) n
      if 4 < bits v 50 48 then x else x.fset Fld.cpLtCfg_SIZE (bits v 50 48) n
  if bits v 63 63 = 1 then (if st = 1 then s else ltEnable t n s)
  else if st = 0 then s
  else (unwatch t n s).modTw t fun x => x.setLt n (if x.ltLive n then 4 else 0)

/-- A write of `CP_LT_CFG[n]` with ENABLE 1 (R495). -/
def execCpLtEnable (t : TowerId) (n : Fin 8) (v : Word) (s : State) : Res :=
  if v.toNat.testBit 63 then .next (ltWrite t n.val v.toNat s) else .next s

/-- A write of `CP_LT_CFG[n]` with ENABLE 0 (R495). -/
def execCpLtDisable (t : TowerId) (n : Fin 8) (v : Word) (s : State) : Res :=
  if v.toNat.testBit 63 then .next s else .next (ltWrite t n.val v.toNat s)

/-- The oldest watch signal reaches the command processor, which will read the state lines of the tables that the line belongs
to (R297, R496). -/
def cpWatchNotifyOn (t : TowerId) (s : State) : Res :=
  match (s.tw t).cp.sigs with
  | [] => .next s
  | l :: r => .next (s.modTw t fun x =>
      let ns := (List.range 8).filter fun n => decide (x.fget Fld.cpLtStat_STATE n = 1) && (x.ltLines n).contains l
      x.modCp fun c => { c with sigs := r, scan := c.scan ++ (ns.map x.scanOf).flatten })

/-- Writes a state word (R494). -/
def putState (ag : Agent) (base entry serial st : Nat) (s : State) : EngW :=
  engWriteBytes s ag (base + 8 * entry) 8 (serial * 2 ^ 32 + st)

/-- Takes entries of a state line from HEAD on while they hold SUBMIT (R496): answers whether every write has been made. -/
def takeEntries (t : TowerId) (n line d : Nat) : Nat → State → State × Bool
  | 0, s => (s, true)
  | f + 1, s =>
    let x := s.tw t
    let h := x.fget Fld.cpLtStat_HEAD n
    let w := dbytes d (8 * (h % 16)) 8
    if h / 16 ≠ line ∨ w % 256 ≠ 1 then (s, true)
    else
      let base := x.ltBase n
      let serial := w / 2 ^ 32
      match putState (ltAgent t n) base h serial 2 s with
      | .wait s => (s, false)
      | .done s _ =>
        let s := s.modTw t fun x =>
          let prev := (x.cp.launches.filter fun l => decide (l.table = n)).getLast?.map Launch.num
          let num := x.cp.lastNum + 1
          let l : Launch :=
            { num := num, old := [], table := n, entry := h, base := base, serial := serial, prev := prev, phase := .taken
              rcd := 0, issues := 1, desc := 0, bad := none, accepted := false, start := 0, next := 0, bricks := []
              held := false, rot := 0, rotCourse := 0, lastIn := [], most := 0, status := 0, reason := 0, detail := 0
              index := 0, fault := none, faults := 0, ent := none, head := none }
          (x.fset Fld.cpLtStat_HEAD ((h + 1) % x.ltEntries n) n).modCp fun c =>
            { c with lastNum := num, launches := c.launches ++ [l] }
        takeEntries t n line d f s

/-- Takes what the i-th line of the scan holds, and drops the line from the scan once every entry is taken. -/
def scanTake (t : TowerId) (n line d i : Nat) (s : State) : State :=
  let r := takeEntries t n line d 16 s
  if r.2 then r.1.modCp t fun c => { c with scan := ldel c.scan i } else r.1

/-- A state line arrives (R496, R298): entries are taken; a line that cannot be read fails the table. A line whose entries wait for
their state word is not read again. -/
def stateLineArrivalOn (t : TowerId) (n : Fin 8) (s : State) : Res :=
  let x := s.tw t
  match x.cp.scan.findIdx? fun p => decide (p.1 = n.val) with
  | none => .next s
  | some i =>
    if !x.cpRuns then .next s
    else match x.cp.scan[i]? with
    | none => .next s
    | some (_, k, some d) => .next (scanTake t n.val k d i s)
    | some (_, k, none) =>
      let line := x.ltBase n.val / 128 + k
      match engReadBytes s (ltAgent t n.val) none (line * 128) 128 with
      | .wait s => .next s
      | .done s (.error .uncorrectable) => .next s
      | .done s (.error _) => .next ((unwatch t n.val s).modTw t fun x => x.setLt n.val 5)
      | .done s (.ok d) =>
        let s := s.modMem t fun m => { m with
          watch := m.watch.map fun w => if w.line = line then { w with pending := false } else w }
        .next (scanTake t n.val k d i (s.modCp t fun c => { c with scan := c.scan.set i (n.val, k, some d) }))

/-! The kiln. -/

/-- A launch is rejected (R502, R503). -/
def kilnReject (t : TowerId) (num code index detail : Nat) (s : State) : State :=
  s.modLaunch t num fun l =>
    { l with phase := .ending, status := 1, reason := code, index := index, detail := detail }

/-- The outcome of the kiln: rejection, or acceptance with RUNNING written and the timer started (R504, R505); a reissue raises
ISSUES (R509). -/
def kilnDecide (t : TowerId) (l : Launch) (s : State) : State :=
  match l.bad with
  | some (c, i, d) => kilnReject t l.num c i d s
  | none =>
    let go := fun (s : State) => s.modLaunch t l.num fun k =>
      { k with
        phase := .running, accepted := true, next := 0, bricks := [], held := false, rot := 0, rotCourse := 0
        lastIn := [], issues := if k.accepted then min 255 (k.issues + 1) else k.issues
        start := if k.accepted then k.start else (s.tw t).timeNs }
    if l.accepted then go s
    else match putState (launchAgent t l.num) l.base l.entry l.serial 3 s with
      | .wait s => s
      | .done s _ => go s

/-- A taken record arrives and the kiln makes its checks (R496, R502 to R504). -/
def launchRecordArrivalOn (t : TowerId) (s : State) : Res :=
  let x := s.tw t
  if !x.cpRuns || x.cp.launches.any fun l => decide (l.phase = LPhase.kiln) then .next s
  else match x.cp.launches.find? fun l => decide (l.phase = LPhase.taken) with
  | none => .next s
  | some l =>
    let check := fun (s : State) (r : Nat) =>
      let s := s.modLaunch t l.num fun k => { k with rcd := r }
      match kilnRecord s t r with
      | some (c, i) => kilnReject t l.num c i 0 s
      | none =>
        let k : Launch := { l with rcd := r, phase := .kiln, desc := 0, bad := none, ent := none, head := none }
        let s := s.modLaunch t l.num fun _ => k
        if lDescs r = 0 then kilnDecide t k s else s
    if l.rcd ≠ 0 then .next (check s l.rcd)
    else
      let a := l.base + 2048 + 256 * l.entry
      match engReadBytes s (launchAgent t l.num) none a 256 with
      | .wait s => .next s
      | .done s (.error .uncorrectable) => .next s
      | .done s (.error e) => .next (kilnReject t l.num 1 0 e.code s)
      | .done s (.ok r) => .next (check s r)

/-- A check of list entry k has failed or passed (R503): DESC_FORMAT ends the check; the failure of the lowest code is kept. -/
def kilnNext (t : TowerId) (l : Launch) (bad : Option (Nat × Nat)) (s : State) : State :=
  match bad with
  | some (0x0C, d) => kilnReject t l.num 0x0C l.desc d s
  | _ =>
    let b := match bad, l.bad with
      | some (c, d), some o => if c < o.1 then some (c, l.desc, d) else some o
      | some (c, d), none => some (c, l.desc, d)
      | none, o => o
    let l' := { l with bad := b, desc := l.desc + 1, ent := none, head := none }
    let s := s.modLaunch t l.num fun _ => l'
    if l'.desc < lDescs l.rcd then s else kilnDecide t l' s

/-- A listed descriptor arrives (R501 to R503). `entry` and `poison` are the host's answer when the list lies in host memory. -/
def kilnDescriptorArrivalOn (t : TowerId) (entry : Word) (poison : Bool) (s : State) : Res :=
  let x := s.tw t
  match x.cp.launches.find? fun l => decide (l.phase = LPhase.kiln) with
  | none => .next s
  | some l =>
    if !x.cpRuns then .next s
    else if lDescs l.rcd ≤ l.desc then .next (kilnDecide t l s)
    else
      let a := lList l.rcd + 8 * l.desc
      let unread := fun (s : State) (code : Nat) =>
        kilnReject t l.num 0x0C (cdiv (max (a / 128 * 128) (lList l.rcd) - lList l.rcd) 8) code s
      let ag := launchAgent t l.num
      let check := fun (s : State) (e : Nat) => match kilnEntry s ag (runOf l.num l.rcd 0) l.head e with
        | .wait s h => s.modLaunch t l.num fun k => { k with ent := some e, head := h }
        | .lost s => s
        | .done s bad => kilnNext t l bad s
      if let some e := l.ent then .next (check s e)
      else if s.targetB a = .host then
        if s.hostDown || poison then .next (unread (s.poisoned poison) 0x16)
        else .next (check (s.send (.cxlRead (a / 64 * 64 - 2 ^ 47) 64)) entry.toNat)
      else match engReadBytes s ag none a 8 with
        | .wait s => .next s
        | .done s (.error .uncorrectable) => .next s
        | .done s (.error e) => .next (unread s e.code)
        | .done s (.ok e) => .next (check s e)

/-! Bricks. -/

/-- A brick holds nothing of its launch: no resident group, no block to place, no engine work (R56, R505). -/
def Brick.idle (b : Brick) : Bool :=
  b.groups.isEmpty && b.delivered.isEmpty && b.blocks.isEmpty && b.tp.run.isNone && b.mx.queue.isEmpty && b.mx.batches.isEmpty

/-- The brick that a slice holds is on: its region is not in retention, on its way there, tripped or locked out (R540, R542). -/
def Tower.regionOn (x : Tower) (slice : Nat) : Bool := decide (x.fget Fld.pwrRegion_STATE (slice / 8) = 0)

/-- The command processor may give a brick to a launch (R505, R541, R542, R632): it is up, in no test, and its region is on or
can wake for it. -/
def Tower.canTake (x : Tower) (slice : Nat) : Bool :=
  let b := x.brick slice
  let st := x.fget Fld.pwrRegion_STATE (slice / 8)
  let mode := x.fget Fld.pwrRegion_MODE (slice / 8)
  decide (b.phase = .up) && (sfind x.sys.tests slice).isNone && b.idle && b.l1in.isEmpty &&
    (if st = 0 then decide (mode ≠ 1)
     else decide (mode = 2) && decide (st ≤ 3) && decide ((sget Region.init x.sys.regions (slice / 8)).ret = 0))

/-- The launch that holds a brick. -/
def Tower.holder (x : Tower) (slice : Nat) : Option Launch := x.cp.launches.find? fun l => l.bricks.contains slice

/-- The logical ID of a live brick. -/
def Tower.lidOf (x : Tower) (slice : Nat) : Nat := ((x.lmap.find? fun p => decide (p.2 = slice)).map Prod.fst).getD 0

/-- A launch begins on a brick (R54, R105, R145). -/
def Brick.begin (b : Brick) (r : RunCtx) : Brick :=
  { b.invalidate with
    run := some r, sr := srSeed r.seed, mx := Mx.init, pointer := 0, hits := 0, misses := 0, ops := [], issues := 0, cyc := 0
    headWait := false }

/-- A brick that no launch holds any more (R61, R62, R270). -/
def Brick.leave (b : Brick) : Brick := { b with run := none, ops := [], used := true }

/-- Gives bricks to a launch (R505). -/
def giveBricks (num : Nat) (bs : List Nat) (x : Tower) : Tower :=
  match x.launch? num with
  | none => x
  | some l =>
    let x := bs.foldl (fun (x : Tower) k => x.modBrick k fun b => b.begin (runOf num l.rcd (x.lidOf k))) x
    x.modCp fun c =>
      { c with
        course := match bs.getLast? with
          | some k => k / 24
          | none => c.course
        resv := match c.resv with
          | some (n, k) => if n = num then none else some (n, k)
          | none => none
        launches := c.launches.map fun k =>
          if k.num = num then { k with bricks := k.bricks ++ bs, held := true, most := max k.most (k.bricks.length + bs.length) }
          else k }

/-- A launch wants bricks (R505): it is running, has blocks to deliver and may hold more, and an ORDERED launch's predecessor
has completed. -/
def Cp.wants (c : Cp) (l : Launch) : Bool :=
  decide (l.phase = LPhase.running) && decide (l.next < lNblock l.rcd) &&
    (decide (lMax l.rcd = 0) || decide (l.bricks.length < lMax l.rcd)) &&
    (!lOrdered l.rcd || match l.prev with
      | some p => !c.launches.any fun k => k.is p
      | none => true)

/-- The sets of bricks, course by course, that a cluster launch takes from the free ones (R505). -/
def clusterPlan (l : Launch) (free : List Nat) : List Nat → List Nat → List Nat
  | [], acc => acc
  | c :: r, acc =>
    let room := if lMax l.rcd = 0 then free.length else lMax l.rcd - l.bricks.length - acc.length
    let pool := (free.filter fun k => decide (k / 24 = c)).take room
    let have' := (l.bricks.filter fun k => decide (k / 24 = c)).length
    if !pool.isEmpty && decide (lCluster l.rcd ≤ have' + pool.length) then clusterPlan l free r (acc ++ pool)
    else clusterPlan l free r acc

/-- Grants to one launch (R505): the tower after it, and whether younger launches may take bricks. -/
def grantOne (num : Nat) (oldest : Bool) (x : Tower) : Tower × Bool :=
  match x.launch? num with
  | none => (x, true)
  | some l =>
    let courses := (List.range 24).map fun i => (x.cp.course + 1 + i) % 24
    let keep := fun (k : Nat) => match x.cp.resv with
      | some (n, c) => decide (n = num) || decide (k / 24 ≠ c)
      | none => true
    let free := x.liveBricks.filter fun k => x.canTake k && (x.holder k).isNone && keep k
    if lCluster l.rcd ≤ 1 then
      let order := (courses.map fun c => free.filter fun k => decide (k / 24 = c)).flatten
      let plan := if lMax l.rcd = 0 then order else order.take (lMax l.rcd - l.bricks.length)
      if plan.isEmpty || (!l.held && decide (plan.length < lMin l.rcd)) then (x, l.held || !oldest)
      else (giveBricks num plan x, true)
    else
      let plan := clusterPlan l free courses []
      if !plan.isEmpty then (giveBricks num plan x, true)
      else
        let fits := decide (lMax l.rcd = 0) || decide (l.bricks.length + lCluster l.rcd ≤ lMax l.rcd)
        if !oldest || x.cp.resv.isSome || !fits then (x, true)
        else
          let n := fun c => (free.filter fun k => decide (k / 24 = c)).length
          let cs := (List.range 24).filter fun c => decide (lCluster l.rcd ≤ x.liveOn c)
          match cs with
          | [] => (x, true)
          | c :: r =>
            (x.modCp fun p => { p with resv := some (num, r.foldl (fun a b => if n a < n b then b else a) c) }, true)

/-- Frees the bricks of launches that have no block left to deliver (R505), and drops a reservation that is no longer wanted. -/
def sweepBricks (x : Tower) : Tower :=
  let free := fun (l : Launch) =>
    if l.phase = LPhase.running ∧ lNblock l.rcd ≤ l.next then
      { l with bricks := l.bricks.filter fun k => !(x.brick k).idle }
    else l
  let gone := x.cp.launches.flatMap fun l => l.bricks.filter fun k => !(free l).bricks.contains k
  let x := gone.foldl (fun x k => x.modBrick k Brick.leave) x
  let x := x.modCp fun c => { c with launches := c.launches.map free }
  let wanted := fun (p : Nat × Nat) => x.cp.launches.any fun (l : Launch) => decide (l.num = p.1) && x.cp.wants l
  x.modCp fun c => { c with resv := c.resv.filter wanted }

/-- Free bricks go to the launches that want them, the oldest first (R505). -/
def brickGrantOn (t : TowerId) (s : State) : Res :=
  if !(s.tw t).cpRuns then .next s
  else
    let x := sweepBricks (s.tw t)
    let ws := (x.cp.launches.filter x.cp.wants).map Launch.num
    let r := ws.zipIdx.foldl (fun (a : Tower × Bool) p =>
      if a.2 then grantOne p.1 (decide (p.2 = 0)) a.1 else a) (x, true)
    .next (s.setTw t r.1)

/-! Blocks. -/

/-- A brick of a launch has room for a delivered block, and is on (R506, R542). -/
def Tower.hasRoom (x : Tower) (slice : Nat) : Bool :=
  decide ((x.brick slice).delivered.length < 2) && decide ((x.brick slice).phase = .up) && x.regionOn slice

/-- The element after a mark in rotating order of a list: the first whose key is at least the mark, else the first. -/
def nextAfter (key : Nat → Nat) (mark : Nat) (l : List Nat) : List Nat :=
  (l.filter fun k => decide (mark ≤ key k)) ++ l.filter fun k => decide (key k < mark)

def deliverTo (d : Delivered) (slice : Nat) (x : Tower) : Tower :=
  x.modBrick slice fun b => { b with delivered := b.delivered ++ [d] }

/-- The next block, or cluster of blocks, of a launch is delivered (R506, R59). -/
def blockDeliveryOn (t : TowerId) (num : Nat) (s : State) : Res :=
  let x := s.tw t
  match x.launch? num with
  | none => .next s
  | some l =>
    let c := lCluster l.rcd
    if !x.cpRuns || decide (l.phase ≠ LPhase.running) || decide (lNblock l.rcd ≤ l.next) then .next s
    else
      let byLid := (x.lmap.filter fun p => l.bricks.contains p.2 && x.hasRoom p.2).map Prod.snd
      if c ≤ 1 then
        match nextAfter x.lidOf l.rot byLid with
        | [] => .next s
        | k :: _ => .next ((s.setTw t (deliverTo ⟨num, l.next, 0, l.next⟩ k x)).modLaunch t num fun l =>
            { l with next := l.next + 1, rot := x.lidOf k + 1 })
      else
        let on := fun q => byLid.filter fun k => decide (k / 24 = q)
        let cs := (List.range 24).filter fun q => decide (c ≤ (on q).length)
        match nextAfter id l.rotCourse cs with
        | [] => .next s
        | q :: _ =>
          let take := (nextAfter x.lidOf (sget 0 l.lastIn q) (on q)).take c
          let last := (take.getLast?).getD 0
          let ranked := (List.range 24).filterMap fun p => if take.contains (q * 24 + p) then some (q * 24 + p) else none
          let x := ranked.zipIdx.foldl (fun x p => deliverTo ⟨num, l.next + p.2, p.2, l.next / c⟩ p.1 x) x
          .next ((s.setTw t x).modLaunch t num fun l =>
            { l with next := l.next + c, rotCourse := q + 1, lastIn := sset l.lastIn q (x.lidOf last + 1) })

/-- A new group of a block (R40, R41). -/
def newGroup (r : RunCtx) (epoch index block j : Nat) : Group where
  gid := gidOf epoch index j
  block := block
  index := j
  alloc := r.alloc
  threads := (List.range 32).map fun l => { Thread.init with
    pc := BitVec.ofNat 32 r.entry, exited := decide (r.threads ≤ 32 * j + l) }
  cur := maskOf fun l => decide (32 * j + l < r.threads)
  refLane := 0
  u := []
  pend := []
  gap := false
  sleep := none
  fpstat := 0
  timeHi := 0
  cycHi := 0
  fault := none
  held := false
  acq := none
  marks := []
  bound := none

/-- Resident groups on a scheduler. -/
def Brick.onSched (b : Brick) (k : Nat) : Nat := (b.groups.filter fun p => decide (p.1 / 16 = k)).length

/-- Free slots of a scheduler, ascending. -/
def Brick.slots (b : Brick) (k : Nat) : List Nat := (List.range 16).filter fun i => (sfind b.groups (k * 16 + i)).isNone

/-- Groups of a kernel that a scheduler holds (R52). -/
def RunCtx.q (r : RunCtx) : Nat := min 16 (512 / max 1 r.alloc)

/-- The base scheduler at which a block of the launch fits now, if any (R51 to R54). -/
def Brick.baseFor (b : Brick) (r : RunCtx) : Option Nat :=
  let g := cdiv r.threads 32
  let share := fun (base k : Nat) => ((List.range g).filter fun j => decide ((base + j) % 4 = k)).length
  let used := (b.blocks.map fun p => p.2.spBytes).foldl (· + ·) 0
  if 32 ≤ (b.blocks.filter fun p => !p.2.retired).length ∨ r.spUnits * 2 ^ 16 < used + r.spBytes then none
  else ((List.range 4).map fun i => (b.pointer + i) % 4).find? fun base =>
    (List.range 4).all fun k => decide (b.onSched k + share base k ≤ r.q)

/-- Places the oldest delivered block at a base scheduler (R54, R39 to R41). -/
def Brick.place (b : Brick) (r : RunCtx) (d : Delivered) (base : Nat) : Brick :=
  let g := cdiv r.threads 32
  let k := ((List.range 64).find? fun k => (sfind b.blocks k).isNone).getD 64
  let blk : Block := ⟨d.launch, d.index, r.threads, g, d.rank, d.clusterId, r.spBytes, b.epochs, [], [], false, !b.used⟩
  let b := (List.range g).foldl (fun (b : Brick) j =>
    let c := (base + j) % 4
    match b.slots c with
    | i :: _ => b.setGroup (c * 16 + i) (newGroup r blk.epoch d.index k j)
    | [] => b) b
  { b with
    blocks := sset b.blocks k blk, epochs := b.epochs + 1, delivered := b.delivered.drop 1
    pointer := (base + g) % 4, headWait := false }

/-- The oldest delivered block of a brick, when it can be placed now, with its launch and base. -/
def Tower.placeable (x : Tower) (slice : Nat) : Option (RunCtx × Delivered × Nat) :=
  let b := x.brick slice
  match b.run, b.delivered with
  | some r, d :: _ =>
    if b.phase ≠ .up ∨ x.regionOn slice = false then none
    else (b.baseFor r).map fun k => (r, d, k)
  | _, _ => none

/-- A delivered block is placed once it fits (R54, R55); a block of a cluster is placed with its cluster (R58). -/
def blockPlacementOn (b : BrickRef) (s : State) : Res :=
  if !(s.tw b.t).cpRuns then .next s
  else match (s.tw b.t).placeable b.s.val with
  | some (r, d, k) => if r.cluster ≤ 1 then .next (s.modBrick b fun b => b.place r d k) else .next s
  | none =>
    if (s.brick b).delivered.isEmpty then .next s else .next (s.modBrick b fun b => { b with headWait := true })

/-- The blocks of a cluster are placed together, on C bricks of one course (R58, R59). -/
def clusterPlacementOn (t : TowerId) (course : Fin 24) (launch clusterId : Nat) (s : State) : Res :=
  let x := s.tw t
  let at' := (List.range 24).filterMap fun p =>
    let k := course.val * 24 + p
    match (x.brick k).delivered with
    | d :: _ => if d.launch = launch ∧ d.clusterId = clusterId then some k else none
    | [] => none
  let ok := at'.filterMap fun k => (x.placeable k).map fun z => (k, z)
  match at'.findSome? fun k => (x.brick k).run with
  | none => .next s
  | some r =>
    if !x.cpRuns || decide (r.cluster ≤ 1) then .next s
    else if ok.length ≠ r.cluster then
      .next (s.setTw t (at'.foldl (fun x k => x.modBrick k fun b => { b with headWait := true }) x))
    else .next (s.setTw t (ok.foldl (fun x p => x.modBrick p.1 fun b => b.place p.2.1 p.2.2.1 p.2.2.2) x))

/-! Endings. -/

/-- A brick discards what it holds of a launch (R507, R681): groups, blocks, delivered blocks, the array queue and tile
program. Accesses already issued complete: no engine takes what they return. -/
def Brick.discard (b : Brick) : Brick :=
  let gids := b.groups.map fun p => p.2.gid
  let b := gids.foldl (fun b g => (b.dropWaiters g b.nextId).endPacketOf g) b
  { b with
    groups := [], blocks := [], delivered := [], headWait := false, ops := [], used := true
    ebuf := [], engErr := [], outst := b.outst.map fun o => { o with eng := o.eng.map fun _ => wordUnit }
    mx := { b.mx with queue := [], batches := [] }
    tp := { b.tp with run := none } }

/-- A launch ends on all its bricks (R507): groups are discarded, route descriptors and NBU commands abandoned (R243, R338), and
its bricks are free. -/
def endBricks (t : TowerId) (num : Nat) (s : State) : State :=
  s.modTw t fun x =>
    let ks := ((x.launch? num).map Launch.bricks).getD []
    let x := ks.foldl (fun x k => x.modBrick k fun b => b.discard.leave) x
    let drop := fun (u : RtUnit) => { u with
      q := u.q.filter fun j => decide (j.launch ≠ num), run := u.run.filter fun r => decide (r.job.launch ≠ num) }
    let x := { x with routes := x.routes.map fun (p : Nat × RtUnit) => (p.1, drop p.2) }
    let x := x.nbuAbandon fun c => match c with
      | .brick _ l _ => decide (l = num)
      | .driver => false
    let free := fun (l : Launch) => if l.num = num then { l with bricks := [] } else l
    x.modCp fun c => { c with
      resv := c.resv.filter fun (p : Nat × Nat) => decide (p.1 ≠ num), launches := c.launches.map free }

/-- A launch ends with a status (R507, R508). -/
def endLaunch (t : TowerId) (num status : Nat) (s : State) : State :=
  (endBricks t num s).modLaunch t num fun l => { l with phase := .ending, status := status }

/-- Launches that lose a brick (R509): a launch whose groups or delivered blocks the brick holds is ended on all its bricks; a
launch of which it holds nothing keeps running without it. `all` ends every launch that holds the brick (R544). -/
def loseBrick (t : TowerId) (all : Bool) (s : State) (slice : Nat) : State :=
  match (s.tw t).holder slice with
  | none => s
  | some l =>
    if all || !((s.tw t).brick slice).idle then
      (endBricks t l.num s).modLaunch t l.num fun k => { k with phase := .lost }
    else (s.modTw t fun x => x.modBrick slice Brick.leave).modLaunch t l.num fun k => { k with bricks := k.bricks.filter fun j => decide (j ≠ slice) }

/-- The oldest fault report reaches the command processor (R507): it is counted; the first of a running launch ends it. -/
def launchFaultOn (t : TowerId) (s : State) : Res :=
  match (s.tw t).faultIn with
  | [] => .next s
  | f :: r =>
    let s := s.modTw t fun x => { x with faultIn := r }
    match (s.tw t).cp.launches.find? fun l => l.is f.launch with
    | none => .next s
    | some l =>
      let s := s.modLaunch t l.num fun l => { l with faults := satAdd 32 l.faults 1 }
      if l.phase ≠ .running ∨ l.num ≠ f.launch then .next s
      else
        let s := (endLaunch t l.num 2 s).modLaunch t l.num fun l =>
          { l with
            reason := f.code, index := gidBlock f.gid
            fault := some (t.nat * 576 + f.slice, gidGroup f.gid, f.lane, f.pc, f.info) }
        .next (s.modTw t fun x =>
          if x.fget Fld.dbgTraceTrig_ON_FAULT = 1 then x.raiseTrig 2 else x)

/-- The launch timer reaches the launch's timeout (R508). -/
def launchTimeoutOn (t : TowerId) (num : Nat) (s : State) : Res :=
  match (s.tw t).launch? num with
  | none => .next s
  | some l => if l.phase = .running then .next (endLaunch t num 3 s) else .next s

/-- A write of `CP_ABORT` (R508, R522). -/
def execCpAbort (t : TowerId) (v : Word) (s : State) : Res :=
  let n := bits v.toNat 10 8
  match (s.tw t).cp.launches.find? fun l => decide (l.table = n) && decide (l.entry = bits v.toNat 7 0) &&
      [LPhase.taken, LPhase.kiln, LPhase.running, LPhase.lost].contains l.phase with
  | none => .next s
  | some l => if (s.tw t).fget Fld.cpLtStat_STATE n = 0 then .next s else .next (endLaunch t l.num 5 s)

/-- A launch whose groups were lost is handled (R509, R510): checked again as a new issue, or ended with ABORTED. -/
def launchReissueOn (t : TowerId) (num : Nat) (s : State) : Res :=
  match (s.tw t).launch? num with
  | none => .next s
  | some l =>
    if l.phase ≠ .lost ∨ (s.tw t).cpRuns = false then .next s
    else if lRestart l.rcd ∧ l.issues ≤ (s.tw t).fget Fld.cpCfg_MAX_REISSUE then
      .next (s.modCp t fun c =>
        { c with
          lastNum := c.lastNum + 1
          launches := c.launches.map fun k =>
            if k.num = num then { k with phase := .taken, num := c.lastNum + 1, old := num :: k.old } else k })
    else .next (s.modLaunch t num fun l => { l with phase := .ending, status := 4 })

/-! Completion. -/

/-- The completion record (R512, R513). -/
def Launch.record (l : Launch) (rcd now : Nat) : Nat :=
  let f := l.fault.getD (0, 0, 0, 0, 0)
  l.serial + lIdent rcd * 2 ^ 32 + l.status * 2 ^ 64 + l.reason % 256 * 2 ^ 72 + l.issues % 256 * 2 ^ 80 +
    l.detail % 256 * 2 ^ 88 + l.index % 2 ^ 32 * 2 ^ 96 + l.start % 2 ^ 64 * 2 ^ 128 + now % 2 ^ 64 * 2 ^ 192 +
    (if l.status = 2 then
      f.2.2.2.2 % 2 ^ 64 * 2 ^ 256 + f.2.2.2.1.toNat * 2 ^ 320 + f.1 % 2 ^ 16 * 2 ^ 352 + f.2.1 % 256 * 2 ^ 368 +
        f.2.2.1 % 256 * 2 ^ 376
     else 0) +
    min l.faults (2 ^ 32 - 1) * 2 ^ 384 + l.most % 2 ^ 16 * 2 ^ 416

/-- Every block of a running launch has retired and its engine work has ended, with no fault on its way (R145, R511). -/
def Tower.launchDone (x : Tower) (l : Launch) : Bool :=
  decide (lNblock l.rcd ≤ l.next) && (l.bricks.all fun k => (x.brick k).idle) &&
    (x.routes.all fun p => (p.2.q.all fun j => decide (j.launch ≠ l.num)) && (match p.2.run with
      | some r => decide (r.job.launch ≠ l.num)
      | none => true)) &&
    (x.nbu.cmds.all fun k => match k.src with
      | .brick _ n _ => decide (n ≠ l.num)
      | .driver => true) &&
    x.faultIn.all fun f => !l.is f.launch

/-- No store or atomic of the launch is on its way or awaits its system acknowledgement (R145). -/
def Tower.launchAcked (x : Tower) (l : Launch) : Bool :=
  x.bricks.all fun p => (p.2.outst.all fun o => !l.is o.launch) &&
    (p.2.l1in ++ p.2.inflight).all fun (q : Nat × MemOp) => !l.is q.2.launch || decide (q.2.kind = .load) || decide (q.2.kind = .prefetch)

/-- The last steps of a completion (R511): DONE, the count, the interrupt; a disabling table may become disabled. -/
def finishLaunch (t : TowerId) (l : Launch) (msi : Bool) (s : State) : State :=
  match putState (launchAgent t l.num) l.base l.entry l.serial 4 s with
  | .wait s => s
  | .done s _ => s.modTw t fun x =>
      let n := l.table
      let x := x.modCp fun c => { c with launches := c.launches.filter fun k => decide (k.num ≠ l.num) }
      let x := x.fset Fld.cpLtStat_COMPLETED ((x.fget Fld.cpLtStat_COMPLETED n + 1) % 2 ^ 32) n
      let x := if msi then x.raise n else x
      if x.fget Fld.cpLtStat_STATE n = 4 ∧ x.ltLive n = false then x.setLt n 0 else x

/-- The bricks of a completed launch hold nothing of it, no operation-table entry either (R122). -/
def clearOps (l : Launch) (x : Tower) : Tower := l.bricks.foldl (fun x k => x.modBrick k Brick.leave) x

/-- A launch completes (R145, R487, R489, R511): record, DONE, count and interrupt, in that order. A record in host memory is
followed by its GO message; one in device memory by the answers to the snoops it needs. -/
def launchCompleteOn (t : TowerId) (num : Nat) (s : State) : Res :=
  let x := s.tw t
  match x.launch? num with
  | none => .next s
  | some l =>
    let a := x.fget Fld.cpLtCpl_CPL l.table * 64 + 64 * l.entry
    let msi := lMsi l.rcd
    if !x.cpRuns then .next s
    else if l.phase = .written then
      let waits := (s.host.gos.contains (.cpl t num)) ||
        ((s.t0.mem.snoops ++ s.t1.mem.snoops).any fun q => decide (q.line = a / 128))
      if waits then .next s else .next (finishLaunch t l msi s)
    else if !(decide (l.phase = .ending) || (decide (l.phase = .running) && x.launchDone l)) || !x.launchAcked l then .next s
    else
      let ag := launchAgent t num
      let r := if l.rcd = 0 ∧ l.status ≠ 1 then engReadBytes s ag none (l.base + 2048 + 256 * l.entry) 256 else .done s (.ok l.rcd)
      match r with
      | .wait s => .next s
      | .done s rr =>
        let rcd := match rr with
          | .ok v => v
          | .error _ => 0
        let s := s.modLaunch t num fun k => { k with rcd := rcd }
        let v := l.record rcd x.timeNs
        let s := s.modTw t fun x => clearOps l x
        let l := { l with rcd := rcd, phase := .written, bricks := [] }
        if s.targetB a = .host then
          let s := s.modLaunch t num fun _ => l
          if s.hostDown then .next (finishLaunch t l (lMsi rcd) s)
          else .next (s.hostWrite (.cxlWrite (a / 128 * 128 - 2 ^ 47) (v <<< (8 * (a % 128)))
            ((2 ^ 64 - 1) <<< (a % 128))) (.cpl t num))
        else match engWriteBytes s ag a 64 v with
          | .wait s => .next s
          | .done s _ =>
            let s := s.modLaunch t num fun _ => l
            if (s.t0.mem.snoops ++ s.t1.mem.snoops).any fun q => decide (q.line = a / 128) then .next s
            else .next (finishLaunch t l (lMsi rcd) s)

/-! The commands, with the stop of the clocks and the engine records. -/

/-- `BLOCK_DELIVERY`, held while the tower's clocks are stopped (R600, R602). -/
def execBlockDelivery (t : TowerId) (num : Nat) (s : State) : Res :=
  gate t (blockDeliveryOn t num) s

/-- `BLOCK_PLACEMENT`, held while the tower's clocks are stopped (R600, R602). -/
def execBlockPlacement (b : BrickRef) (s : State) : Res :=
  gate b.t (blockPlacementOn b) s

/-- `BRICK_GRANT`, held while the tower's clocks are stopped (R600, R602). -/
def execBrickGrant (t : TowerId) (s : State) : Res :=
  gate t (brickGrantOn t) s

/-- `CLUSTER_PLACEMENT`, held while the tower's clocks are stopped (R600, R602). -/
def execClusterPlacement (t : TowerId) (course : Fin 24) (launch clusterId : Nat) (s : State) : Res :=
  gate t (clusterPlacementOn t course launch clusterId) s

/-- `CP_WATCH_NOTIFY`, held while the tower's clocks are stopped (R600, R602). -/
def execCpWatchNotify (t : TowerId) (s : State) : Res :=
  gate t (cpWatchNotifyOn t) s

/-- `KILN_DESCRIPTOR_ARRIVAL`, held while the tower's clocks are stopped (R600, R602). -/
def execKilnDescriptorArrival (t : TowerId) (entry : Word) (poison : Bool) (s : State) : Res :=
  gate t (kilnDescriptorArrivalOn t entry poison) s

/-- `LAUNCH_COMPLETE`, held while the tower's clocks are stopped (R600, R602). -/
def execLaunchComplete (t : TowerId) (num : Nat) (s : State) : Res :=
  gate t (launchCompleteOn t num) s

/-- `LAUNCH_FAULT`, held while the tower's clocks are stopped (R600, R602). -/
def execLaunchFault (t : TowerId) (s : State) : Res :=
  gate t (launchFaultOn t) s

/-- `LAUNCH_RECORD_ARRIVAL`, held while the tower's clocks are stopped (R600, R602). -/
def execLaunchRecordArrival (t : TowerId) (s : State) : Res :=
  gate t (launchRecordArrivalOn t) s

/-- `LAUNCH_REISSUE`, held while the tower's clocks are stopped (R600, R602). -/
def execLaunchReissue (t : TowerId) (num : Nat) (s : State) : Res :=
  gate t (launchReissueOn t num) s

/-- `LAUNCH_TIMEOUT`, held while the tower's clocks are stopped (R600, R602). -/
def execLaunchTimeout (t : TowerId) (num : Nat) (s : State) : Res :=
  gate t (launchTimeoutOn t num) s

/-- `STATE_LINE_ARRIVAL`, held while the tower's clocks are stopped (R600, R602). -/
def execStateLineArrival (t : TowerId) (n : Fin 8) (s : State) : Res :=
  gate t (stateLineArrivalOn t n) s

end Sys2Proof.Machine
end

