-- ==== Sys2Proof/Machine/Dm.lean ====
section
/-! DEFINITION. The data movers and check-value channels (R514 to R520). -/

namespace Sys2Proof.Machine

open Sys2Proof

def Tower.modDm (x : Tower) (f : Dm → Dm) : Tower := { x with dm := f x.dm }
def State.modDm (s : State) (t : TowerId) (f : Dm → Dm) : State := s.modTw t fun x => x.modDm f
/-- The data mover that runs a descriptor, as an agent (R353). -/
def dmAgent (t : TowerId) (seq : Nat) : Agent := ⟨t, 26, seq⟩

def State.modDc (s : State) (t : TowerId) (seq : Nat) (f : DmCmd → DmCmd) : State :=
  s.modDm t fun d => { d with cmds := d.cmds.map fun c => if c.seq = seq then f c else c }

/-- Fields of a data-mover descriptor (R515, R516). -/
def mOp (d : Nat) : Nat := bits d 55 54
def mRemote (d : Nat) : Bool := d.testBit 53
def mCmode (d : Nat) : Nat := bits d 52 51
def mChan (d : Nat) : Nat := bits d 50 47
def mPrefix (d : Nat) : Bool := d.testBit 46
def mSeqLoad (d : Nat) : Bool := d.testBit 45
def mCplEn (d : Nat) : Bool := d.testBit 41
def mMsi (d : Nat) : Bool := d.testBit 40
def mSrc (d : Nat) : Nat := dbytes d 0x08 8
def mDst (d : Nat) : Nat := dbytes d 0x10 8
def mLen (d : Nat) : Nat := dbytes d 0x18 8
def mChk (d : Nat) : Nat := dbytes d 0x20 8
def mSeq (d : Nat) : Nat := dbytes d 0x28 8
def mCpl (d : Nat) : Nat := dbytes d 0x30 8
def mNode (d : Nat) : Nat := dbytes d 0x38 2
/-- Block size S (R516). -/
def mBlock (d : Nat) : Nat := match bits d 44 42 with
  | 0 => 4096
  | 1 => 512
  | 2 => 1024
  | 3 => 2048
  | n => 2048 * 2 ^ (n - 2)
/-- Blocks of a descriptor (R518). -/
def mBlocks (d : Nat) : Nat := cdiv (mLen d) (mBlock d)
/-- The descriptor uses its channel. -/
def mUses (d : Nat) : Bool := decide (mCmode d ≠ 0)

/-- The failure of a descriptor at its start: DM_DESC before DM_ALIGN (R515, R516, R520). -/
def mBad (d : Nat) : Option Nat :=
  if bits d 63 56 ≠ 1 ∨ 1 < mOp d ∨ mCmode d = 3 ∨ bits d 39 0 ≠ 0 ∨ dbytes d 0x3A 6 ≠ 0 ∨ 2 ^ 11 ≤ mNode d ∨
      mLen d < 128 ∨ 2 ^ 40 < mLen d ∨ (mCmode d = 0 ∧ mChk d ≠ 0) ∨ (mCplEn d = false ∧ mCpl d ≠ 0) then some 0x70
  else if mSrc d % 128 ≠ 0 ∨ mDst d % 128 ≠ 0 ∨ mLen d % 128 ≠ 0 ∨ mChk d % 8 ≠ 0 ∨ mCpl d % 4 ≠ 0 then some 0x71
  else none

/-- A write of `DM_SUBMIT` (R514, R528). -/
def execDmSubmit (t : TowerId) (v : Word) (s : State) : Res :=
  let x := s.tw t
  if 64 ≤ x.dm.cmds.length then .next (s.setTw t (x.fset Fld.dmSubmitRes_STATE 2))
  else
    let h := seqNext x.dm.lastSeq
    let c : DmCmd := ⟨h, bits v.toNat 47 7 * 128, false, 0, 0, 0, false, false, none, none, false⟩
    .next (s.setTw t (((x.fset Fld.dmSubmitRes_STATE 1).fset Fld.dmSubmitRes_HANDLE h).modDm fun d =>
      { d with lastSeq := h, cmds := d.cmds ++ [c] }))

/-- The channel is in use by a running descriptor. -/
def Dm.busy (m : Dm) (c : Nat) : Bool := m.cmds.any fun k => k.started && mUses k.desc && decide (mChan k.desc = c)

/-- Starts a descriptor that has been read (R514, R518, R520). -/
def dmStart (t : TowerId) (seq d : Nat) (s : State) : State :=
  let bad := mBad d
  let s := s.modDc t seq fun c =>
    { c with started := true, desc := d, ended := bad.isSome, result := bad.getD 0, cplOk := mCplEn d && decide (mCpl d % 4 = 0) }
  if bad.isNone && mUses d && mPrefix d && mSeqLoad d then
    s.modTw t fun x => x.setReg .dmChanSeq (mChan d) 0 (mSeq d)
  else s

/-- Tries queued descriptors in order: the first whose channel is free starts; those behind a busy channel are passed (R514). -/
def dmPick (t : TowerId) : List DmCmd → State → State
  | [], s => s
  | c :: r, s =>
    let go := fun (s : State) (d : Nat) =>
      if (mBad d).isNone && mUses d && (s.tw t).dm.busy (mChan d) then dmPick t r (s.modDc t c.seq fun c => { c with desc := d })
      else dmStart t c.seq d s
    let fail := fun (s : State) (e : Nat) => s.modDc t c.seq fun c => { c with started := true, ended := true, result := e }
    if c.desc ≠ 0 then go s c.desc
    else if s.targetB c.addr = .host then fail s 0x70
    else match engReadBytes s (dmAgent t c.seq) none c.addr 64 with
      | .wait s => s
      | .done s (.error .uncorrectable) => s
      | .done s (.error e) => fail s e.code
      | .done s (.ok d) => go s d

/-- The mover that a running descriptor is counted at: its rank among the running ones. -/
def Dm.moverOf (m : Dm) (seq : Nat) : Nat := ((m.cmds.filter DmCmd.started).findIdx fun c => decide (c.seq = seq)) % 8

/-- A queued descriptor starts on a free mover of the eight (R514). -/
def dmDescriptorStartOn (t : TowerId) (s : State) : Res :=
  let m := (s.tw t).dm
  if 8 ≤ (m.cmds.filter DmCmd.started).length then .next s
  else .next (dmPick t (m.cmds.filter fun c => !c.started) s)

/-- A CRC of a channel over bytes, by POLY (R517). -/
def chanCrc (poly : Nat) (bs : List Nat) : Nat :=
  if poly = 0 then crc32c bs
  else if poly = 1 then (bs.foldl (fun c b => crcByteR 0xEDB88320 8 (c ^^^ (b % 256))) 0xFFFFFFFF) ^^^ 0xFFFFFFFF
  else if poly = 2 then bs.foldl (fun c b => crcByteM 64 0x42F0E1EBA9EA3693 c b) 0
  else bs.foldl (fun c b => crcByteM 16 0x1021 c b) 0xFFFF

/-- The check value of block i with its prefix (R518). -/
def blockCrc (x : Tower) (d i n data : Nat) : Nat :=
  let off := i * mBlock d
  let pre := if mPrefix d then x.reg .dmChanSeq (mChan d)
    else if mCmode d = 2 ∨ mOp d = 1 then mSrc d + off else mDst d + off
  chanCrc (x.fget Fld.dmChan_POLY (mChan d)) (leBytes 8 pre ++ leBytes n data)

/-- A range of host memory, which the host answers while its port is not viral or in reset (R489). -/
inductive DmR where
  | wait (s : State)
  | fail (s : State) (e : Nat)
  | done (s : State) (v : Nat)

/-- A read of the data movers (R487, R489, R520). -/
def dmRead (s : State) (ag : Agent) (a n host : Nat) (poison : Bool) : DmR :=
  if s.targetB a = .host then
    if 2 ^ 48 < a + n then .fail s 0x13
    else if s.hostDown || poison then .fail (s.poisoned poison) 0x16
    else .done (s.send (.cxlRead (a - 2 ^ 47) n)) (host % 2 ^ (8 * n))
  else match engReadBytes s ag none a n with
    | .wait s => .wait s
    | .done s (.error .uncorrectable) => .wait s
    | .done s (.error e) => .fail s e.code
    | .done s (.ok v) => .done s v

/-- A write of the data movers (R487, R489, R514, R520). -/
def dmWrite (s : State) (ag : Agent) (a n v : Nat) : DmR :=
  if s.targetB a = .host then
    if 2 ^ 48 < a + n then .fail s 0x13
    else if s.hostDown then .fail s 0x16
    else
      let first := a / 128
      let cnt := (a + n - 1) / 128 - first + 1
      let big := (v % 2 ^ (8 * n)) <<< (8 * (a % 128))
      let msk := (2 ^ n - 1) <<< (a % 128)
      .done ((List.range cnt).foldl (fun s i =>
        s.hostWrite (.cxlWrite ((first + i) * 128 - 2 ^ 47) ((big >>> (1024 * i)) % 2 ^ 1024) ((msk >>> (128 * i)) % 2 ^ 128))
          (.dm ag.t ag.unit)) s) 0
  else match engWriteBytes s ag a n v with
    | .wait s => .wait s
    | .done s (some .uncorrectable) => .wait s
    | .done s (some e) => .fail s e.code
    | .done s none => .done s 0

/-- A remote write of the descriptor has failed (R457, R520): the lowest block whose write did. -/
def Tower.dmRemFail (x : Tower) (seq : Nat) : Option Nat :=
  let bs := x.rtr.remDone.filterMap fun q => match q.src with
    | .dm k b => if k = seq ∧ q.ok = false then some b else none
    | _ => none
  match bs with
  | [] => none
  | b :: r => some (r.foldl min b)

/-- A value that an earlier try has read, or a read of it. -/
def dmOr (have' : Option Nat) (s : State) (read : DmR) : DmR := match have' with
  | some v => .done s v
  | none => read

/-- The next block of a running descriptor is moved, its check value generated or verified (R518 to R520). What a try has read or
written is not read or written again by the next. `host` and `chk` are
what the host answers for the block and for its check entry, `poison` whether the answer is poisoned. -/
def dmBlockOn (t : TowerId) (seq : Nat) (host : List Line) (chk : Word) (poison : Bool) (s : State) : Res :=
  let x := s.tw t
  match x.dm.cmds.find? fun c => decide (c.seq = seq) with
  | none => .next s
  | some c =>
    let d := c.desc
    let i := c.block
    if !c.started || c.ended || decide (mBlocks d ≤ i) then .next s
    else match x.dmRemFail seq with
    | some b => .next (s.modDc t seq fun c => { c with ended := true, result := 0x73, block := b })
    | none =>
      let off := i * mBlock d
      let n := min (mBlock d) (mLen d - off)
      let fail := fun (s : State) (e : Nat) => s.modDc t seq fun c => { c with ended := true, result := e }
      let hv := host.zipIdx.foldl (fun a p => a + p.1.toNat <<< (1024 * p.2)) 0
      let ag := dmAgent t seq
      match dmOr c.got s (dmRead s ag (mSrc d + off) n hv poison) with
      | .wait s => .next s
      | .fail s e => .next (fail s e)
      | .done s v =>
        let s := s.modDc t seq fun c => { c with got := some v }
        let crc := blockCrc x d i n v
        let entry := mChk d + 8 * i
        let old := if mCmode d = 2 then dmOr c.want s (dmRead s ag entry 8 chk.toNat poison) else .done s crc
        match old with
        | .wait s => .next s
        | .fail s e => .next (fail s e)
        | .done s want =>
          let s := s.modDc t seq fun c => { c with want := some want }
          let bump := fun (s : State) => if mUses d && mPrefix d then
            s.modTw t fun y => y.setReg .dmChanSeq (mChan d) 0 ((y.reg .dmChanSeq (mChan d) + 1) % 2 ^ 64) else s
          if want ≠ crc then .next (fail (bump s) 0x72)
          else
            let put := if mOp d = 1 || c.put then .done s 0
              else if mRemote d then .done (s.modTw t fun y => y.remoteWrite (mNode d) (mDst d + off) n v (.dm seq i)) 0
              else dmWrite s ag (mDst d + off) n v
            match put with
            | .wait s => .next s
            | .fail s e => .next (fail s e)
            | .done s _ =>
              let s := s.modDc t seq fun c => { c with put := true }
              let gen := if mCmode d = 1 then dmWrite s ag entry 8 crc else .done s 0
              match gen with
              | .wait s => .next s
              | .fail s e => .next (fail (bump s) e)
              | .done s _ => .next ((bump s).modDc t seq fun c => 
                  { c with block := c.block + 1, got := none, want := none, put := false })

/-- The status word of R520. -/
def DmCmd.word (c : DmCmd) : Nat := 2 ^ 31 + c.result % 128 * 2 ^ 24 + min c.block (2 ^ 24 - 1)

/-- Writes of the descriptor await their acknowledgement (R520): remote answers, GO messages, and snoops of the lines that it has
written. -/
def State.dmOpen (s : State) (t : TowerId) (c : DmCmd) : Bool :=
  let d := c.desc
  let hit := fun (l : Nat) => (decide (mDst d ≤ l * 128) && decide (l * 128 < mDst d + mLen d)) ||
    (mUses d && decide (mChk d / 128 ≤ l) && decide (l * 128 < mChk d + 8 * mBlocks d))
  ((s.tw t).rtr.rem.any fun q => match q.src with
    | .dm k _ => decide (k = c.seq)
    | _ => false) || s.host.gos.contains (.dm t c.seq) ||
  (s.t0.mem.snoops ++ s.t1.mem.snoops).any fun q => hit q.line

/-- A descriptor leaves its mover, counted as completed (R514, R529). -/
def Dm.finish (m : Dm) (c : DmCmd) : Dm :=
  let z := seqAdvance (m.doneAhead.length + 1) m.doneSeq (m.doneAhead ++ [c.seq])
  { m with cmds := m.cmds.filter fun k => decide (k.seq ≠ c.seq), doneSeq := z.1, doneAhead := z.2, lastResult := c.result }

/-- A descriptor completes (R520): its writes are system-acknowledged, and its status word is written as a release at system
scope. -/
def dmCompleteOn (t : TowerId) (seq : Nat) (s : State) : Res :=
  match (s.tw t).dm.cmds.find? fun c => decide (c.seq = seq) with
  | none => .next s
  | some c =>
    let d := c.desc
    if !c.started || !(c.ended || decide (mBlocks d ≤ c.block)) || s.dmOpen t c then .next s
    else
      let c := match (s.tw t).dmRemFail seq with
        | some b => if c.ended then c else { c with ended := true, result := 0x73, block := b }
        | none => c
      let put := if c.cplOk then dmWrite s (dmAgent t seq) (mCpl d) 4 c.word else .done s 0
      match put with
      | .wait s => .next s
      | .fail s _ | .done s _ => .next (s.modTw t fun x =>
          let x := (x.modDm fun m => m.finish c).modRtr fun r => { r with
            remDone := r.remDone.filter fun q => match q.src with
              | .dm k _ => decide (k ≠ seq)
              | _ => true }
          if mMsi d then x.raise 12 else x)

/-! The commands, with the stop of the clocks and the engine records. -/

/-- `DM_BLOCK`, held while the tower's clocks are stopped (R600, R602). -/
def execDmBlock (t : TowerId) (seq : Nat) (host : List Line) (chk : Word) (poison : Bool) (s : State) : Res :=
  gate t (marking (fun s1 => decide ((s1.tw t).dm.cmds ≠ (s.tw t).dm.cmds)) (fun s1 => s1.advEng t (600 + (s.tw t).dm.moverOf seq)) (dmBlockOn t seq host chk poison)) s

/-- `DM_COMPLETE`, held while the tower's clocks are stopped (R600, R602). -/
def execDmComplete (t : TowerId) (seq : Nat) (s : State) : Res :=
  gate t (dmCompleteOn t seq) s

/-- `DM_DESCRIPTOR_START`, held while the tower's clocks are stopped (R600, R602). -/
def execDmDescriptorStart (t : TowerId) (s : State) : Res :=
  gate t (dmDescriptorStartOn t) s

end Sys2Proof.Machine
end

