-- ==== Sys2Proof/Machine/Store.lean ====
section
/-! DEFINITION. The persistent store (R660 to R664): slots and banks, the copy that is read, the write of a record, and the content
of each record type. -/

namespace Sys2Proof.Machine

open Sys2Proof

/-- Slots of a bank of a record type (R663): bank size by slot size. -/
def slotsOf (typ : Nat) : Nat := match typ with
  | 0x01 => 16
  | 0x02 => 2
  | 0x03 => 4
  | 0x04 => 256
  | 0x07 => 64
  | 0x08 => 64
  | _ => 16

/-- The record types (R663). -/
def storeTypes : List Nat := [1, 2, 3, 4, 5, 6, 7, 8, 0x21, 0x22, 0x23]

/-- A bank's copy: its valid slot of highest sequence (R661). -/
def bankCopy (l : List Slot) : Option Slot :=
  l.foldl (fun a x => if x.ok then (match a with
    | some y => if y.seq ≤ x.seq then some x else some y
    | none => some x) else a) none

/-- The sequence of a bank's copy, 0 when it has none. -/
def bankSeq (l : List Slot) : Nat := ((bankCopy l).map Slot.seq).getD 0

/-- Bank A holds the copy of the higher sequence (R662). -/
def Banks.aWins (b : Banks) : Bool := decide (bankSeq b.b < bankSeq b.a)

/-- The copy that is read (R662). -/
def Banks.copy (b : Banks) : Option Slot := if b.aWins then bankCopy b.a else bankCopy b.b

/-- One programming of a slot in a bank of n slots: the first slot that reads all 0xFF, after an erase when there is none (R662).
-/
def program (n : Nat) (l : List Slot) (x : Slot) : List Slot := if n ≤ l.length then [x] else l ++ [x]

/-- Up to `tries` programmings of a copy, the first `fails` of which fail their check (R662): the bank, and whether one passed. -/
def programs (n : Nat) (x : Slot) : Nat → Nat → List Slot → List Slot × Bool
  | 0, _, l => (l, false)
  | _ + 1, 0, l => (program n l x, true)
  | k + 1, f + 1, l => programs n x k f (program n l { x with ok := false })

/-- The write of a record into the losing bank (R662). `cut` is a loss of power during the program, after which no try follows. A
sequence of 0xFFFF_FFFF is never valid (R661). -/
def Banks.write (b : Banks) (n : Nat) (pay : StorePay) (fails : Nat) (cut : Bool) : Banks × Bool :=
  let seq := max (bankSeq b.a) (bankSeq b.b) + 1
  let x : Slot := ⟨seq, pay, decide (seq < 2 ^ 32 - 1)⟩
  let l := if b.aWins then b.b else b.a
  let r := if cut then (program n l { x with ok := false }, false) else programs n x 4 fails l
  (if b.aWins then { b with b := r.1 } else { b with a := r.1 }, r.2 && x.ok)

def Store.banks (s : Store) (typ : Nat) : Banks := sget Banks.init s.recs typ
def Store.read (s : Store) (typ : Nat) : Option StorePay := (s.banks typ).copy.map Slot.pay

def Tower.modStore (x : Tower) (f : Store → Store) : Tower := x.modSys fun y => { y with store := f y.store }
def Tower.modRegion (x : Tower) (r : Nat) (f : Region → Region) : Tower :=
  x.modSys fun y => { y with regions := smod Region.init y.regions r f }
def Tower.region (x : Tower) (r : Nat) : Region := sget Region.init x.sys.regions r

/-- The values of a register bank that differ from zero, by index. -/
def nonzero (n : Nat) (f : Nat → Nat) : SMap Nat :=
  (List.range n).filterMap fun i => if f i = 0 then none else some (i, f i)

/-- The latest content of a record of a type (R663). Licence keys are written where they are installed or removed. -/
def Tower.latest (x : Tower) (typ : Nat) : StorePay :=
  let y := x.sys
  match typ with
  | 0x01 =>
    let lock := x.lock.filter fun (p : Nat × Nat) => !y.cleared.contains p.1
    .lockMap lock y.subs (nonzero 576 fun k => 255 - x.fget Fld.brkArray_GROUP_GOOD k)
      ((List.range 72).filterMap fun r => if (x.region r).trips.isEmpty then none else some (r, (x.region r).trips))
      ((List.range 72).filter fun r => lock.any fun (p : Nat × Nat) => decide (p.1 / 8 = r) && decide (p.2 = 7))
      (nonzero 72 fun r => x.reg .pwrOcLast r)
  | 0x02 => .retired x.mem.retired
  | 0x03 => .history y.hist
  | 0x04 => .wear y.wear.sq (x.fget Fld.rstLife_CYCLES) y.wear.stack
  | 0x05 => .calib (x.fget Fld.pwrCfg_VCORE_SET) (x.fget Fld.thmLimits_THETA) (nonzero 96 fun k => x.fget Fld.hbmChStat_PPR_USED k)
  | 0x06 => match y.mgmt.newCfg.orElse fun _ => y.cfg with
    | some c => .config c
    | none => .none
  | 0x07 => .memtest (x.reg .fusFullUtc) (x.fget Fld.fusBoot_LAST_TEST) (x.fget Fld.fusBoot_LAST_PASS) y.boot.lastHold
  | 0x08 => .activation (x.fget Fld.mgtStat_ACTIVE_BANK) y.mgmt.trialAt y.mgmt.restarts (decide (x.fget Fld.mgtStat_TRIAL = 1))
  | _ => match y.store.read typ with
    | some p => p
    | none => .none

/-- Writes a record (R662): STORE_ERR when it failed; a cut leaves it to be written. -/
def Tower.putRecord (x : Tower) (typ : Nat) (pay : StorePay) (fails : Nat) (cut : Bool) : Tower × Bool :=
  let r := (x.sys.store.banks typ).write (slotsOf typ) pay fails cut
  let due := if cut then x.sys.store.due else x.sys.store.due.filter fun n => decide (n ≠ typ)
  let x := x.modStore fun s => { s with recs := sset s.recs typ r.1, due := due }
  (if r.2 || cut then x else x.setFlag Fld.mgtStat_STORE_ERR, r.2)

/-- The management controller can begin a write of a record (R662, R664): the auxiliary rail and the input are good, and step 3 has
restored what the record holds. -/
def State.storeTakes (s : State) (t : TowerId) : Bool :=
  let x := s.tw t
  x.sys.aux && s.pins.input && x.sys.rails.testBit 2 && x.sys.boot.restored &&
    (decide (x.fget Fld.glbTower_STATE ≠ 0) || decide (4 ≤ x.sys.boot.step))

/-- The management controller writes a record that awaits it (R662, R664): `fails` programmings fail their check, or the power fails
during the program. -/
def execStoreRecordWrite (t : TowerId) (typ : Nat) (fails : Nat) (cut : Bool) (s : State) : Res :=
  let x := s.tw t
  if x.sys.store.due.contains typ && storeTypes.contains typ && s.storeTakes t then
    .next (s.setTw t (x.putRecord typ (x.latest typ) fails cut).1)
  else .next s

end Sys2Proof.Machine
end

