-- ==== Sys2Proof/Machine/Reset.lean ====
section
/-! DEFINITION. Reset domains (R590 to R598): brick, compute-domain, warm tower and forced resets, HOLD (R624), lock-out (R22, R630),
logical IDs (R21), the clocks (R585 to R589) and their commands. -/

namespace Sys2Proof.Machine

open Sys2Proof

/-! Shared operations. -/

/-- Sets `GLB_TOWER.STATE`; a change is signalled (R33, R492). -/
def Tower.setStage (x : Tower) (v : Nat) : Tower :=
  if x.fget Fld.glbTower_STATE = v then x else (x.fset Fld.glbTower_STATE v).raise 14

def Tower.ready (x : Tower) : Bool := decide (x.fget Fld.glbTower_STATE = 2)
def Tower.inHold (x : Tower) : Bool := decide (x.fget Fld.glbTower_STATE = 1)
/-- The management controller has power: VBASE is good (R548). -/
def Tower.mgmtAlive (x : Tower) : Bool := x.sys.rails.testBit 2

def Tower.modBoot (x : Tower) (f : Boot → Boot) : Tower := x.modSys fun y => { y with boot := f y.boot }
def Tower.setRst (x : Tower) (r : RstStage) : Tower := x.modSys fun y => { y with rst := r }

/-- Bring-up goes on with a step (R615, R636); REASON and DETAIL return to 0 when step 3 starts. -/
def Tower.setStep (x : Tower) (n : Nat) : Tower :=
  let x := x.modBoot fun b => { b with step := n, sub := 0 }
  let x := x.fset Fld.fusHold_STEP n
  if n = 3 then (x.fset Fld.fusHold_REASON 0).fset Fld.fusHold_DETAIL 0 else x

/-- Sets bits of `PWR_FAULT`; each newly set bit is signalled and reported (R555, R649). -/
def Tower.pwrFault (x : Tower) (bit : Nat) : Tower :=
  let y := x.setW1c .pwrFault 0 (2 ^ bit)
  if (x.reg .pwrFault).testBit bit then y else (y.raise 11).notify (16 + bit)

/-- Sets bits of `THM_EVENT`; each newly set bit is signalled and reported (R576, R649). -/
def Tower.thmEvent (x : Tower) (bit : Nat) : Tower :=
  let y := x.setW1c .thmEvent 0 (2 ^ bit)
  if (x.reg .thmEvent).testBit bit then y else (y.raise 10).notify bit

/-- A reset is taken: its domain, cause and time (R606, R609). -/
def Tower.noteReset (x : Tower) (dom cause : Nat) : Tower :=
  ((x.fset Fld.rstStat_LAST_DOMAIN dom).fset Fld.rstStat_LAST_CAUSE cause).setReg .rstTime 0 0 x.timeNs

/-- A reset ends a global stop; its record stays readable (R604). -/
def Tower.endStop (x : Tower) : Tower := x.fset Fld.rstGstop_STATE 0

/-- Every launch that runs is lost, and one in the kiln is taken again (R509, R510). -/
def loseAll (t : TowerId) (s : State) : State :=
  let ns := ((s.tw t).cp.launches.filter fun l => decide (l.phase = .running)).map Launch.num
  let s := ns.foldl (fun s n => (endBricks t n s).modLaunch t n fun l => { l with phase := .lost }) s
  s.modCp t fun c => { c with
    resv := none
    launches := c.launches.map fun l => if l.phase = LPhase.kiln then { l with phase := .taken } else l }

/-- A brick after a reset of it (R265, R380, R593): its groups and private stores are gone; requests that have left it, returns
that wait for it with the room reserved for them, and the numbers that it gives, remain, and the answers find nothing. -/
def Brick.wiped (b : Brick) : Brick :=
  { Brick.init with
    nextId := b.nextId, downQ := b.downQ, writeQ := b.writeQ, mortarRd := b.mortarRd, portOut := b.portOut, upQ := b.upQ
    mortarWr := b.mortarWr, atomQ := b.atomQ, cspQ := b.cspQ, privErrs := b.privErrs, epochs := b.epochs }

/-- Route descriptors and NBU commands of a brick are abandoned (R243, R338). -/
def Tower.dropEngines (x : Tower) (slice : Nat) : Tower :=
  let drop := fun (u : RtUnit) => { u with
    q := u.q.filter fun j => decide (j.slice.val ≠ slice), run := u.run.filter fun r => decide (r.job.slice.val ≠ slice) }
  { x with routes := x.routes.map fun (p : Nat × RtUnit) => (p.1, drop p.2) }.nbuAbandon fun c => match c with
    | .brick k _ _ => decide (k.val = slice)
    | .driver => false

/-- The registers of the brick domain of a slice take their reset values (R591). -/
def Tower.resetBrickRegs (x : Tower) (slice : Nat) : Tower :=
  { x with regs := x.regs.filter fun p => match regAt p.1 with
      | some (r, i, _) => !(decide (r.info.dom = .brick) && decide (i = slice))
      | none => true }

/-- A brick reset in effect (R593, R541): what it held is lost, and it is counted. -/
def brickDown (t : TowerId) (slice cause : Nat) (phase : BrickPhase) (s : State) : State :=
  let s := loseBrick t false s slice
  s.modTw t fun x =>
    let x := ((x.dropEngines slice).resetBrickRegs slice).modBrick slice fun b => { b.wiped with phase := phase, recBase := x.counted }
    (((x.noteReset 1 cause).fset Fld.rstStat_LAST_SLICE slice).fadd Fld.rstCount_BRICK 1).endStop

/-- A brick is locked out (R22, R630): its launches end, its logical ID becomes vacant, its pinned banks become holes, the cause is
recorded and awaits the store. -/
def lockOut (t : TowerId) (slice cause : Nat) (s : State) : State :=
  if (sfind (s.tw t).lock slice).isSome then s
  else
    let s := loseBrick t true s slice
    s.modTw t fun x =>
      let live := x.liveBricks.contains slice
      let x := { x with lock := sset x.lock slice cause, lmap := x.lmap.filter fun (p : Nat × Nat) => decide (p.2 ≠ slice) }
      let x := x.dropEngines slice
      (if live then x.fset Fld.glbTower_BRK_LIVE (x.fget Fld.glbTower_BRK_LIVE - 1) else x).markDue 1

/-- Logical IDs are assigned densely in ascending order (R21, R33). -/
def Tower.assignIds (x : Tower) : Tower :=
  let live := (List.range 576).filter x.sliceLive
  let m : SMap Nat := live.zipIdx.map fun (p : Nat × Nat) => (p.2, p.1)
  { x with lmap := m, cdBase := x.counted }.fset Fld.glbTower_BRK_LIVE live.length

/-- A tower enters HOLD (R615, R624, R636): compute off, VCORE off, trained stacks in self-refresh, the reason recorded. -/
def holdTower (t : TowerId) (reason detail : Nat) (s : State) : State :=
  (loseAll t s).modTw t fun x =>
    let trained := decide (x.fget Fld.hbmCfg_TRAINED = 1) || (decide (x.sys.boot.step = 6) && decide (1 ≤ x.sys.boot.sub))
    let self := trained && decide (x.sys.rails &&& 0xE0 = 0xE0)
    let x := (((x.fset Fld.fusHold_REASON reason).fset Fld.fusHold_DETAIL detail).setStage 1).fset Fld.hbmCfg_SELF_REF
      (if self then 1 else 0)
    let x := x.modSys fun y => { y with
      rst := .none, boot := { y.boot with step := 0, again := false, lastHold := reason }, tests := [], cals := []
      rails := if y.rails.testBit 0 then y.rails - 1 else y.rails }
    let bs : SMap Brick := x.bricks.map fun (p : Nat × Brick) => (p.1, p.2.wiped)
    let x := { x with bricks := bs, cdrReq := none, warmReq := none, brickReq := [] }
    ((x.endStop.notify 33).histAdd 5 reason).markDue 7

/-! Warm tower reset. -/

/-- Reads of the other tower's bricks that wait for a fill of this tower complete with UNAVAILABLE (R595). -/
def failFills (t : TowerId) (s : State) : State :=
  ((s.tw t).mem.fills.map fun f => f.reqs.map fun r => (f.line, r)).flatten.foldl (fun s p => match p.2 with
    | .brick b sl rid port secs _ => if b = t then s else deliver (s.unavail b) b sl rid port (errRets p.1 secs .unavailable)
    | .agent _ => s) s

/-- An address of a line in a tower's memory. -/
def lineOfTower (t : TowerId) (line : Nat) : Bool := touchesTower t (line * 128) 128

/-- A requester of a tower. -/
def Requester.tower : Requester → TowerId
  | .brick t _ _ _ _ _ => t
  | .agent a => a.t

/-- What the other tower sees when a tower enters warm tower reset (R290, R293 to R295, R595): reads of its bricks that wait here end with
UNAVAILABLE; V is clear in all its homes, the holds of this tower's agents end, its copies and waits of this tower's lines go, and so do the
reductions that this tower's programs have sent. -/
def peerReset (t : TowerId) (s : State) : State :=
  ((failFills t s).modMem t fun m => { m with fills := m.fills.map fun f => { f with
      reqs := f.reqs.filter fun r => decide (r.tower = t) } }).modMem t.other fun m =>
    { m with
      dir := m.dir.map fun p => (p.1, { p.2 with v := false, visWait := false, held := p.2.held.filter fun a => decide (a.t ≠ t) })
      fills := m.fills.map fun f => { f with reqs := f.reqs.filter fun r => decide (r.tower ≠ t) }
      lost := m.lost.filter fun p => decide (p.1.t ≠ t)
      vis := m.vis.filter fun p => !lineOfTower t p.1
      redQ := m.redQ.filter fun r => match r.src with
        | .tile b _ _ => decide (b ≠ t)
      redErr := m.redErr.filter fun p => match p.1 with
        | .tile b _ _ => decide (b ≠ t)
      visIn := m.visIn.filter fun v => match v with
        | .inv l => !lineOfTower t l
        | .ack _ => false }

/-- Sectors covered by writes on their way (R597). -/
def Brick.flying (b : Brick) : Nat :=
  ((b.writeQ ++ b.mortarWr).map fun w => ((List.range 4).filter fun k => decide ((w.mask.toNat >>> (32 * k)) % 2 ^ 32 ≠ 0)).length).foldl
    (· + ·) 0

/-- A tower's registers and units after a warm tower reset, ready for step 3 (R590, R591, R306, R595). Lock-outs, column groups,
trip times and the retired-line list are kept in the management partition until step 3 restores them (R387, R630). -/
def Tower.warmed (x : Tower) : Tower :=
  let ppr := nonzero 96 fun k => x.fget Fld.hbmChStat_PPR_USED k
  let vset := x.fget Fld.pwrCfg_VCORE_SET
  let red := x.mem.redQ.filterMap fun r => match r.src with
    | .tile b _ _ => if b = x.id then none else some (r.src, 0x15)
  let err := x.mem.redErr.filter fun p => match p.1 with
    | .tile b _ _ => decide (b ≠ x.id)
  let priv := x.bricks.filterMap fun p => if p.2.privErrs.isEmpty then none
    else some (p.1, { Brick.init with privErrs := p.2.privErrs })
  let x := x.resetRegs fun r =>
    decide (r.info.dom = .cold) || decide (r.info.dom = .hostport) || decide (r = .brkArray) || decide (r = .pwrOcLast)
  let x : Tower :=
    { x with
      bricks := priv, mem := { MemSys.init with retired := x.mem.retired, redErr := err ++ red }, ports := [], rtr := Rtr.init
      routes := [], nbu := Nbu.init, cp := Cp.init, dm := Dm.init, lmap := [], counted := 0, fwdCounted := 0, cdBase := 0, eng := [], faultIn := []
      cdrReq := none
      warmReq := none, brickReq := []
      lock := x.lock.filter fun p => !x.sys.cleared.contains p.1 }
  let x := x.modSys fun y => { y with
    rst := .none, tests := [], cals := [], cleared := [], peek := none, stopSeen := false, trace := Trace.init
    boot := { Boot.init with step := y.boot.step, rail := y.boot.rail, lastHold := y.boot.lastHold, restored := y.boot.restored }
    regions := y.regions.map fun p => (p.1, { p.2 with heldOff := false }) }
  let x := ppr.foldl (fun (x : Tower) p => x.fset Fld.hbmChStat_PPR_USED p.2 p.1) (x.fset Fld.pwrCfg_VCORE_SET vset)
  (x.fset Fld.clkStat_MODE 0).endStop

/-- The base die is reset and bring-up runs from step 3 (R595); with rails off, they rise first (R625). -/
def warmBase (t : TowerId) (forced : Bool) (s : State) : State :=
  let s := peerReset t s
  let s := { s with host := { s.host with gos := s.host.gos.filter fun w => match w with
    | .store b _ _ => decide (b ≠ t)
    | .evict b _ _ _ _ => decide (b ≠ t)
    | .dm b _ => decide (b ≠ t)
    | .cpl b _ => decide (b ≠ t)
    | .trace b => decide (b ≠ t) } }
  s.modTw t fun x =>
    let lost := if forced then (x.bricks.map fun p => p.2.flying).foldl (· + ·) 0 else 0
    let x := (((x.fadd Fld.rstStat_DROPPED lost).warmed).fset Fld.thmStat_SHUT 0).setStage 0
    if x.sys.rails = 255 then x.setStep 3
    else x.modBoot fun b => { b with step := 1, again := true }

/-- Every port of a tower stops driving when a warm tower reset begins (R595): its partner sees the loss of signal, and the port trains
again only once the links are started. -/
def Tower.portsDown (x : Tower) : Tower :=
  (List.range 8).foldl (fun x p => x.fset Fld.lnkStat_STATE 0 p) ({ x with ports := [] }.fset Fld.rtrStat_TOPO 0)

/-- A warm tower reset is requested (R595 to R598, R606). In HOLD only the management controller starts one; before step 3 of
bring-up it is absorbed; during the quiesce of a narrower reset it waits for it; a forced one waits for nothing. -/
def warmStart (t : TowerId) (cause : Nat) (forced : Bool) (s : State) : State :=
  let x := s.tw t
  let s := s.modTw t fun x => { x with warmReq := none, cdrReq := none }
  if x.inHold ∧ cause ≠ 1 then s
  else
    let s := s.modTw t fun x => x.fadd Fld.rstCount_WARM 1
    if x.fget Fld.glbTower_STATE = 0 ∧ x.sys.boot.step < 3 then s
    else
      let s := s.modTw t fun x => ((x.noteReset 3 cause).fset Fld.rstStat_FORCED (if forced then 1 else 0)).endStop
      if forced ∨ x.fget Fld.glbTower_STATE ≤ 1 ∨ (x.fget Fld.glbTower_STATE = 3 ∧ x.sys.rst ≠ .cdQuiesce) then
        warmBase t forced s
      else (peerReset t (loseAll t s)).modTw t fun x => (x.portsDown.setStage 3).setRst .warmQuiesce

/-- A warm tower reset begins (R384, R389, R547, R595, R605): on a request that waits, or on an error of the tag array or directory
that the home slice detects. -/
def execWarmTowerReset (t : TowerId) (tagErr : Option (Fin 576)) (s : State) : Res :=
  match tagErr with
  | some k =>
    if (s.tw t).serving then
      .next (warmStart t 9 false (s.modTw t fun x =>
        ((x.eccLog 3 8 k.val).eccSet Fld.eccInt_UE 1).histAdd 1 k.val))
    else .next s
  | none => match (s.tw t).warmReq with
    | some c => if (s.tw t).mgmtAlive then .next (warmStart t c false s) else .next s
    | none => .next s

/-! Brick reset. -/

/-- A wider reset of the tower is in progress: bring-up, HOLD, or a compute-domain reset (R598). -/
def Tower.wider (x : Tower) : Bool := decide (x.fget Fld.glbTower_STATE ≠ 2)

/-- A brick reset begins (R384, R386, R593): on a request that waits, or on an uncorrectable error `ue` of the brick's private
stores. During a wider reset it is absorbed and counted. -/
def execBrickReset (b : BrickRef) (ue : Bool) (s : State) : Res :=
  let t := b.t
  let sl := b.s.val
  let x := s.tw t
  let req := x.brickReq.find? fun p => decide (p.1 = sl)
  if !x.mgmtAlive || !x.sliceLive sl then .next s
  else
    let s := s.modTw t fun x => { x with brickReq := x.brickReq.filter fun p => decide (p.1 ≠ sl) }
    let cause := if ue then some 2 else req.map Prod.snd
    match cause with
    | none => .next s
    | some c =>
      let s := if ue then s.modTw t fun x =>
          ((((x.eccLog 6 7 (t.nat * 576 + sl)).eccSet Fld.eccInt_UE 1).histAdd 1 (t.nat * 576 + sl)).modBrick sl fun b =>
            { b with privErrs := b.privErrs ++ [x.timeNs] })
        else s
      if x.wider then .next (s.modTw t fun x => x.fadd Fld.rstCount_BRICK 1)
      else .next (brickDown t sl c .resetting s)

/-- Two private errors of the brick lie within one hour (R386). -/
def repeatedErrs (l : List Nat) : Bool := match l.reverse with
  | b :: a :: _ => decide (b - a ≤ 3600 * 10 ^ 9)
  | _ => false

/-- A brick reset completes (R380, R386, R593): its stores are filled and it takes blocks again, unless it is locked out. -/
def execBrickResetComplete (b : BrickRef) (s : State) : Res :=
  if (s.brick b).phase ≠ .resetting then .next s
  else
    let s := s.modBrick b fun k => { k with phase := .up, recBase := (s.tw b.t).counted }
    if repeatedErrs (s.brick b).privErrs then .next (lockOut b.t b.s.val 6 s) else .next s

/-! Compute-domain reset. -/

/-- A compute-domain reset begins (R384, R385, R547, R589, R594): step 1. During a wider reset it is absorbed and counted; a second
one during the first starts nothing. -/
def execComputeDomainReset (t : TowerId) (s : State) : Res :=
  let x := s.tw t
  match x.cdrReq with
  | none => .next s
  | some c =>
    let s := s.modTw t fun x => { x with cdrReq := none }
    if x.ready then
      .next ((loseAll t s).modTw t fun x =>
        let x := (((x.noteReset 2 c).fadd Fld.rstCount_CD 1).setStage 3).endStop
        x.modSys fun y => { y with rst := .cdQuiesce, selftest := decide (x.fget Fld.rstCfg_CD_SELFTEST = 1), tests := [], cals := [] })
    else if x.fget Fld.glbTower_STATE = 0 ∨ x.sys.rst = .warmQuiesce then .next (s.modTw t fun x => x.fadd Fld.rstCount_CD 1)
    else .next s

/-- Every write that the bricks have queued has been performed (R265, R594). -/
def Tower.drained (x : Tower) : Bool :=
  x.bricks.all fun p => p.2.sendWr.isEmpty && p.2.writeQ.isEmpty && p.2.mortarWr.isEmpty && p.2.atomQ.isEmpty

/-- The compute domain after its reset (R590, R591). -/
def Tower.domainReset (x : Tower) : Tower :=
  let x := x.resetRegs fun r => !(decide (r.info.dom = .brick) || (decide (r.info.dom = .cd) && decide (r ≠ .brkArray)))
  { x with
    bricks := x.bricks.map fun p =>
      (p.1, { Brick.init with nextId := p.2.nextId, privErrs := p.2.privErrs, epochs := p.2.epochs })
    routes := [], nbu := Nbu.init, lmap := [], brickReq := [], faultIn := [], cdBase := x.counted }

/-- The compute domain is quiesced and held in reset (R594 step 2); a warm tower reset goes on with the base die (R595). -/
def execCdrQuiesceComplete (t : TowerId) (s : State) : Res :=
  let x := s.tw t
  if !x.drained then .next s
  else match x.sys.rst with
  | .cdQuiesce => .next (s.modTw t fun x => (x.domainReset.setRst .cdHeld))
  | .warmQuiesce => .next (warmBase t false s)
  | _ => .next s

/-- The quiesce lasts longer than QUIESCE_MS: a base-die reset is forced (R597). -/
def execQuiesceTimeout (t : TowerId) (s : State) : Res :=
  match (s.tw t).sys.rst with
  | .cdQuiesce | .warmQuiesce => .next (warmStart t 5 true s)
  | _ => .next s

/-- The reset is released after 1 ms, VCORE in regulation and the compute-die PLL locked (R547, R589, R594 step 3). -/
def execCdrResetRelease (t : TowerId) (s : State) : Res :=
  let x := s.tw t
  if x.sys.rst = .cdHeld ∧ x.sys.vcoreBad = false ∧ x.fget Fld.clkStat_CPLL_LOCK = 1 then
    .next (s.modTw t fun x => x.setRst (if x.sys.selftest then .cdSelftest else .cdArray))
  else .next s

/-- Locks out bricks of the tower that are enabled and fail a test (R594, R615). -/
def lockAll (t : TowerId) (cause : Nat) (ks : List (Fin 576)) (s : State) : State :=
  ks.foldl (fun s k => if (s.tw t).enabled.getLsbD k.val then lockOut t k.val cause s else s) s

/-- Logic self-test completes; bricks that failed are locked out (R594 step 4). -/
def execCdrSelftestComplete (t : TowerId) (failed : List (Fin 576)) (s : State) : Res :=
  if (s.tw t).sys.rst = .cdSelftest then .next ((lockAll t 1 failed s).modTw t fun x => x.setRst .cdArray) else .next s

/-- The presented width of a brick from its good column groups (R168, R190): eight columns to a group. -/
def widthOf (good : Nat) : Nat := 8 * popN 8 good

/-- Narrows `BRK_ARRAY` by the groups found bad (R169, R190, R634); a brick with none left is locked out. -/
def narrow (t : TowerId) (bad : List (Fin 576 × BitVec 8)) (s : State) : State :=
  let x := s.tw t
  let s := (List.range 576).foldl (fun s k =>
    if !(s.tw t).enabled.getLsbD k then s
    else
      let b := bad.foldl (fun a p => if p.1.val = k then a ||| p.2.toNat else a) (sget 0 x.sys.badGroups k)
      let g := x.fget Fld.brkArray_GROUP_GOOD k
      let n := g - (g &&& b)
      let s := if b = 0 then s else s.modTw t fun x => ((x.fset Fld.brkArray_GROUP_GOOD n k).fset Fld.brkArray_WIDTH (widthOf n) k).markDue 1
      if n = 0 then lockOut t k 2 s else s) s
  s.modTw t fun x => x.modSys fun y => { y with badGroups := [] }

/-- The array test completes (R594 step 5). -/
def execCdrArrayTestComplete (t : TowerId) (bad : List (Fin 576 × BitVec 8)) (s : State) : Res :=
  if (s.tw t).sys.rst = .cdArray then .next ((narrow t bad s).modTw t fun x => x.setRst .cdTrain) else .next s

/-- Bricks whose vertical port or gateway has more failed bonds than spares (R266, R582). -/
def trainLock (t : TowerId) (ports : List (Fin 576)) (gates : List (Fin 48)) (s : State) : State :=
  let of := fun (g : Fin 48) => (List.range 12).map fun p => g.val / 2 * 24 + g.val % 2 * 12 + p
  (ports.map Fin.val ++ (gates.map of).flatten).foldl (fun s k =>
    if (s.tw t).enabled.getLsbD k then lockOut t k 5 s else s) s

/-- Vertical-channel training completes (R582, R594 step 6). -/
def execCdrTrainingComplete (t : TowerId) (ports : List (Fin 576)) (gates : List (Fin 48)) (s : State) : Res :=
  if (s.tw t).sys.rst = .cdTrain then .next ((trainLock t ports gates s).modTw t fun x => x.setRst .cdFill) else .next s

/-- The brick-private fill completes: logical IDs are assigned and the tower is READY (R594 step 7). -/
def execCdrFillComplete (t : TowerId) (s : State) : Res :=
  if (s.tw t).sys.rst = .cdFill then .next (s.modTw t fun x => (x.assignIds.setRst .none).setStage 2) else .next s

/-! Requests. -/

/-- Every accepted value lies at least 30 °C below its throttle limit (R571). -/
def Tower.coolEnough (x : Tower) : Bool :=
  let acc := fun i => sext 12 (x.fget Fld.thmSensor_ACCEPTED i)
  ((List.range 96).all fun i => decide (acc i ≤ 800 - 240)) && ((List.range 64).all fun i => decide (acc (96 + i) ≤ 760 - 240)) &&
    (List.range 6).all fun k => decide (x.fget Fld.thmHbm_PRESENT k = 0) ||
      decide (sext 12 (x.fget Fld.thmHbm_READING k) ≤ sext 12 (x.fget Fld.thmLimits_HBM_THROT) - 240)

/-- A write of `RST_CTL.WARM` (R571, R596, R605). -/
def execRstCtlWarm (t : TowerId) (who : RegBy) (s : State) : Res :=
  let x := s.tw t
  if who ≠ .mgmt ∨ (x.fget Fld.thmStat_SHUT = 1 ∧ x.coolEnough = false) then .next (s.modTw t fun x => x.setFlag Fld.rstStat_REFUSED)
  else .next (s.askWarm t 1)

/-- A write of `RST_CTL.CDR` (R605). -/
def execRstCtlCdr (t : TowerId) (s : State) : Res := .next (s.askCdr t 1)

/-- A write of `RST_CTL.BRICK` (R605). -/
def execRstCtlBrick (t : TowerId) (slice : BitVec 10) (s : State) : Res :=
  if slice.toNat < 576 ∧ (s.tw t).sliceLive slice.toNat then .next (s.askBrick t slice.toNat 1) else .next s

/-! Clocks. -/

def Tower.modOsc (x : Tower) (f : Option Nat → Option Nat) : Tower := x.modSys fun y => { y with osc := f y.osc }

/-- The compute-die PLL loses lock (R589). -/
def execComputePllLockLoss (t : TowerId) (s : State) : Res :=
  if (s.tw t).mgmtAlive then
    .next ((s.modTw t fun x => (x.fset Fld.clkStat_CPLL_LOCK 0).fadd Fld.clkStat_CPLL_LOSS 1).askCdr t 7)
  else .next s

/-- The base-die PLL loses lock (R589, R597): device time runs from the oscillator, and a warm tower reset is forced. -/
def execBasePllLockLoss (t : TowerId) (s : State) : Res :=
  if (s.tw t).mgmtAlive then
    .next (warmStart t 6 true (s.modTw t fun x =>
      ((x.fset Fld.clkStat_BPLL_LOCK 0).fadd Fld.clkStat_BPLL_LOSS 1).modOsc fun o => o.orElse fun _ => some 0))
  else .next s

/-- A PLL relocks (R589); device time changes back when the base-die PLL has its reference. -/
def execPllRelock (t : TowerId) (base : Bool) (s : State) : Res :=
  if !(s.tw t).mgmtAlive then .next s
  else .next (s.modTw t fun x =>
    if base then
      let x := x.fset Fld.clkStat_BPLL_LOCK 1
      if x.fget Fld.clkStat_REF_OK = 1 then x.modOsc fun _ => none else x
    else x.fset Fld.clkStat_CPLL_LOCK 1)

/-- The reference is lost (R589): both PLLs hold their frequency, and device time runs from the oscillator. -/
def execReferenceLoss (t : TowerId) (s : State) : Res :=
  if (s.tw t).mgmtAlive && decide ((s.tw t).fget Fld.clkStat_REF_OK = 1) then
    .next (s.modTw t fun x => ((x.fset Fld.clkStat_REF_OK 0).fadd Fld.clkStat_REF_LOSS 1).modOsc fun o => o.orElse fun _ => some 0)
  else .next s

/-- The reference has been lost for 1 ms (R589). -/
def execReferenceLossTimeout (t : TowerId) (s : State) : Res :=
  if (s.tw t).mgmtAlive && decide ((s.tw t).fget Fld.clkStat_REF_OK = 0) then .next (warmStart t 6 true s) else .next s

/-- The reference returns (R589). -/
def execReferenceReturn (t : TowerId) (s : State) : Res :=
  if !(s.tw t).mgmtAlive then .next s
  else .next (s.modTw t fun x =>
    let x := x.fset Fld.clkStat_REF_OK 1
    if x.fget Fld.clkStat_BPLL_LOCK = 1 then x.modOsc fun _ => none else x)

/-- A 256-byte transfer of the hinge arrives at a tower (R599, R613, R614): counted when its check holds, replayed and counted
when it fails. What the transfer carries is delivered by the commands of its content. -/
def hingeTransferOn (t : TowerId) (ok : Bool) (s : State) : Res :=
  if !((s.tw t).serving && (s.tw t.other).serving) then .next s
  else if ok then
    .next ((s.modTw t fun x => x.setReg .hngRx 0 0 ((x.reg .hngRx + 1) % 2 ^ 64)).modTw t.other fun x =>
      x.setReg .hngTx 0 0 ((x.reg .hngTx + 1) % 2 ^ 64))
  else .next (s.modTw t.other fun x => x.fadd Fld.hngStat_RETRIES 1)

/-! The commands, with the stop of the clocks and the engine records. -/

/-- `HINGE_TRANSFER`, with its engine's record (R670). -/
def execHingeTransfer (t : TowerId) (ok : Bool) (s : State) : Res :=
  marking (fun s1 => decide ((s1.tw t.other).reg .hngTx ≠ (s.tw t.other).reg .hngTx)) (fun s1 => s1.advEng t.other 713) (hingeTransferOn t ok) s

end Sys2Proof.Machine
end

