-- ==== Sys2Proof/Machine/Power.lean ====
section
/-! DEFINITION. Power delivery (R531 to R559): the input and the rail sequence, rail faults, remote sense, power regions with
retention and over-current trips, minimum-voltage records and the power cap. -/

namespace Sys2Proof.Machine

open Sys2Proof

/-! Input and sequence. -/

/-- A tower loses all its rails and what it holds, but for its fuses and store (R548). -/
def powerDown (t : TowerId) (s : State) : State := s.setTw t (Tower.cold t (s.tw t).sys.fuses (s.tw t).sys.store)

/-- Both towers lose power, and with both 6 V buses the host-port stage falls (R531, R548). -/
def powerOff (s : State) : State :=
  let s := powerDown .t1 (powerDown .t0 s)
  ({ s with host := { s.host with railBad := true } }).resetHost

/-- The input stays beyond the limits of R531 for 100 µs, or leaves 40 to 60 V without reaching them (R555). -/
def execInputOutOfRange (down : Bool) (s : State) : Res :=
  if down then .next (powerOff { s with pins := { s.pins with input := false } })
  else
    let note := fun (x : Tower) => if x.mgmtAlive then x.pwrFault 6 else x
    .next ((s.modTw .t0 note).modTw .t1 note)

/-- The input has been within 40 to 60 V for 10 ms (R531). -/
def execInputReturn (s : State) : Res := .next { s with pins := { s.pins with input := true } }

/-- `COLD_RST_n` has been low for 100 µs (R699): the rails are held down. -/
def execColdRstNAssert (s : State) : Res := .next (powerOff { s with pins := { s.pins with coldRst := true } })

/-- `COLD_RST_n` rises (R699). -/
def execColdRstNRelease (s : State) : Res := .next { s with pins := { s.pins with coldRst := false } }

/-- A tower is off: no rail is up and no sequence runs. -/
def Tower.isOff (x : Tower) : Bool := decide (x.sys.rails = 0) && !x.sys.aux && decide (x.sys.boot.step = 0)

/-- A cold reset runs full bring-up of both towers, once the input is in range and `COLD_RST_n` is high (R531, R598, R699). -/
def execColdReset (s : State) : Res :=
  if s.pins.input && !s.pins.coldRst && s.t0.isOff && s.t1.isOff then
    let start := fun (x : Tower) => x.modBoot fun b => { b with step := 1 }
    .next ((s.modTw .t0 start).modTw .t1 start)
  else .next s

/-- The rails of a position of the sequence of R548, after the 6 V bus: VBASE, VSRAM, VSD_L, VSD_H, the HBM rails, VCORE. -/
def seqRails (p : Nat) : Nat := match p with
  | 1 => 2 ^ 2
  | 2 => 2 ^ 1
  | 3 => 2 ^ 3
  | 4 => 2 ^ 4
  | 5 => 2 ^ 5 + 2 ^ 6 + 2 ^ 7
  | 6 => 2 ^ 0
  | _ => 0

/-- The rail index of a position. -/
def seqIndex (p : Nat) : Nat := match p with
  | 1 => 2
  | 2 => 1
  | 3 => 3
  | 4 => 4
  | 5 => 5
  | _ => 0

/-- The next position of the sequence whose rails are not up. -/
def Tower.seqNext (x : Tower) (p : Nat) : Nat :=
  ((List.range 7).find? fun q => decide (p ≤ q) && if q = 0 then !x.sys.aux else decide (x.sys.rails &&& seqRails q ≠ seqRails q)).getD 7

/-- A tower's rail sequence runs (R548, R625). -/
def Tower.sequencing (x : Tower) : Bool := decide (x.sys.boot.step = 1) && decide (x.sys.boot.sub = 0)

/-- A rail reaches power-good (R548): the next position starts; after the last, bring-up goes on. Outside the sequence it is VCORE
that regains regulation (R547). -/
def execRailPowerGood (t : TowerId) (s : State) : Res :=
  let x := s.tw t
  if x.sequencing then
    let p := x.seqNext 0
    let s := s.modTw t fun x => x.modSys fun y => { y with
      aux := y.aux || decide (p = 0), rails := y.rails ||| seqRails p, vcoreBad := y.vcoreBad && decide (p ≠ 6) }
    let s := if p = 0 then { s with host := { s.host with railBad := false } } else s
    .next (s.modTw t fun x =>
      if x.seqNext 0 = 7 then
        (if x.sys.boot.again && x.sys.mgmt.up then x.setStep 3 else x.setStep 2)
      else x)
  else if x.sys.vcoreBad then .next (s.modTw t fun x => x.modSys fun y => { y with vcoreBad := false, rails := y.rails ||| 1 })
  else .next s

/-- A rail misses its limit (R548): the sequence of the tower stops; once VBASE is good the tower enters HOLD with RAIL. -/
def execRailPowerGoodTimeout (t : TowerId) (s : State) : Res :=
  let x := s.tw t
  if !x.sequencing then .next s
  else
    let p := x.seqNext 0
    if p ≤ 1 then .next (s.modTw t fun x => (if p = 1 then x.histAdd 6 2 else x).modBoot fun b => { b with sub := 1 })
    else .next (holdTower t 1 (seqIndex p) (s.modTw t fun x => x.histAdd 6 (seqIndex p)))

/-! Rail faults. -/

/-- A VCORE fault (R534, R547): recorded; a compute-domain reset is called for. -/
def execVcoreFault (t : TowerId) (s : State) : Res :=
  let x := s.tw t
  if !x.mgmtAlive || !x.sys.rails.testBit 0 then .next s
  else .next ((s.modTw t fun x => (((x.pwrFault 0).histAdd 6 0).modSys fun y =>
    { y with vcoreBad := true, rails := y.rails - 1 })).askCdr t 3)

/-- VCORE has not regained regulation within 10 ms (R547). -/
def execVcoreRegulationTimeout (t : TowerId) (s : State) : Res :=
  if (s.tw t).sys.vcoreBad then .next (holdTower t 0x0D 0 s) else .next s

/-- A fault of another indexed rail (R547, R597): recorded; a warm tower reset is forced, or HOLD at a second within 60 s. VBASE
stops the management controller with it. -/
def execRailFault (t : TowerId) (rail : Fin 8) (s : State) : Res :=
  let x := s.tw t
  if rail = 0 ∨ x.sys.rails.testBit rail.val = false then .next s
  else
    let again := match x.sys.railAt with
      | some a => decide (x.timeNs - a ≤ 60 * 10 ^ 9)
      | none => false
    let s := s.modTw t fun x => ((x.pwrFault 1).histAdd 6 rail.val).modSys fun y =>
      { y with
        rails := y.rails - 2 ^ rail.val, railAt := some x.timeNs
        mgmt := if rail.val = 2 then { y.mgmt with up := false, sessions := [], updating := false } else y.mgmt }
    if again || decide (x.sys.boot.step = 1) then .next (holdTower t 1 rail.val s)
    else .next (warmStart t 4 true s)

/-- VHP or VHP_H faults (R547): the host-port partition is held in reset. -/
def execVhpFault (s : State) : Res :=
  let note := fun (x : Tower) => if x.mgmtAlive then x.pwrFault 1 else x
  .next ((({ s with host := { s.host with railBad := true } }).resetHost.modTw .t0 note).modTw .t1 note)

/-- The host-port rail is power-good again (R547). -/
def execVhpReturn (s : State) : Res :=
  if s.t0.sys.aux || s.t1.sys.aux then .next { s with host := { s.host with railBad := false } } else .next s

/-! Remote sense. -/

/-- The effective points (R537). -/
def Tower.effective (x : Tower) : List Nat :=
  (List.range 8).filter fun p => (x.fget Fld.pwrSenseSel_SEL).testBit p && !(x.fget Fld.pwrSenseStat_EXCL).testBit p

/-- A point's reading has lain more than 60 mV from the median for 1 ms (R538). -/
def execSenseExclusion (t : TowerId) (p : Fin 8) (s : State) : Res :=
  let x := s.tw t
  if x.mgmtAlive && x.effective.contains p.val && decide (3 ≤ x.effective.length) then
    .next (s.modTw t fun x => (x.fset Fld.pwrSenseStat_EXCL (x.fget Fld.pwrSenseStat_EXCL + 2 ^ p.val)).pwrFault 4)
  else .next s

/-- A write of `PWR_SENSE_SEL` (R538, R554): no point selected is ignored. -/
def execPwrSenseSelWrite (t : TowerId) (v : Word) (s : State) : Res :=
  if bits v.toNat 7 0 = 0 then .next s
  else .next (s.modTw t fun x => (x.fset Fld.pwrSenseSel_SEL (bits v.toNat 7 0)).fset Fld.pwrSenseStat_EXCL 0)

/-! Power regions. -/

/-- The slices of a region (R539). -/
def regionSlices (r : Nat) : List Nat := (List.range 8).map fun p => r * 8 + p

def Tower.rst (x : Tower) (r : Nat) : Nat := x.fget Fld.pwrRegion_STATE r
def Tower.setRegion (x : Tower) (r v : Nat) : Tower := x.fset Fld.pwrRegion_STATE v r

/-- A brick is free (R505, R633): no launch holds it and it is in no test. -/
def Tower.isFree (x : Tower) (k : Nat) : Bool :=
  (x.holder k).isNone && (x.brick k).idle && (sfind x.sys.tests k).isNone

/-- Every live brick of a region is free. -/
def Tower.regionFree (x : Tower) (r : Nat) : Bool := (regionSlices r).all fun k => !x.sliceLive k || x.isFree k

/-- A write of `PWR_REGION[r]` (R542, R543, R557). -/
def execPwrRegionModeWrite (t : TowerId) (r : Fin 72) (v : Word) (s : State) : Res :=
  .next (s.modTw t fun x =>
    let m := bits v.toNat 63 62
    let c := bits v.toNat 58 52
    let u := bits v.toNat 31 16
    let x := if m = 3 ∨ 5 ≤ x.rst r.val then x else x.fset Fld.pwrRegion_MODE m r.val
    let x := if 64 < c then x else x.fset Fld.pwrRegion_OC_CODE c r.val
    if u = 0 then x else x.fset Fld.pwrRegion_IDLE_US u r.val)

/-- The bricks of a region lose what they hold, as at a brick reset, but for the weight registers and the local array, which are held (R540, R541, R593);
with `all`, launches that hold one end. -/
def regionDown (t : TowerId) (r : Nat) (all : Bool) (s : State) : State :=
  (regionSlices r).foldl (fun s k =>
    if !(s.tw t).sliceLive k then s
    else
      let w := ((s.tw t).brick k).mx
      let u := ((s.tw t).brick k).used || ((s.tw t).brick k).run.isSome
      let keep := fun (b : Brick) => { b with used := u, mx := { b.mx with front := w.front, back := w.back } }
      (brickDown t k 0xA .up (if all then loseBrick t true s k else s)).modTw t fun x => x.modBrick k keep) s

/-- A region begins entry to retention (R540, R542): MODE is RET and its bricks are free. -/
def execRetentionEntry (t : TowerId) (r : Fin 72) (s : State) : Res :=
  let x := s.tw t
  if x.ready && decide (x.rst r.val = 0) && decide (x.fget Fld.pwrRegion_MODE r.val = 1) && x.regionFree r.val then
    .next ((regionDown t r.val false s).modTw t fun x => x.setRegion r.val 1)
  else .next s

/-- A region's bricks have been free for IDLE_US in mode AUTO (R542). -/
def execAutoIdleExpiry (t : TowerId) (r : Fin 72) (s : State) : Res :=
  let x := s.tw t
  if x.ready && decide (x.rst r.val = 0) && decide (x.fget Fld.pwrRegion_MODE r.val = 2) && x.regionFree r.val then
    .next ((regionDown t r.val false s).modTw t fun x => x.setRegion r.val 1)
  else .next s

/-- A region reaches retention after 1 µs (R540). -/
def execRetentionComplete (t : TowerId) (r : Fin 72) (s : State) : Res :=
  if (s.tw t).rst r.val = 1 then .next (s.modTw t fun x => x.setRegion r.val 2) else .next s

/-- A test waits for one of the region's bricks to wake (R633). -/
def Tower.testWants (x : Tower) (r : Nat) : Bool := (regionSlices r).any fun k => ([3, 5] : List Nat).contains (sget 0 x.sys.tests k)

/-- A region begins to wake (R540, R542, R572, R633): MODE is ON, a launch has been given one of its bricks, or a test needs one;
never while thermal retention holds. -/
def execWake (t : TowerId) (r : Fin 72) (s : State) : Res :=
  let x := s.tw t
  let m := x.fget Fld.pwrRegion_MODE r.val
  let held := (regionSlices r.val).any fun k => (x.holder k).isSome
  if decide (x.rst r.val = 2) && decide ((x.region r.val).ret = 0) &&
      (decide (m = 0) || (decide (m = 2) && held) || x.testWants r.val) then
    .next (s.modTw t fun x => x.setRegion r.val 3)
  else .next s

/-- A wake completes (R541, R544): the region is on, or in retention again when MODE is RET and nothing needs it; tests that waited
for it start. -/
def execWakeComplete (t : TowerId) (r : Fin 72) (s : State) : Res :=
  let x := s.tw t
  if x.rst r.val ≠ 3 then .next s
  else
    let back := decide (x.fget Fld.pwrRegion_MODE r.val = 1) && !x.testWants r.val
    let wake := fun (x : Tower) => (regionSlices r.val).foldl (fun (x : Tower) k =>
      if x.sliceLive k then x.modBrick k fun b => { b with recBase := x.counted } else x) x
    .next (s.modTw t fun x => (wake (x.setRegion r.val (if back then 2 else 0))).modSys fun y =>
      let up := fun (p : Nat × Nat) => if p.1 / 8 = r.val ∧ p.2 = 3 then (p.1, 1) else if p.1 / 8 = r.val ∧ p.2 = 5 then (p.1, 4) else p
      { y with tests := y.tests.map up })

/-- Trips that count with one at a time (R545): those at most 3,600 s before it, and it. -/
def tripsAt (l : List Nat) (now : Nat) : List Nat := (l.filter fun a => decide (now - a ≤ 3600 * 10 ^ 9)) ++ [now]

/-- A region trips (R543 to R545): launches that hold its bricks end, its bricks lose what they hold, the trip is recorded, and the
third within 3,600 s locks the bricks out. -/
def execOcTrip (t : TowerId) (r : Fin 72) (s : State) : Res :=
  let x := s.tw t
  if !x.mgmtAlive || !([0, 1, 3].contains (x.rst r.val)) then .next s
  else
    let s := regionDown t r.val true s
    let s := s.modTw t fun x =>
      let ts := tripsAt (x.region r.val).trips x.timeNs
      let x := (x.setRegion r.val 4).setReg .pwrOcLast r.val 0 x.timeNs
      let x := x.modRegion r.val fun g => { g with trips := ts, heldOff := false }
      ((((x.fset Fld.pwrRegion_TRIPS (min 3 ts.length) r.val).histAdd 2 r.val).markDue 1).pwrFault 2)
    if (s.tw t).fget Fld.pwrRegion_TRIPS r.val = 3 then
      let s := (regionSlices r.val).foldl (fun s k => if (s.tw t).enabled.getLsbD k then lockOut t k 7 s else s) s
      .next (s.modTw t fun x =>
        (((x.setRegion r.val 5).fset Fld.pwrRegion_LOCKED 1 r.val).histAdd 3 r.val).pwrFault 3)
    else .next s

/-- 1 ms has passed since a trip (R544, R572): the wake starts, unless thermal retention holds. -/
def execOcHoldoffExpiry (t : TowerId) (r : Fin 72) (s : State) : Res :=
  let x := s.tw t
  if x.rst r.val ≠ 4 then .next s
  else .next (s.modTw t fun x => x.setRegion r.val (if (x.region r.val).ret = 0 then 3 else 2))

/-! Records and cap. -/

/-- A write of `PWR_VMIN[i].CLEAR` (R546, R559). -/
def execPwrVminClear (t : TowerId) (i : Fin 80) (s : State) : Res :=
  .next (s.modTw t fun x => (x.fset Fld.pwrVmin_MIN 0x1FF i.val).setReg .pwrVminT i.val 0 0)

/-- A sample of a minimum-voltage record (R546). -/
def Tower.vminSample (x : Tower) (i v : Nat) : Tower :=
  if v < x.fget Fld.pwrVmin_MIN i then (x.fset Fld.pwrVmin_MIN v i).setReg .pwrVminT i 0 x.timeNs else x

/-- The cap level after an evaluation (R550, R553). -/
def capNext (en cap level pin : Nat) : Nat :=
  if en = 0 then 0 else if cap < pin then min 15 (level + 1) else if 100 * pin < 97 * cap then level - 1 else level

/-- A 100 µs evaluation (R537, R546, R550, R552, R556): the monitors' registers are updated, then the cap level. -/
def execPowerCapEvaluate (t : TowerId) (m : PowerSample) (s : State) : Res :=
  if !m.wf then .fault .illFormed
  else if !(s.tw t).mgmtAlive then .next s
  else .next (s.modTw t fun x =>
    let x := ((x.fset Fld.pwrIn_VIN m.vin.toNat).fset Fld.pwrIn_IIN m.iin.toNat).fset Fld.pwrIn_PIN m.pin.toNat
    let x := (List.range 8).foldl (fun (x : Tower) k => (x.fset Fld.pwrRail_V ((m.railV.getD k 0).toNat) k).fset Fld.pwrRail_I
      ((m.railI.getD k 0).toNat) k) x
    let sense := fun p => (m.sense.getD p 0).toNat
    let x := match x.effective with
      | [] => x
      | p :: r => x.fset Fld.pwrSenseStat_LOWEST (r.foldl (fun a q => if sense q < sense a then q else a) p)
    let x := (List.range 72).foldl (fun (x : Tower) r => match m.regions[r]? with
      | some v => if x.rst r = 0 then x.vminSample r v.toNat else x
      | none => x) x
    let x := if x.sys.rails.testBit 0 && !x.sys.vcoreBad then
        (List.range 8).foldl (fun (x : Tower) p => match m.sense[p]? with
          | some v => x.vminSample (72 + p) v.toNat
          | none => x) x
      else x
    let l := x.fget Fld.pwrCap_LEVEL
    let n := capNext (x.fget Fld.pwrCap_EN) (x.fget Fld.pwrCap_CAP_W) l m.pin.toNat
    let x := x.fset Fld.pwrCap_LEVEL n
    if l = 0 ∧ n = 1 then x.pwrFault 5 else x)

end Sys2Proof.Machine
end

