-- ==== Sys2Proof/Machine/Thermal.lean ====
section
/-! DEFINITION. Thermal management (R560 to R573) and bond wear (R583, R584): a sample of the thermal logic and of the cycle
counter. Temperatures are integers in 0.125 °C; the estimate of R564 is kept in 1/250 of that. -/

namespace Sys2Proof.Machine

open Sys2Proof

/-- A 12-bit field that shows n / d (R561): exact where it can be. -/
def field12 (n : Int) (d : Nat) : Nat :=
  let q := n / (d : Int)
  let f := Config.thermField n d
  if q < -2048 ∨ 2047 < q then f.toNat
  else if n % (d : Int) = 0 then wrapN 12 q
  else wrapN 12 (if q < 2047 ∧ f.toNat % 2 = 1 then q + 1 else q)

/-- Throttle and shutdown limits of a die sensor by index, compute 0 to 95, base 96 to 159 (R568). -/
def dieLimit (i : Nat) : Int := if i < 96 then 800 else 760
def shutLimit : Int := 920

/-- The neighbours of a die sensor (R562), as indices of `THM_SENSOR`. -/
def neighbours (i : Nat) : List Nat :=
  if i < 96 then
    let c := i / 4
    let j := i % 4
    (if 0 < j then [i - 1] else []) ++ (if j < 3 then [i + 1] else []) ++ (if 0 < c then [i - 4] else []) ++
      (if c < 23 then [i + 4] else [])
  else
    let b := i - 96
    if b < 48 then
      (if b % 2 = 0 then [i + 1] else [i - 1]) ++ (if 2 ≤ b then [i - 2] else []) ++ (if b < 46 then [i + 2] else [])
    else if b < 54 then (if 48 < b then [i - 1] else []) ++ (if b < 53 then [i + 1] else [])
    else if b < 62 then (if 54 < b then [i - 1] else []) ++ (if b < 61 then [i + 1] else [])
    else if b = 62 then [i + 1] else [i - 1]

/-- Compute and base sensors that serve a region (R560). -/
def regionC (r : Nat) : List Nat := match r % 3 with
  | 0 => [r / 3 * 4]
  | 1 => [r / 3 * 4 + 1, r / 3 * 4 + 2]
  | _ => [r / 3 * 4 + 3]
def regionB (r : Nat) : List Nat := match r % 3 with
  | 0 => [96 + r / 3 * 2]
  | 1 => [96 + r / 3 * 2, 96 + r / 3 * 2 + 1]
  | _ => [96 + r / 3 * 2 + 1]

/-- The greatest of a list. -/
def maxInt : List Int → Option Int
  | [] => none
  | a :: l => some (l.foldl max a)

/-- The cross-check of one sensor (R562): its runs and mark, from the readings and the marks before the sample. -/
def crossCheck (rd : Nat → Int) (sus : Nat → Bool) (i : Nat) (x : Sensor) : Sensor × Bool :=
  let ns := (neighbours i).filter fun n => !sus n
  let near := ns.any fun n => decide ((rd i - rd n).natAbs ≤ 96)
  let y := { x with far := if near then 0 else x.far + 1, near := if near then x.near + 1 else 0 }
  (y, if sus i then decide (y.near < 64) else decide (8 ≤ y.far))

/-- The accepted values of the die sensors (R562), from readings and marks. -/
def accepted (rd : Nat → Int) (sus : Nat → Bool) : List Int :=
  let part := fun (i : Nat) =>
    if sus i then (maxInt (((neighbours i).filter fun n => !sus n).map rd)).map (· + 40) else some (rd i)
  let die := fun (lo n : Nat) => (maxInt ((List.range n).filterMap fun k => part (lo + k))).map (· + 40)
  let dc := (die 0 96).getD (sext 12 (Config.thermField 0 0).toNat)
  let db := (die 96 64).getD (sext 12 (Config.thermField 0 0).toNat)
  (List.range 160).map fun i => (part i).getD (if i < 96 then dc else db)

/-- The rate of rise (R570) in 0.125 °C over a time in 1/17 ns, none without one, and the past values that are kept. -/
def rateOf (now : Nat) (v : Int) (sus : Bool) (hist : List (Nat × Int × Bool)) : Option (Int × Nat) × List (Nat × Int × Bool) :=
  let old := hist.find? fun p => decide (17 * 10 ^ 6 ≤ now - p.1)
  let recent := hist.takeWhile fun p => decide (now - p.1 < 17 * 10 ^ 6)
  let rate := match old with
    | some (a, w, m) => if sus || m then none else some (v - w, now - a)
    | none => none
  (rate, (now, v, sus) :: recent ++ old.toList)

/-- A rate reaches k °C/ms (R570). -/
def rateAtLeast (k : Nat) (r : Option (Int × Nat)) : Bool := match r with
  | some (d, dt) => decide ((8 * k * dt : Int) ≤ d * (17 * 10 ^ 6 : Nat))
  | none => false

/-- The `RATE` field (R577). -/
def rateField (r : Option (Int × Nat)) : Nat := match r with
  | some (d, dt) => field12 (d * (17 * 10 ^ 6 : Nat)) dt
  | none => 0

/-- A level after a sample (R568, R570): its margin above the throttle limit in 1/250 of 0.125 °C, whether 1 ms has passed since its
last change, and the number of rates of rise that raise it by 4. -/
def levelNext (l : Nat) (margin : Int) (still : Bool) (ror : Nat) : Nat :=
  let a := if 0 ≤ margin then min 15 (l + 1) else if margin < -(16 * 250) ∧ still then l - 1 else l
  min 15 (a + 4 * ror)

/-- 1 ms of device time, in ns. -/
def oneMs : Nat := 10 ^ 6

/-- The levels of a region after a sample (R564, R565, R568, R569): compute and base value less limit, rates that act on each. -/
def Tower.regionLevels (x : Tower) (r : Nat) (mc mb : Int) (rc rb : Nat) : Tower :=
  let now := x.timeNs
  let g := x.region r
  let lc := x.fget Fld.thmRegion_LC r
  let lb := x.fget Fld.thmRegion_LB r
  let lc' := levelNext lc mc (decide (oneMs ≤ now - g.lcAt)) rc
  let lb' := levelNext lb mb (decide (oneMs ≤ now - g.lbAt)) rb
  let hot := fun (l : Nat) (m : Int) (o : Option Nat) => if l = 15 ∧ 0 ≤ m then some (o.getD now) else none
  let cold := fun (bit : Nat) (m : Int) => !g.ret.testBit bit || decide (m < -(40 * 250))
  let x := x.modRegion r fun g => { g with
    lcAt := if lc' = lc then g.lcAt else now
    lbAt := if lb' = lb then g.lbAt else now
    lcHot := hot lc' mc g.lcHot
    lbHot := hot lb' mb g.lbHot
    cool := if g.ret ≠ 0 ∧ cold 0 mc ∧ cold 1 mb then some (g.cool.getD now) else none }
  let x := (x.fset Fld.thmRegion_LC lc' r).fset Fld.thmRegion_LB lb' r
  if (lc = 0 ∧ 0 < lc') ∨ (lb = 0 ∧ 0 < lb') then x.thmEvent 5 else x

/-- A condition has lasted 1 ms. -/
def lasted (now : Nat) (o : Option Nat) : Bool := match o with
  | some a => decide (oneMs ≤ now - a)
  | none => false

/-- Thermal retention of a region after its levels (R569, R572): entered, or released and woken when MODE is ON. -/
def regionHeat (t : TowerId) (s : State) (r : Nat) : State :=
  let x := s.tw t
  let g := x.region r
  let now := x.timeNs
  let hot := (if lasted now g.lcHot then 1 else 0) + (if lasted now g.lbHot then 2 else 0)
  if hot ≠ 0 then
    let s := s.modTw t fun x =>
      let x := (x.modRegion r fun g => { g with ret := g.ret ||| hot, cool := none }).fset Fld.thmRegion_RET 1 r
      if g.ret = 0 then x.thmEvent 6 else x
    if x.rst r = 0 ∨ x.rst r = 3 then (regionDown t r true s).modTw t fun x => x.setRegion r 1 else s
  else if g.ret ≠ 0 ∧ lasted now g.cool then
    s.modTw t fun x =>
      let x := (x.modRegion r fun g => { g with ret := 0, cool := none }).fset Fld.thmRegion_RET 0 r
      if x.rst r = 2 ∧ x.fget Fld.pwrRegion_MODE r = 0 then x.setRegion r 3 else x
  else s

/-- The tower shuts down (R571): launches end, VCORE, VSD_H and VSD_L fall, with the HBM rails when a stack is too hot, and the
tower enters HOLD. -/
def thermalShutdown (t : TowerId) (hbm : Bool) (s : State) : State :=
  let off := 2 ^ 0 + 2 ^ 3 + 2 ^ 4 + (if hbm then 2 ^ 5 + 2 ^ 6 + 2 ^ 7 else 0)
  let s := s.modTw t fun x =>
    (((x.thmEvent 7).fset Fld.thmStat_SHUT 1).histAdd 4 0).modSys fun y => { y with rails := y.rails - (y.rails &&& off) }
  holdTower t 0x0C 0 s

/-- The code of the next interval from the smallest margin to a throttle limit (R567, R574). -/
def intervalOf (margin : Int) : Nat := if margin ≤ 24 * 250 then 2 else if margin ≤ 80 * 250 then 1 else 0

/-- A sample of the thermal logic, in the order of R566. -/
def execThermalSample (t : TowerId) (m : ThermSample) (s : State) : Res :=
  let x := s.tw t
  if !m.wf then .fault .illFormed
  else if !x.mgmtAlive then .next s
  else
    let now := x.time17
    let rd := fun i => sext 12 ((m.die.getD i 0).toNat)
    let present := fun k => decide (x.fget Fld.thmHbm_PRESENT k = 1)
    let hrd := fun k => if present k then sext 12 ((m.hbm.getD k 0).toNat) else 0
    let stackN := (List.range 6).filter present
    let wasSus := fun i => decide (x.fget Fld.thmSensor_SUSPECT i = 1)
    let chk := (List.range 160).map fun i => crossCheck rd wasSus i (sget Sensor.init x.sys.therm.sens i)
    let sus := fun i => ((chk[i]?).map Prod.snd).getD false
    let acc := accepted rd sus
    let av := fun i => acc.getD i 0
    let rates := chk.zipIdx.map fun (p : (Sensor × Bool) × Nat) => rateOf now (av p.2) p.1.2 p.1.1.hist
    let hrates := (List.range 6).map fun k => rateOf now (hrd k) false (sget Sensor.init x.sys.therm.hbm k).hist
    let rate := fun i => ((rates[i]?).map Prod.fst).getD none
    let hrate := fun k => if present k then ((hrates[k]?).map Prod.fst).getD none else none
    let acts := fun (l : List Nat) => (l.filter fun i => rateAtLeast 5 (rate i)).length
    -- sensors
    let sens := (chk.zip rates).zipIdx.map fun (p : ((Sensor × Bool) × (Option (Int × Nat) × List (Nat × Int × Bool))) × Nat) =>
      (p.2, { p.1.1.1 with hist := p.1.2.2 })
    let hs := hrates.zipIdx.map fun (p : (Option (Int × Nat) × List (Nat × Int × Bool)) × Nat) =>
      (p.2, { Sensor.init with hist := if present p.2 then p.1.2 else [] })
    let x := x.modSys fun y => { y with therm := { y.therm with sens := sens, hbm := hs } }
    let x := (List.range 160).foldl (fun (x : Tower) i =>
      let x := (((x.fset Fld.thmSensor_READING (wrapN 12 (rd i)) i).fset Fld.thmSensor_ACCEPTED (field12 (av i) 1) i).fset
        Fld.thmSensor_RATE (rateField (rate i)) i).fset Fld.thmSensor_SUSPECT (if sus i then 1 else 0) i
      if sus i && !wasSus i then x.thmEvent 1 else x) x
    let throt := sext 12 (x.fget Fld.thmLimits_HBM_THROT)
    let x := stackN.foldl (fun (x : Tower) k =>
      let was := sext 12 (x.fget Fld.thmHbm_READING k)
      let x := x.fset Fld.thmHbm_READING (wrapN 12 (hrd k)) k
      if throt ≤ hrd k ∧ was < throt then x.thmEvent 0 else x) x
    let any := fun k => (List.range 160).any (fun i => rateAtLeast k (rate i)) || stackN.any fun q => rateAtLeast k (hrate q)
    let x := if any 2 then x.thmEvent 3 else x
    let x := if any 5 then x.thmEvent 4 else x
    -- regions
    let tc := fun r => (maxInt ((regionC r).map av)).getD 0
    let tb := fun r => (maxInt ((regionB r).map av)).getD 0
    let est := fun r => 250 * tc r + (x.fget Fld.thmLimits_THETA * m.power.getD r 0 : Nat)
    let x := (List.range 72).foldl (fun (x : Tower) r =>
      let g := x.region r
      let hi := decide (250 * tb r + 80 * 250 < est r)
      let eh := if hi then g.estHi + 1 else 0
      let el := if hi then 0 else g.estLo + 1
      let was := decide (x.fget Fld.thmRegion_EST_SUSPECT r = 1)
      let mark := if was then decide (el < 64) else decide (16 ≤ eh)
      let x := x.modRegion r fun g => { g with estHi := eh, estLo := el }
      let x := ((x.fset Fld.thmRegion_TC (field12 (tc r) 1) r).fset Fld.thmRegion_TB (field12 (tb r) 1) r).fset
        Fld.thmRegion_EST (field12 (est r) 250) r
      let x := (x.fset Fld.thmRegion_POWER (min 1023 (m.power.getD r 0)) r).fset Fld.thmRegion_EST_SUSPECT (if mark then 1 else 0) r
      if mark && !was then x.thmEvent 2 else x) x
    let eb := fun r => if x.fget Fld.thmRegion_EST_SUSPECT r = 1 then max (250 * tb r) (est r) else 250 * tb r
    -- levels
    let x := (List.range 72).foldl (fun (x : Tower) r =>
      x.regionLevels r (250 * (tc r - 800)) (eb r - 250 * 760) (acts (regionC r)) (acts (regionB r))) x
    let drive := ((List.range 16).map fun i => av (144 + i) - 760) ++ stackN.map fun k => hrd k - throt
    let lt := x.fget Fld.thmStat_LT
    let still := decide (oneMs ≤ x.timeNs - x.sys.therm.ltAt)
    let ror := acts ((List.range 16).map fun i => 144 + i) + (stackN.filter fun k => rateAtLeast 5 (hrate k)).length
    let lt' := levelNext lt (250 * ((maxInt drive).getD 0)) still ror
    let x := if lt' = lt then x
      else (x.fset Fld.thmStat_LT lt').modSys fun y => { y with therm := { y.therm with ltAt := x.timeNs } }
    let x := if lt = 0 ∧ 0 < lt' then x.thmEvent 5 else x
    -- status
    let maxOf := fun (l : List Int) => (maxInt l).getD 0
    let x := (x.fset Fld.thmStat_MAX_C (field12 (maxOf (acc.take 96)) 1)).fset Fld.thmStat_MAX_B (field12 (maxOf (acc.drop 96)) 1)
    let x := x.fset Fld.thmStat_MAX_H (wrapN 12 (maxOf (stackN.map hrd)))
    let margins := ((List.range 160).map fun i => 250 * (dieLimit i - av i)) ++ (stackN.map fun k => 250 * (throt - hrd k)) ++
      (List.range 72).map fun r => 250 * 760 - max (eb r) (est r)
    let least := (maxInt (margins.map fun a => -a)).map fun a => -a
    let x := x.fset Fld.thmStat_INTERVAL (intervalOf (least.getD 0))
    let hbmHot := stackN.any fun k => decide (sext 12 (x.fget Fld.thmLimits_HBM_SHUT) ≤ hrd k)
    let dieHot := (acc.any fun v => decide (shutLimit ≤ v)) || (List.range 72).any fun r => decide (250 * shutLimit ≤ est r)
    let s := (List.range 72).foldl (regionHeat t) (s.setTw t x)
    if (hbmHot || dieHot) && decide (x.fget Fld.thmStat_SHUT = 0) then .next (thermalShutdown t hbmHot s) else .next s

/-! Bond wear. -/

/-- Three-point rainflow counting (R583), newest reversal first, within fuel: what stays, and the squares and number of the full
cycles of at least 20 °C (R584). -/
def rainflow : Nat → List Int → List Int × Nat × Nat
  | f + 1, a :: b :: c :: d :: r =>
    let x := (a - b).natAbs
    let y := (b - c).natAbs
    if y ≤ x then
      let q := rainflow f (a :: d :: r)
      if 160 ≤ y then (q.1, q.2.1 + y * y, q.2.2 + 1) else q
    else (a :: b :: c :: d :: r, 0, 0)
  | _, l => (l, 0, 0)

/-- Millionths of the scale of R584: 1,000 × the sum of (d / 480)², floor. -/
def eqMilli (sq : Nat) : Nat := min (2 ^ 32 - 1) (sq * 5 / 1152)

/-- The wear record after a new reversal (R583, R584): the stack keeps its newest 16. -/
def Tower.reversal (x : Tower) (v : Int) : Tower :=
  let q := rainflow 16 (v :: x.sys.wear.stack)
  let sq := x.sys.wear.sq + q.2.1
  let x := x.modSys fun y => { y with wear := { y.wear with stack := q.1.take 16, sq := sq } }
  let x := (x.fset Fld.rstLife_EQ_MILLI (eqMilli sq)).fset Fld.rstLife_CONSUMED (min (2 ^ 16 - 1) (eqMilli sq / 1000))
  (x.fadd Fld.rstLife_CYCLES q.2.2).markDue 4

/-- A sample of `THM_STAT.MAX_C`, once per second (R583): the last extreme becomes a reversal once the travel has turned by at least
2 °C. -/
def execThermalCycleSample (t : TowerId) (s : State) : Res :=
  if !(s.tw t).mgmtAlive then .next s
  else .next (s.modTw t fun x =>
    let v := sext 12 (x.fget Fld.thmStat_MAX_C)
    let w := x.sys.wear
    let set := fun (x : Tower) (e dir : Int) => x.modSys fun y => { y with wear := { y.wear with ext := some e, dir := dir } }
    match w.ext with
    | none => set x v 0
    | some e =>
      if w.dir * (v - e) > 0 then set x v w.dir
      else if 16 ≤ (v - e).natAbs then set (x.reversal e) v (if e < v then 1 else -1)
      else x)

end Sys2Proof.Machine
end

