-- ==== Sys2Proof/Machine/BringUp.lean ====
section
/-! DEFINITION. Bring-up (R615 to R623): firmware images (R650 to R652), fuses and restored state, self-tests with substitution, the
memory test and fill, the clock switch, the topology check, and the verification of licence keys (R626 to R629). -/

namespace Sys2Proof.Machine

open Sys2Proof

/-! Byte fields of images. -/

/-- The n bytes at an offset of an image held as a number, first byte first. -/
def bytesAt (x off n : Nat) : List Nat := leBytes n (x >>> (8 * off))

/-- The little-endian number in n bytes at an offset (R5). -/
def numAt (x off n : Nat) : Nat := (x >>> (8 * off)) % 2 ^ (8 * n)

/-- An image bank of the store. -/
def Store.image (s : Store) (bank : Nat) : Option (Nat × Nat) := if bank = 0 then s.imgA else s.imgB

/-- A firmware image, by length and content, is valid for a tower's fuses (R650, R651). -/
def imageValid (f : Fuses) (img : Nat × Nat) : Bool :=
  let x := img.2
  let len := numAt x 8 4
  let idx := numAt x 0xC 1
  let svn := numAt x 6 1
  decide (1024 ≤ img.1) && decide (1024 + len ≤ 2 ^ 24) && decide (1024 + len ≤ img.1) && decide (numAt x 0 4 = 0x5E70F1A0) &&
    decide (numAt x 0xD 51 = 0) && decide (numAt x 0x340 192 = 0) && decide (idx < 4) &&
    decide (sha256 (bytesAt x 0x40 384) = beBytes 32 (f.keyHash.getD idx 0)) && !f.revoked.testBit idx &&
    pssVerify (numAt x 0x40 384) (bytesAt x 0 0x1C0 ++ bytesAt x 0x400 len) (bytesAt x 0x1C0 384) &&
    decide (f.arb ≤ svn) && decide (svn ≤ 64)

/-- A bank of the tower holds a valid image. -/
def Tower.bankValid (x : Tower) (bank : Nat) : Bool := match x.sys.store.image bank with
  | some i => imageValid x.sys.fuses i
  | none => false

def Tower.modMgmt (x : Tower) (f : Mgmt → Mgmt) : Tower := x.modSys fun y => { y with mgmt := f y.mgmt }

/-- The firmware writes its fields of `GLB_VER` (R32, R591, R653). -/
def Tower.fwFields (x : Tower) : Tower :=
  let h := x.sys.mgmt.image
  ((x.fset Fld.glbVer_FW_MAJOR (numAt h 4 1)).fset Fld.glbVer_FW_MINOR (numAt h 5 1)).fset Fld.glbVer_FCL (numAt h 7 1)

/-- The management controller starts the image of a bank (R652, R653). It can miss its peer's heartbeat for 100 ms only from then on (R645). -/
def Tower.bootBank (x : Tower) (bank : Nat) : Tower :=
  let img := ((x.sys.store.image bank).map Prod.snd).getD 0
  ((x.modMgmt fun m => { m with
    up := true, image := numAt img 0 1024, sessions := [], updating := false, licKey := Config.licKeyOf img, quiet := max m.quiet (x.timeNs + 10 ^ 8) }).fset
      Fld.mgtStat_ACTIVE_BANK bank).fwFields

/-- The activation record, as the ROM reads it after a cold reset (R652, R663). -/
def Tower.activation (x : Tower) : Tower := match x.sys.store.read 8 with
  | some (.activation bank _ n trial) =>
    ((x.fset Fld.mgtStat_ACTIVE_BANK bank).fset Fld.mgtStat_TRIAL (if trial then 1 else 0)).modMgmt fun m =>
      { m with trialAt := x.timeNs, restarts := n }
  | _ => x.setFlag Fld.mgtStat_STORE_ERR

/-- The ROM boots the bank that the activation record names, or the other one (R592, R615, R652): after three watchdog restarts in a
trial it falls back. With no valid bank, bring-up ends in HOLD with IMAGE. -/
def execImageVerify (t : TowerId) (s : State) : Res :=
  let x := s.tw t
  if !x.mgmtAlive || x.sys.mgmt.up || decide (x.sys.boot.step = 1) then .next s
  else
    let x := if x.sys.boot.step = 2 ∧ x.sys.boot.restored = false then x.activation else x
    let a := x.fget Fld.mgtStat_ACTIVE_BANK
    let back := decide (x.fget Fld.mgtStat_TRIAL = 1) && decide (3 ≤ x.sys.mgmt.restarts) && x.bankValid (1 - a)
    let x := if back then
        (((x.fset Fld.mgtStat_TRIAL 0).setFlag Fld.mgtStat_FALLBACK).histAdd 7 0).markDue 8 |>.modMgmt fun m => { m with restarts := 0 }
      else x
    let first := if back then 1 - a else a
    match ([first, 1 - first].find? fun b => x.bankValid b) with
    | none => if x.sys.boot.step = 2 then .next (holdTower t 2 0 (s.setTw t x)) else .next (s.setTw t x)
    | some b =>
      let x := if b = first then x else (x.fset Fld.mgtStat_TRIAL 0).markDue 8
      let x := x.bootBank b
      .next (s.setTw t (if x.sys.boot.step = 2 then x.setStep 3 else x))

/-- The firmware misses its watchdog for 2 s and the controller restarts from ROM (R592, R652). -/
def execMgmtWatchdogExpiry (t : TowerId) (s : State) : Res :=
  let x := s.tw t
  if !x.mgmtAlive || !x.sys.mgmt.up then .next s
  else .next (s.modTw t fun x =>
    let trial := decide (x.fget Fld.mgtStat_TRIAL = 1)
    let x := x.modMgmt fun m => { m with
      up := false, sessions := [], updating := false, restarts := if trial then m.restarts + 1 else m.restarts }
    if trial then x.markDue 8 else x)

/-! Step 3. -/

/-- The fields that fuses load (R13): identity, counts, HBM and thermal limits, the enabled positions. -/
def Tower.fuseFields (x : Tower) : Tower :=
  let f := x.sys.fuses
  let n := popN 576 f.enabled.toNat
  let x := ((x.fset Fld.glbId_PART f.part).fset Fld.glbVer_CDIE_REV f.cdieRev).fset Fld.glbVer_BDIE_REV f.bdieRev
  let x := ((x.fset Fld.glbTower_BRK_FUSED n).fset Fld.glbTower_HBM_STACKS f.stackN).fset Fld.glbTower_PORTS f.links
  let x := ((x.fset Fld.hbmCfg_TREFI_NS f.trefi).fset Fld.hbmCfg_STACK_EN (2 ^ f.stackN - 1)).fset Fld.llcStat_HOMES n
  let x := (List.range 96).foldl (fun (x : Tower) k => x.fset Fld.hbmChStat_PRESENT (if k < 16 * f.stackN then 1 else 0) k) x
  let x := (List.range 6).foldl (fun (x : Tower) k => x.fset Fld.thmHbm_PRESENT (if k < f.stackN then 1 else 0) k) x
  let x := (x.fset Fld.thmLimits_HBM_THROT f.hbmThrot).fset Fld.thmLimits_HBM_SHUT f.hbmShut
  let x := (x.fset Fld.fusSerial_SERIAL f.serial).fset Fld.mgtStat_ARB_COUNT f.arb
  { x with enabled := f.enabled }

/-- The fused counts agree with the part number (R1, R623). -/
def fusesAgree (f : Fuses) : Bool :=
  [(0, 512, 6, 8), (1, 480, 6, 8), (2, 448, 5, 6)].contains (f.part, popN 576 f.enabled.toNat, f.stackN, f.links)

/-- The content that step 3 restores (R630, R662): what the management partition still holds while its write waits, else the copy
that is read. -/
def Tower.restoring (x : Tower) (typ : Nat) : Option StorePay :=
  if x.sys.boot.restored && x.sys.store.due.contains typ then some (x.latest typ) else x.sys.store.read typ

/-- The state of each power region at bring-up (R557, R572): fused off, locked out, in thermal retention, or on. -/
def Tower.regionStates (x : Tower) : Tower :=
  (List.range 72).foldl (fun (x : Tower) r =>
    let off := (regionSlices r).all fun k => !x.enabled.getLsbD k
    x.setRegion r (if off then 6 else if x.fget Fld.pwrRegion_LOCKED r = 1 then 5 else if (x.region r).ret ≠ 0 then 2 else 0)) x

/-- Restores the lock-out map, column groups and region trips (R190, R545, R615). -/
def Tower.restoreLocks (x : Tower) : Tower :=
  let p := match x.restoring 1 with
    | some (.lockMap c sub lost trips locked last) => (c, sub, lost, trips, locked, last)
    | _ => ([], [], [], [], [], [])
  let trips := fun r => sget [] p.2.2.2.1 r
  let x := { x with lock := p.1 }.modSys fun y => { y with subs := p.2.1 }
  let x := (List.range 576).foldl (fun (x : Tower) k =>
    let g := 255 - sget 0 p.2.2.1 k
    (x.fset Fld.brkArray_GROUP_GOOD g k).fset Fld.brkArray_WIDTH (widthOf g) k) x
  (List.range 72).foldl (fun (x : Tower) r =>
    let x := (x.modRegion r fun g => { g with trips := trips r }).setReg .pwrOcLast r 0 (sget 0 p.2.2.2.2.2 r)
    (x.fset Fld.pwrRegion_TRIPS (min 3 (trips r).length) r).fset Fld.pwrRegion_LOCKED
      (if p.2.2.2.2.1.contains r then 1 else 0) r) x

/-- Restores the error history, wear, calibration, memory-test record, retired lines and key bits (R584, R618, R629, R663). -/
def Tower.restoreRest (x : Tower) : Tower :=
  let hist := match x.sys.store.read 3 with
    | some (.history h) => h
    | _ => []
  let old := x.sys.hist
  let all := if x.sys.boot.restored then (if x.sys.store.due.contains 3 then old else hist) else hist ++ old
  let x := x.modSys fun y => { y with hist := all.drop (all.length - 256) }
  let w := match x.restoring 4 with
    | some (.wear sq n st) => (sq, n, st)
    | _ => (0, 0, [])
  let x := x.modSys fun y => { y with wear := { y.wear with sq := w.1, stack := w.2.2 } }
  let x := ((x.fset Fld.rstLife_EQ_MILLI (eqMilli w.1)).fset Fld.rstLife_CONSUMED (min (2 ^ 16 - 1) (eqMilli w.1 / 1000))).fset
    Fld.rstLife_CYCLES w.2.1
  let c := match x.restoring 5 with
    | some (.calib v th ppr) => (v, th, ppr)
    | _ => (288, 125, [])
  let x := (x.fset Fld.pwrCfg_VCORE_SET c.1).fset Fld.thmLimits_THETA c.2.1
  let x := (List.range 96).foldl (fun (x : Tower) k => x.fset Fld.hbmChStat_PPR_USED (sget 0 c.2.2 k) k) x
  let x := match x.restoring 7 with
    | some (.memtest utc lt lp hold) =>
      let hold := if x.sys.boot.restored then x.sys.boot.lastHold else hold
      (((x.setReg .fusFullUtc 0 0 utc).fset Fld.fusBoot_LAST_TEST lt).fset Fld.fusBoot_LAST_PASS lp).modBoot fun b =>
        { b with lastHold := hold }
    | _ => x
  let x := match x.restoring 2 with
    | some (.retired l) => x.modMem fun m => { m with retired := l }
    | _ => x
  let key := fun i => match x.sys.store.read (0x21 + i) with
    | some (.key _) => 1
    | _ => 0
  ((x.fset Fld.licStat_FABRIC (key 0)).fset Fld.licStat_LONG_NBU (key 1)).fset Fld.licStat_DEEP_TRACE (key 2)

/-- Loads the tower configuration (R274, R615, R620); without a valid copy there is none. -/
def Tower.loadConfig (x : Tower) : Tower × Bool :=
  match x.restoring 6 with
  | some (.config c) =>
    let x := (x.modSys fun y => { y with cfg := some c }).fset Fld.fusBoot_POLICY c.policy
    let x := if c.pinned < 15 then x.fset Fld.llcCfg_PINNED c.pinned else x
    (x.fset Fld.llcCfg_LOCK 1, true)
  | _ => (x, false)

/-- Step 3 (R615): fuses are read, stored state is restored and the configuration loaded; forwarded mode starts (R587). -/
def execFuseRestore (t : TowerId) (s : State) : Res :=
  let x := s.tw t
  if x.sys.boot.step ≠ 3 then .next s
  else
    let lost := storeTypes.any fun typ => decide (typ ≠ 8) && (x.restoring typ).isNone
    let x := x.fuseFields
    let x := if lost then x.setFlag Fld.mgtStat_STORE_ERR else x
    let x := x.restoreLocks.restoreRest
    let r := x.loadConfig
    let x := ((r.1.fset Fld.clkStat_MODE 0).regionStates).modBoot fun b => { b with restored := true }
    let s := s.setTw t x
    if !fusesAgree x.sys.fuses then .next (holdTower t 3 0 s)
    else if !r.2 then .next (holdTower t 4 0 s)
    else .next (s.modTw t fun x => x.setStep 4)

/-! Steps 4 and 5. -/

/-- Logic self-test of both dies and the array tests complete (R169, R615): cores that fail are marked; a failure of the base die or
the mortar ends bring-up with LOGIC. -/
def execLogicSelftestComplete (t : TowerId) (base : Bool) (failed : List (Fin 576)) (groups : List (Fin 576 × BitVec 8))
    (s : State) : Res :=
  if (s.tw t).sys.boot.step ≠ 4 then .next s
  else if base then .next (holdTower t 5 0 s)
  else .next (s.modTw t fun x =>
    let x := x.modBoot fun b => { b with bad := failed.foldl (fun m k => sset m k.val 1) b.bad }
    let x := groups.foldl (fun (x : Tower) p =>
      let k := p.1.val
      let g := x.fget Fld.brkArray_GROUP_GOOD k
      let n := g - (g &&& p.2.toNat)
      if n = g then x
      else
        let x := ((x.fset Fld.brkArray_GROUP_GOOD n k).fset Fld.brkArray_WIDTH (widthOf n) k).markDue 1
        if n = 0 ∧ (sfind x.sys.boot.bad k).isNone then x.modBoot fun b => { b with bad := sset b.bad k 2 } else x) x
    x.setStep 5)

/-- The positions of a bit map. -/
def positions (m : BitVec 576) : List Nat := (List.range 576).filter fun k => m.getLsbD k

/-- A position set or cleared in a bit map. -/
def setPos (m : BitVec 576) (k : Nat) (on : Bool) : BitVec 576 :=
  if on then m ||| (1#576 <<< k) else m &&& ~~~(1#576 <<< k)

/-- Spare substitution (R622, R623): bricks with failed slices first, then all other failed or locked-out ones, each by the passing
unused spare of lowest index. -/
def Tower.substitute (x : Tower) (slices : List Nat) : Tower :=
  let out := fun k => (sfind x.lock k).isSome
  let en := positions x.enabled
  let need := (en.filter fun k => slices.contains k) ++ en.filter fun k => out k && !slices.contains k
  let spare := (positions x.sys.fuses.spare).filter fun k => !out k
  let pairs := need.zip spare
  let x := pairs.foldl (fun (x : Tower) p => { x with enabled := setPos (setPos x.enabled p.1 false) p.2 true }) x
  x.modSys fun y => { y with subs := pairs.foldl (fun m p => sset (sset m p.1 p.2) p.2 p.1) [] }

/-- SRAM self-test and repair complete, and spares are substituted (R615, R622): `arrays` and `slices` failed beyond repair. A failed
slice that remains ends bring-up with SLICE. -/
def execSramSelftestComplete (t : TowerId) (arrays slices : List (Fin 576)) (s : State) : Res :=
  let x := s.tw t
  if x.sys.boot.step ≠ 5 then .next s
  else
    let sl := slices.map Fin.val
    let mark := fun (l : SMap Nat) (k c : Nat) => if (sfind l k).isSome then l else sset l k c
    let lock := sl.foldl (fun l k => mark l k 4) x.lock
    let lock := (arrays.map Fin.val).foldl (fun l k => mark l k 3) (x.sys.boot.bad.foldl (fun l p => mark l p.1 p.2) lock)
    let y := ({ x with lock := lock }.substitute sl).regionStates
    let y := if y.lock = x.lock ∧ y.sys.subs = x.sys.subs then y else y.markDue 1
    match (positions y.enabled).find? fun k => sl.contains k with
    | some k => .next (holdTower t 6 k (s.setTw t y))
    | none => .next (s.setTw t (y.setStep 6))

/-! Step 6. -/

/-- The full memory test is run, not the abbreviated one (R389, R618). -/
def Tower.fullTest (x : Tower) : Bool :=
  let now := x.reg .fusTime
  let last := x.reg .fusFullUtc
  !(decide (x.fget Fld.fusBoot_POLICY = 0) && decide (now ≠ 0) && decide (last ≠ 0) && decide (last ≤ now) &&
    decide (now - last ≤ 2591999) && decide (x.mem.retired.length < 4096) && !([7, 8] : List Nat).contains x.sys.boot.lastHold)

/-- HBM training completes (R615): a stack that fails ends bring-up with HBM_TRAIN; else the memory test starts. -/
def execHbmTrainingComplete (t : TowerId) (failed : Option (Fin 6)) (s : State) : Res :=
  let x := s.tw t
  if x.sys.boot.step ≠ 6 ∨ x.sys.boot.sub ≠ 0 then .next s
  else match failed with
  | some k => .next (holdTower t 7 k.val s)
  | none => .next (s.modTw t fun x => x.modBoot fun b => { b with sub := 1, full := x.fullTest, pattern := 0, rows := [] })

/-- A pattern has been written to every sector of the stacks and its retention pause starts (R617). -/
def execMemoryTestPattern (t : TowerId) (s : State) : Res :=
  let b := (s.tw t).sys.boot
  if b.step = 6 ∧ b.sub = 1 then .next (s.modTw t fun x => x.modBoot fun b => { b with sub := 2 }) else .next s

/-- The lines of a row (R349, R350), as device line numbers. -/
def rowLines (t : TowerId) (stackN pc page : Nat) : List Nat :=
  let npc := 32 * stackN
  (List.range 8).map fun i =>
    let q := page * 8 + i
    let f := (bits q 7 0 ^^^ bits q 15 8 ^^^ bits q 23 16) % npc
    hbmBase t / 128 + q * npc + (pc + npc - f) % npc

/-- A device line lies in the tower's HBM (R23, R24). -/
def hbmLine (t : TowerId) (stackN line : Nat) : Bool :=
  decide (hbmBase t / 128 ≤ line) && decide (line < hbmBase t / 128 + stackN * 48 * 2 ^ 23)

/-- The channel controller of a pseudo-channel of the tower (R349, R351). -/
def pcController (stackN pc : Nat) : Nat := 16 * (pc % stackN) + pc / stackN / 2

/-- Step 7 starts (R379, R399). -/
def Tower.startFill (x : Tower) : Tower :=
  (((x.fset Fld.hbmCfg_TRAINED 1).setStep 7).fset Fld.eccFill_STATE 1).fset Fld.eccFill_PROGRESS 0

/-- A retention pause ends and the pattern is read back (R348, R389, R617, R618): rows that fail are repaired or retired; after the
last pattern of the full test, entries whose row passed or was repaired leave the list (a pinned line has no row), and a list that is full ends bring-up with
HBM_TEST. -/
def execRetentionPauseExpiry (t : TowerId) (rows : List HbmRow) (s : State) : Res :=
  let x := s.tw t
  let b := x.sys.boot
  if b.step ≠ 6 ∨ b.sub ≠ 2 then .next s
  else
    let n := x.stackN
    let real := rows.filter fun r => decide (r.pc < 32 * n) && decide (r.page < 2 ^ 6 * 24576)
    let next := fun (s : State) => s.modTw t fun x => x.modBoot fun b => { b with sub := 1, pattern := b.pattern + 1 }
    if b.full then
      let s := s.modTw t fun x => real.foldl (fun (x : Tower) r =>
        if r.spare then (x.fadd Fld.hbmChStat_PPR_USED 1 (pcController n r.pc)).markDue 5
        else if x.sys.boot.rows.contains (r.pc, r.page) then x
        else x.modBoot fun b => { b with rows := b.rows ++ [(r.pc, r.page)] }) x
      if b.pattern < 7 then .next (next s)
      else
        let x := s.tw t
        let bad := (x.sys.boot.rows.map fun p => rowLines t n p.1 p.2).flatten
        let kept := x.mem.retired.filter fun l => bad.contains l || !hbmLine t n l
        let all := kept ++ bad.filter fun l => !x.mem.retired.contains l
        let full := decide (4096 ≤ all.length)
        let list := all.take 4096
        let x := (x.modMem fun m => { m with retired := list }).markDue 2
        let x := ((x.fset Fld.fusBoot_LAST_TEST 1).fset Fld.fusBoot_LAST_PASS (if full then 0 else 1)).markDue 7
        let x := if full then x else x.setReg .fusFullUtc 0 0 (x.reg .fusTime)
        if full then .next (holdTower t 8 ((x.place (list.getLastD 0)).1) (s.setTw t x))
        else .next (s.setTw t x.startFill)
    else
      let s := ((real.map fun r => rowLines t n r.pc r.page).flatten).foldl (fun s l => retireLine s t l n) s
      if b.pattern < 1 then .next (next s)
      else .next (s.modTw t fun x =>
        (((x.fset Fld.fusBoot_LAST_TEST 2).fset Fld.fusBoot_LAST_PASS 1).markDue 7).startFill)

/-! Steps 7 to 11. -/

/-- The fill completes (R378, R379, R399): every store holds zero data with valid check bits and nothing is allocated. -/
def execMemoryFill (t : TowerId) (s : State) : Res :=
  if (s.tw t).sys.boot.step ≠ 7 then .next s
  else .next (s.modTw t fun x =>
    let x := { x with
      mem := { MemSys.init with retired := x.mem.retired, redErr := x.mem.redErr }
      bricks := x.bricks.map fun (p : Nat × Brick) => (p.1, { Brick.init with privErrs := p.2.privErrs }) }
    ((x.fset Fld.eccFill_STATE 2).fset Fld.eccFill_PROGRESS (x.stackN * 48 * 2 ^ 23)).setStep 8)

/-- The base die switches to independent clocks (R588); a failure ends bring-up with CLOCK. -/
def execClockModeSwitch (t : TowerId) (ok : Bool) (s : State) : Res :=
  let b := (s.tw t).sys.boot
  if b.step ≠ 8 ∨ b.sub ≠ 0 then .next s
  else if !ok then .next (holdTower t 9 0 s)
  else .next (s.modTw t fun x => (x.fset Fld.clkStat_MODE 1).modBoot fun b => { b with sub := 1 })

/-- Step 9 starts (R467, R615, R621): the record's router values are written under the rules of a
write of their registers (R11, R471, R473), unless `RTR_CFG.LOCK` is closed, and LOCK is closed; the ports train. -/
def Tower.startLinks (x : Tower) : Tower :=
  let x := if x.fget Fld.rtrCfg_LOCK = 1 then x
    else match x.sys.cfg.bind TowerCfg.router with
      | some (cfg, topo, sn) =>
        let x := (List.range 8).foldl (fun (x : Tower) i =>
          (x.topoWrite .rtrTopo i (topo.getD i 0)).topoWrite .rtrTopoSn i (sn.getD i 0)) x
        (x.rtrWrite cfg).fset Fld.rtrCfg_LOCK 1
      | none => x
  let x := (x.fset Fld.rtrStat_TOPO 1).setStep 9
  (List.range 8).foldl (fun (x : Tower) p => if x.hasPort p ∧ x.lstate p = 1 then x.linkTrain p else x) x

/-- Vertical-channel training of bring-up ends (R582, R588, R615): bricks whose ports lack spares are locked out. -/
def execVerticalTrainingComplete (t : TowerId) (ports : List (Fin 576)) (gates : List (Fin 48)) (s : State) : Res :=
  let b := (s.tw t).sys.boot
  if b.step ≠ 8 ∨ b.sub ≠ 1 then .next s
  else .next ((trainLock t ports gates s).modTw t Tower.startLinks)

/-- The topology check of step 9 (R467, R469, R615). -/
def execTopologyCheck (t : TowerId) (s : State) : Res :=
  if (s.tw t).sys.boot.step ≠ 9 then .next s
  else
    let x := (s.tw t).topoCheck
    let s := s.setTw t x
    if x.fget Fld.rtrStat_TOPO = 2 then .next (s.modTw t fun x => x.setStep 10)
    else if x.fget Fld.rtrStat_TOPO = 3 then .next (holdTower t 0x0A (x.fget Fld.rtrStat_PORT) s)
    else .next s

/-- TOPO_S expires before the check passes (R467, R621). -/
def execTopologyTimeout (t : TowerId) (s : State) : Res :=
  if (s.tw t).sys.boot.step ≠ 9 then .next s
  else
    let x := (s.tw t).topoTimeout
    .next (holdTower t 0x0A (x.fget Fld.rtrStat_PORT) (s.setTw t x))

/-! Licence keys. -/

/-- The bit of `LIC_STAT` of a feature code (R626). -/
def licFld (feature : Nat) : Fld := match feature with
  | 1 => Fld.licStat_FABRIC
  | 2 => Fld.licStat_LONG_NBU
  | _ => Fld.licStat_DEEP_TRACE

/-- The checks of a key image, in order (R627, R628): 0, or the code of R643 of the first that fails. -/
def keyCheck (x : Tower) (img : Nat) : Nat :=
  let f := numAt img 2 2
  if numAt img 0 2 ≠ 1 ∨ f = 0 ∨ 3 < f ∨ numAt img 4 4 ≠ 0 ∨ numAt img 0x14 44 ≠ 0 ∨ numAt img 0x1C0 64 ≠ 0 then 3
  else if numAt img 8 8 ≠ x.reg .fusSerial then 4
  else
    let key := x.sys.mgmt.licKey
    if sha256 (leBytes 384 key) = beBytes 32 x.sys.fuses.licHash ∧ pssVerify key (bytesAt img 0 0x40) (bytesAt img 0x40 384) then 0 else 5

/-- Bring-up completes (R21, R615): logical IDs are assigned and the tower is READY. -/
def Tower.finish (x : Tower) : Tower :=
  let x := (((x.setStep 0).fset Fld.fusHold_STEP 0).assignIds).fwFields
  let x := if x.sys.boot.lastHold = 0 then x else (x.modBoot fun b => { b with lastHold := 0 }).markDue 7
  x.setStage 2

/-- Every stored key is verified again (R615, R629): one that fails is deleted and its bit cleared; a fabric of more than 128 modules
that loses its key ends bring-up with KEY. -/
def execKeyVerify (t : TowerId) (s : State) : Res :=
  let x := s.tw t
  if x.sys.boot.step ≠ 10 then .next s
  else
    let had := x.fget Fld.licStat_FABRIC
    let x := [1, 2, 3].foldl (fun (x : Tower) f => match x.sys.store.read (0x20 + f) with
      | some (.key img) =>
        if keyCheck x img = 0 ∧ numAt img 2 2 = f then x else ((x.putRecord (0x20 + f) .none 0 false).1).fset (licFld f) 0
      | _ => x) x
    if had = 1 ∧ x.fget Fld.licStat_FABRIC = 0 ∧ 128 < x.extent 0 * x.extent 1 * x.extent 2 then
      .next (holdTower t 0x0B 1 (s.setTw t (x.topoFail 3 0)))
    else .next (s.setTw t x.finish)

/-- `LIC_INSTALL` accepts an operation (R628, R643). -/
def Tower.licTakes (x : Tower) (who : RegBy) : Bool := decide (who = .mgmt) && (x.ready || x.inHold)

/-- The management controller reads the 512 bytes of an image from a line on (R628): it is no master of R353, so its reads make no HBM
request and allocate nothing (log entry 67). A host copy that is recalled first is waited for. -/
def licRead (s : State) (t : TowerId) (line : Nat) : EngR :=
  (List.range 4).foldl (fun (acc : EngR) i => match acc with
    | .done s (.ok v) =>
      if (s.target ((line + i) * 128)).home? ≠ some t then .done s (.error .hole)
      else if let some e := accessErr s t t (line + i) then .done s (.error e)
      else match prepRead s t none (line + i) 15 with
        | .wait s => .wait s
        | .ok s =>
          let r := decodeLine s t t (s.target ((line + i) * 128)) (line + i) 15
          .done r.1 (r.2.map fun l => v + l.toNat <<< (1024 * i))
    | r => r) (.done s (.ok 0))

/-- A write of `LIC_INSTALL` with OP install (R628, R643): the image at the line `addr` is checked, written to the store, and its feature's
bit is set. `fails` programmings of the store fail. -/
def execLicInstall (t : TowerId) (who : RegBy) (addr : BitVec 41) (fails : Nat) (s : State) : Res :=
  let res := fun (s : State) (r : Nat) => s.modTw t fun x => x.fset Fld.licStat_RESULT r
  let a := addr.toNat * 128
  if !(s.tw t).licTakes who then .next (res s 6)
  else match (s.target a).home? with
  | none => .next (res s 3)
  | some h =>
    if h ≠ t then .next (res s 3)
    else match licRead s t addr.toNat with
    | .wait s => .next s
    | .done s (.error _) => .next (res s 3)
    | .done s (.ok img) =>
      let x := s.tw t
      let f := numAt img 2 2
      let c := keyCheck x img
      let old := match x.sys.store.read (0x20 + f) with
        | some (.key k) => some (numAt k 0x10 4)
        | _ => none
      if c ≠ 0 then .next (res s c)
      else if (match old with
        | some n => decide (numAt img 0x10 4 ≤ n)
        | none => false) then .next (res s 3)
      else
        let r := x.putRecord (0x20 + f) (.key img) fails false
        if r.2 then .next (res (s.setTw t (r.1.fset (licFld f) 1)) 1) else .next (res (s.setTw t r.1) 7)

/-- A write of `LIC_INSTALL` with OP remove (R628, R643). -/
def execLicRemove (t : TowerId) (who : RegBy) (feature : BitVec 2) (fails : Nat) (s : State) : Res :=
  let res := fun (s : State) (r : Nat) => s.modTw t fun x => x.fset Fld.licStat_RESULT r
  if feature = 0 then .next s
  else if !(s.tw t).licTakes who then .next (res s 6)
  else
    let f := feature.toNat
    let r := (s.tw t).putRecord (0x20 + f) .none fails false
    if r.2 then .next (res (s.setTw t (r.1.fset (licFld f) 0)) 2) else .next (res (s.setTw t r.1) 7)

end Sys2Proof.Machine
end

