-- ==== Sys2Proof/Machine/Coll.lean ====
section
/-! DEFINITION. The collective engines (R459 to R464, R470). -/

namespace Sys2Proof.Machine

open Sys2Proof

/-- Fields of a collective descriptor (R460). -/
def cOp (d : Nat) : Nat := bits d 55 54
def cMax (d : Nat) : Bool := d.testBit 53
def cFmt (d : Nat) : Nat := bits d 52 49
def cRm (d : Nat) : Nat := bits d 48 46
def cCplEn (d : Nat) : Bool := d.testBit 45
def cBuf (d : Nat) : Nat := dbytes d 0x08 8
def cBytes (d : Nat) : Nat := dbytes d 0x10 4
def cG (d : Nat) : Nat := dbytes d 0x14 2
def cRank (d : Nat) : Nat := dbytes d 0x16 2
def cFcl (d : Nat) : Nat := dbytes d 0x18 1
def cDl (d : Nat) : Nat := dbytes d 0x1C 4
def cMlist (d : Nat) : Nat := dbytes d 0x20 8
def cCpl (d : Nat) : Nat := dbytes d 0x28 8
def cSeed (d : Nat) : Nat := dbytes d 0x30 4
def cGroup (d : Nat) : Nat := dbytes d 0x38 4
def cSeq (d : Nat) : Nat := dbytes d 0x3C 4
/-- Bytes of a segment, and its chunks (R461). -/
def cSeg (d : Nat) : Nat := cBytes d / max 1 (cG d)
def cChunks (d : Nat) : Nat := cdiv (cSeg d) 3968
/-- Reduce-scatter and all-gather steps (R461). -/
def cRs (d : Nat) : Nat := if cOp d = 2 then 0 else cG d - 1
def cSteps (d : Nat) : Nat := cRs d + (if cOp d = 1 then 0 else cG d - 1)

/-- The segment that member r sends in step k, counting reduce-scatter steps first (R461). -/
def cSegOf (d r k : Nat) : Nat :=
  if k < cRs d then (r + cG d * 2 - k) % cG d else (r + 1 + cG d * 2 - (k - cRs d)) % cG d

/-- Bytes from an address to another lie wholly in the tower's HBM. -/
def State.inHbm (s : State) (t : TowerId) (a n : Nat) : Bool :=
  decide (s.target a = .hbm t) && (decide (n = 0) || decide (s.target (a + n - 1) = .hbm t))

/-- A submission (R459, R478): queued, or refused when 16 are queued or running. -/
def execRtrCollSubmit (t : TowerId) (v : Word) (s : State) : Res :=
  .next (s.modTw t fun x =>
    if 16 ≤ x.rtr.collQ.length + x.rtr.coll.length then x.fset Fld.rtrCollStat_STATE 2
    else (x.modRtr fun r => { r with collQ := r.collQ ++ [bits v.toNat 47 7 * 128] }).fset Fld.rtrCollStat_STATE 1)

/-- The checks of a descriptor at its start (R460, R464, R470), apart from the member list. -/
def collCheck (s : State) (t : TowerId) (d : Nat) : Nat :=
  let z := fun (o n : Nat) => decide (dbytes d o n ≠ 0)
  let x := s.tw t
  let fcl := x.fget Fld.glbVer_FCL
  if decide (bits d 63 56 ≠ 1) || decide (cOp d = 3) || !(decide (cFmt d = 0) || decide (cFmt d = 2)) ||
      !(decide (cRm d = 0) || (decide (cRm d = 4) && decide (cFmt d = 2))) || decide (bits d 44 0 ≠ 0) ||
      decide (cG d < 2) || decide (1024 < cG d) || decide (cG d ≤ cRank d) || z 0x19 3 || z 0x34 4 || z 0x40 64 ||
      decide (cDl d = 0) || decide (32767 < cDl d) || (!cCplEn d && decide (cCpl d ≠ 0)) then 0x60
  else if decide (cBuf d % 128 ≠ 0) || decide (cBytes d % (128 * cG d) ≠ 0) || decide (cCpl d % 4 ≠ 0) ||
      decide (cMlist d % 8 ≠ 0) || !((List.range (2 * cG d)).all fun i =>
        decide ((s.target (cMlist d + i)).home? = some t)) then 0x61
  else if !s.inHbm t (cBuf d) (cBytes d) then 0x20
  else if cFcl d ≠ fcl ∧ cFcl d + 1 ≠ fcl then 0x62
  else 0

/-- A collective engine as an agent for its own reads and writes (R353, R462). -/
def collAgent (t : TowerId) (e : Fin 4) : Agent := ⟨t, 27, 2 ^ 80 + e.val⟩

def Tower.setColl (x : Tower) (e : Nat) (c : CollRun) : Tower := x.modRtr fun r => { r with coll := sset r.coll e c }

/-- The engine holds a descriptor with its member list, and the code of a failure at the start. -/
def State.collStart (s : State) (t : TowerId) (e : Fin 4) (d : Nat) (members : List Nat) (code : Nat) : State :=
  s.modTw t fun x => x.setColl e ⟨d, members, 0, 0, [], 0, [], code, decide (code ≠ 0)⟩

/-- A started descriptor reads its member list, once (R460); with stochastic rounding the home slices' generators take SEED. -/
def collList (t : TowerId) (e : Fin 4) (d : Nat) (s : State) : State :=
  match engReadBytes s (collAgent t e) none (cMlist d) (2 * cG d) with
  | .wait s => s.collStart t e d [] 0
  | .done s (.error k) => s.collStart t e d [] k.code
  | .done s (.ok m) =>
    let ms := (List.range (cG d)).map fun i => bits m (16 * i + 15) (16 * i)
    let bad := decide (ms.getD (cRank d) 0 ≠ (s.tw t).faddr) || (ms.any fun v => decide (2 ^ 11 ≤ v)) || decide ((uniq ms).length ≠ ms.length)
    if bad then s.collStart t e d [] 0x60
    else
      let seed := fun (y : MemSys) => { y with sr := (List.range 576).map fun k => (k, srSeed (BitVec.ofNat 32 (cSeed d ^^^ k))) }
      (if cRm d = 4 then s.modMem t seed else s).collStart t e d ms 0

/-- A free engine starts the descriptor at the head of the queue (R459, R460): it reads the descriptor, makes the checks and reads the
member list. -/
def collDescriptorStartOn (t : TowerId) (e : Fin 4) (s : State) : Res :=
  let took := fun (s : State) => s.modTw t fun x => x.modRtr fun r => { r with collQ := r.collQ.drop 1 }
  match (s.tw t).rtr.collQ, sfind (s.tw t).rtr.coll e with
  | _, some c => .next (if c.members.isEmpty && !c.ended then collList t e c.desc s else s)
  | [], none => .next s
  | a :: _, none =>
    if !s.inHbm t a 128 then .next ((took s).collStart t e 0 [] 0x61)
    else match engReadBytes s (collAgent t e) none a 128 with
      | .wait s => .next s
      | .done s (.error .uncorrectable) => .next s
      | .done s (.error k) => .next ((took s).collStart t e 0 [] k.code)
      | .done s (.ok d) =>
        let c := collCheck s t d
        .next (if c ≠ 0 then (took s).collStart t e d [] c else collList t e d (took s))

/-- Every chunk of a step has been applied. -/
def CollRun.stepDone (c : CollRun) (k : Nat) : Bool :=
  (List.range (cChunks c.desc)).all fun i => c.applied.contains (k, 3968 * i)

/-- Ends a collective with a result: it sends nothing further (R464). -/
def CollRun.fail (c : CollRun) (code : Nat) : CollRun := { c with result := code, ended := true, out := [] }

/-- Sends the next chunk to the ring successor (R461, R462), with at most 16 unacknowledged (R463). -/
def collChunkSendOn (t : TowerId) (e : Fin 4) (s : State) : Res :=
  match sfind (s.tw t).rtr.coll e with
  | none => .next s
  | some c =>
    let d := c.desc
    if c.ended || c.members.isEmpty || decide (cSteps d ≤ c.step) || decide (16 ≤ c.out.length) || decide (cSeg d = 0) ||
        (decide (c.step ≠ 0) && !c.stepDone (c.step - 1)) then .next s
    else
      let seg := cSegOf d (cRank d) c.step
      let n := min 3968 (cSeg d - c.off)
      let a := cBuf d + seg * cSeg d + c.off
      match engReadBytes s (collAgent t e) none a n with
      | .wait s => .next s
      | .done s (.error .uncorrectable) => .next s
      | .done s (.error k) => .next (s.modTw t fun x => x.setColl e (c.fail k.code))
      | .done s (.ok v) =>
        let x := s.tw t
        let wire := if c.step < cRs d then c.step else 2 ^ 15 + (c.step - cRs d)
        let body := cGroup d + cSeq d * 2 ^ 32 + wire * 2 ^ 64 + seg * 2 ^ 80 + c.off * 2 ^ 96 + cFcl d * 2 ^ 128 + v * 2 ^ 256
        let m := x.msg 0x20 2 (48 + n) (c.members.getD ((cRank d + 1) % cG d) 0) ((x.timeNs / 8 + cDl d) % 2 ^ 16) x.rtr.nextTag body
        let last := decide (cSeg d ≤ c.off + n)
        let x := (x.post m).modRtr fun r => { r with nextTag := (r.nextTag + 1) % 2 ^ 32 }
        .next (s.setTw t (x.setColl e { c with
          out := c.out ++ [⟨m, 1, false⟩]
          step := if last then c.step + 1 else c.step
          off := if last then 0 else c.off + n }))

/-- The reductions or writes of a chunk's lines: they end with a code, or wait with the lines done so far. -/
inductive ChunkR where
  | wait (s : State) (lines : Nat)
  | done (s : State) (code : Nat)

/-- The reduction request of a line of a chunk (R300, R462). -/
def chunkRed (t : TowerId) (d line w : Nat) (dl : Option Nat) : RedReq :=
  let bf := decide (cFmt d = 2)
  let vals : List R32 := (List.range (if bf then 64 else 32)).map fun k =>
    if bf then BitVec.ofNat 32 (bits w (16 * k + 15) (16 * k) * 2 ^ 16) else BitVec.ofNat 32 (bits w (32 * k + 31) (32 * k))
  ⟨.tile t 0 0, line, cMax d, bf, decide (cRm d = 4), 2 ^ vals.length - 1, vals, 27, dl⟩

/-- Applies `n` lines of a chunk from the i-th on to the local buffer (R461, R462): reductions or device writes, charged to master 27
with the chunk's deadline. Each line is applied once, whatever a later one waits for (R303). -/
def applyChunk (t : TowerId) (g : Agent) (d : Nat) (rs : Bool) (a v : Nat) (dl : Option Nat) : Nat → Nat → State → ChunkR
  | 0, _, s => .done s 0
  | n + 1, i, s =>
    let line := a / 128 + i
    let w := v >>> (1024 * i) % 2 ^ 1024
    if rs then match reduceAt s g t (chunkRed t d line w dl) with
      | .wait s => .wait s i
      | .done s 0 => applyChunk t g d rs a v dl n (i + 1) s
      | .done s c => .done s c
    else match engWrite s g line (BitVec.ofNat 1024 w) (BitVec.allOnes 128) with
      | .wait s => .wait s i
      | .done s none => applyChunk t g d rs a v dl n (i + 1) s
      | .done s (some e) => .done s e.code

/-- The linear step that a wire step names. -/
def wireStep (d w : Nat) : Nat := if w < 2 ^ 15 then w else cRs d + (w - 2 ^ 15)

/-- The descriptor that runs for a group and sequence number (R463). -/
def Rtr.collOf (r : Rtr) (g q : Nat) : Option (Nat × CollRun) :=
  r.coll.find? fun p => (!p.2.members.isEmpty || p.2.ended) && decide (p.2.desc ≠ 0) && decide (cGroup p.2.desc = g) && decide (cSeq p.2.desc = q)

/-- A chunk fits the descriptor and its ring (R461, R463). -/
def chunkFits (d : Nat) (m : FMsg) : Bool :=
  let k := wireStep d (m.field 24 2)
  let n := m.len - 48
  let off := m.field 28 4
  decide (k < cSteps d) && (decide (m.field 24 2 < 2 ^ 15) == decide (k < cRs d)) &&
    decide (m.field 26 2 = cSegOf d ((cRank d + cG d - 1) % cG d) k) && decide (off % 3968 = 0) && decide (n = min 3968 (cSeg d - off)) &&
    decide (0 < n) && decide (n % 128 = 0)

/-- A chunk arrives (R462, R463, R470): matched, checked, applied once, and acknowledged with its status. -/
def collDataOn (t : TowerId) (s : State) : Res :=
  match (s.tw t).takeInbox 0x20 with
  | none => .next s
  | some (m, x) =>
    let took := fun (s : State) => s.tookInbox t 0x20
    let ack := fun (s : State) (st : Nat) => (took s).modTw t fun x => x.post (x.msg 0x12 0 32 m.src 0 m.tag st)
    let g := m.field 16 4
    let q := m.field 20 4
    if x.rtr.collFailed.contains (g, q) then .next (took s)
    else match x.rtr.collOf g q with
    | none => .next (ack s 1)
    | some (e, c) =>
      let d := c.desc
      let k := wireStep d (m.field 24 2)
      let off := m.field 28 4
      let a := cBuf d + m.field 26 2 * cSeg d + off
      if c.ended then .next (took s)
      else if m.field 32 1 ≠ cFcl d then .next ((ack s 2).modTw t fun x => x.setColl e (c.fail 0x62))
      else if !chunkFits d m then .next (ack s 3)
      else if c.applied.contains (k, off) then .next (ack s 0)
      else match applyChunk t (m.agent t) d (decide (k < cRs d)) a (m.body >>> 256) m.due ((m.len - 48) / 128 - c.lines) c.lines s with
        | .wait s i => .next (s.modTw t fun x => x.setColl e { c with lines := i })
        | .done s 0 => .next ((ack s 0).modTw t fun x => x.setColl e { c with applied := c.applied ++ [(k, off)], lines := 0 })
        | .done s code => .next ((took s).modTw t fun x => x.setColl e (c.fail code))

/-- Changes the run that a sent chunk belongs to. -/
def Tower.modChunk (x : Tower) (tag : Nat) (f : CollRun → CollOut → CollRun) : Tower :=
  let g := fun (_ : Nat) (c : CollRun) => match c.out.find? fun o => decide (o.msg.tag = tag) with
    | some o => if c.ended then c else f c o
    | none => c
  x.modRtr fun r => { r with coll := smapv r.coll g }

def CollRun.modOut (c : CollRun) (tag : Nat) (f : CollOut → CollOut) : CollRun :=
  { c with out := c.out.map fun o => if o.msg.tag = tag then f o else o }

/-- A chunk's acknowledgement (R463, R464). -/
def collAckOn (t : TowerId) (s : State) : Res :=
  match (s.tw t).takeInbox 0x12 with
  | none => .next s
  | some (m, x) =>
    let st := m.field 16 1
    .next (s.setTw t (x.modChunk m.tag fun c _ => match st with
      | 0 => { c with out := c.out.filter fun o => decide (o.msg.tag ≠ m.tag) }
      | 1 => c.modOut m.tag fun o => { o with noMatch := true }
      | 2 => c.fail 0x62
      | _ => c.fail 0x64))

/-- Sends a chunk again, due DL after this send (R462, R463). -/
def Tower.resendChunk (x : Tower) (tag : Nat) (count : Bool) : Tower :=
  match (x.rtr.coll.findSome? fun p => (p.2.out.find? fun o => decide (o.msg.tag = tag)).map fun o => (p.2.desc, o)) with
  | some (d, o) =>
    let m := { o.msg with dl := (x.timeNs / 8 + cDl d) % 2 ^ 16 }
    (x.post m).modChunk tag fun c _ => c.modOut tag fun o =>
      { msg := m, sends := if count then o.sends + 1 else o.sends, noMatch := false }
  | none => x

/-- No COLL_ACK within E2E_US (R463, R464): sent again up to three times, then COLL_LOST. -/
def collResendTimeoutOn (t : TowerId) (tag : Nat) (s : State) : Res :=
  let x := s.tw t
  match x.rtr.coll.findSome? fun p => p.2.out.find? fun o => decide (o.msg.tag = tag) with
  | some o =>
    if o.noMatch then .next s
    else if 4 ≤ o.sends then .next (s.setTw t (x.modChunk tag fun c _ => c.fail 0x63))
    else .next (s.setTw t (x.resendChunk tag true))
  | none => .next s

/-- 1 µs after a status 0x01 the chunk is sent again (R463). -/
def collNoMatchResendOn (t : TowerId) (tag : Nat) (s : State) : Res :=
  let x := s.tw t
  match x.rtr.coll.findSome? fun p => p.2.out.find? fun o => decide (o.msg.tag = tag) with
  | some o => if o.noMatch then .next (s.setTw t (x.resendChunk tag false)) else .next s
  | none => .next s

/-- A collective ends (R464): its status word is formed and written to CPL_ADDR, and the host is told (R492). -/
def collCompleteOn (t : TowerId) (e : Fin 4) (s : State) : Res :=
  match sfind (s.tw t).rtr.coll e with
  | none => .next s
  | some c =>
    let d := c.desc
    let steps := ((List.range (cSteps d)).filter c.stepDone).length
    let all := decide (cSteps d ≤ c.step) || decide (cSeg d = 0)
    if !(c.ended || (!c.members.isEmpty && all && c.out.isEmpty && decide (steps = cSteps d))) then .next s
    else
      let w := 2 ^ 31 + c.result % 128 * 2 ^ 24 + min steps (2 ^ 24 - 1)
      let fin := fun (s : State) => s.modTw t fun x =>
        ((x.modRtr fun r => { r with
          coll := sdel r.coll e.val
          collFailed := if c.result ≠ 0 ∧ d ≠ 0 then r.collFailed ++ [(cGroup d, cSeq d)] else r.collFailed }).fset
            Fld.rtrCollStat_RESULT c.result).raise 13
      if cCplEn d && decide (d ≠ 0) && decide (cCpl d % 4 = 0) then
        match engWriteBytes s (collAgent t e) (cCpl d) 4 w with
        | .wait s => .next s
        | .done s _ => .next (fin s)
      else .next (fin s)

/-! The commands, with the stop of the clocks and the engine records. -/

/-- `COLL_ACK`, held while the tower's clocks are stopped (R600, R602). -/
def execCollAck (t : TowerId) (s : State) : Res :=
  gate t (collAckOn t) s

/-- `COLL_CHUNK_SEND`, held while the tower's clocks are stopped (R600, R602). -/
def execCollChunkSend (t : TowerId) (e : Fin 4) (s : State) : Res :=
  gate t (collChunkSendOn t e) s

/-- `COLL_COMPLETE`, held while the tower's clocks are stopped (R600, R602). -/
def execCollComplete (t : TowerId) (e : Fin 4) (s : State) : Res :=
  gate t (collCompleteOn t e) s

/-- `COLL_DESCRIPTOR_START`, held while the tower's clocks are stopped (R600, R602). -/
def execCollDescriptorStart (t : TowerId) (e : Fin 4) (s : State) : Res :=
  gate t (collDescriptorStartOn t e) s

/-- `COLL_NO_MATCH_RESEND`, held while the tower's clocks are stopped (R600, R602). -/
def execCollNoMatchResend (t : TowerId) (tag : Nat) (s : State) : Res :=
  gate t (collNoMatchResendOn t tag) s

/-- `COLL_RESEND_TIMEOUT`, held while the tower's clocks are stopped (R600, R602). -/
def execCollResendTimeout (t : TowerId) (tag : Nat) (s : State) : Res :=
  gate t (collResendTimeoutOn t tag) s

/-- `COLL_DATA`, held while the tower's clocks are stopped (R600, R602). -/
def execCollData (t : TowerId) (s : State) : Res :=
  gate t (collDataOn t) s

end Sys2Proof.Machine
end

