-- ==== Sys2Proof/Machine/Events.lean ====
section
/-! DEFINITION. Range markers and event packets 0xE0 to 0xE4 (R125, R676 to R683), and the driver's access to the event
FIFO (R684, R685). -/

namespace Sys2Proof.Machine

open Sys2Proof

/-- A counter of a record in its present value (R671), with the cycles that its engine's clock has counted: IDLE is every
counted cycle that was neither busy nor stalled (R669). -/
def Rec.counter (r : Rec) (cycles n : Nat) : Nat :=
  match n with
  | 0 => r.busy % 2 ^ 48
  | 1 => r.stall % 2 ^ 48
  | 2 => (cycles - r.busy - r.stall) % 2 ^ 48
  | 3 => r.rcntA % 2 ^ 48
  | 4 => r.rcntB % 2 ^ 48
  | 5 => r.x0 % 2 ^ 48
  | _ => r.rets * 2 ^ 32 + r.brs

/-- The cycles that a brick's counters have counted: none in retention, when its clock is stopped (R669). -/
def Tower.brickCycles (x : Tower) (slice : Nat) : Nat :=
  if x.fget Fld.pwrRegion_STATE (slice / 8) = 0 then x.counted - max x.cdBase (x.brick slice).recBase else 0

/-- The brick's record j. -/
def Brick.recd (b : Brick) (j : Nat) : Rec := sget Rec.init b.recs j

/-- Issues a marker or event instruction: it waits while another group's packet is open when it opens one, and faults with
EV_SEQ when the group's own packet is not as the instruction needs (R679). -/
def evIssue (op : Nat) (o : OpInfo) (opens : Bool) (f : Ctx → State → Group × EvFifo) (g : GroupRef) (w : IWord)
    (s : State) : Res :=
  match prepare op (fun _ => true) o g w s with
  | .no => .next s
  | .fault grp c l pc i => .next (raiseFault g grp c l pc i s)
  | .go x =>
    let gid := x.grp.gid
    if opens && x.br.evBusy gid then .next s
    else if opens = x.br.evMine gid then .next (raiseFault g x.grp 0x80 x.low x.pc (noAddr g.b gid) s)
    else
      let r := f { x with grp := x.memGroup [] x.grp.acq } s
      .next (s.setBrick g.b { (x.br.issued x false).setGroup (gkey g) r.1 with ev := r.2 })

/-- The entries of a marker packet (R682). -/
def markEntries (s : State) (x : Ctx) (id depth : Nat) (ovf undf : Bool) : List Word :=
  let t := s.tw x.ref.b.t
  let sel := t.reg .dbgMarkSel
  let cnt := (List.range 4).filterMap fun n =>
    let c := bits sel (8 * n + 7) (8 * n)
    if bits c 7 5 = 7 then none
    else some (BitVec.ofNat 64 (c * 2 ^ 56 + (x.br.recd (c % 8)).counter (t.brickCycles x.ref.b.s.val) (bits c 7 5) % 2 ^ 48))
  [BitVec.ofNat 64 t.timeNs,
   BitVec.ofNat 64 (id * 2 ^ 48 + depth * 2 ^ 44 + (if ovf then 2 ^ 43 else 0) + (if undf then 2 ^ 42 else 0))] ++ cnt

/-- `mark.push` (R682): a full stack of 15 sets OVF and pushes nothing. -/
def execMarkPush (g : GroupRef) (w : IWord) (s : State) : Res :=
  evIssue 0xE0 (infoMark true fun f => decide (f.imm24 < 2 ^ 16)) true (fun x s =>
    let ovf := decide (15 ≤ x.grp.marks.length)
    let marks := if ovf then x.grp.marks else x.f.imm24 :: x.grp.marks
    ({ x.grp with marks := marks },
      evPacket (pbid g.b) x.grp.gid 0xF0 (gkey g) (markEntries s x x.f.imm24 marks.length ovf false) x.br.ev)) g w s

/-- `mark.pop` (R682): an empty stack gives ID 0 with UNDF. -/
def execMarkPop (g : GroupRef) (w : IWord) (s : State) : Res :=
  evIssue 0xE1 (infoMark false fun _ => true) true (fun x s =>
    let marks := x.grp.marks.tail
    ({ x.grp with marks := marks },
      evPacket (pbid g.b) x.grp.gid 0xF1 (gkey g)
        (markEntries s x (x.grp.marks.headD 0) marks.length false x.grp.marks.isEmpty) x.br.ev)) g w s

/-- `ev.begin` (R677, R678): the types 0xF0 to 0xFF are illegal. -/
def execEvBegin (g : GroupRef) (w : IWord) (s : State) : Res :=
  evIssue 0xE2 (infoMark true fun f => decide (f.imm24 < 0xF0)) true (fun x _ =>
    (x.grp, evOpen (pbid g.b) x.grp.gid x.f.imm24 (gkey g) x.br.ev)) g w s

/-- `ev.put`: A of the lowest current lane, or the A pair (R677). -/
def execEvPut (g : GroupRef) (w : IWord) (s : State) : Res :=
  evIssue 0xE3 infoEvPut false (fun x _ =>
    let v : Word := if x.f.mod.testBit 0 then x.aPair x.low else (x.a x.low).setWidth 64
    (x.grp, evItem (pbid g.b) v false x.br.ev)) g w s

/-- `ev.end` (R678, R680). -/
def execEvEnd (g : GroupRef) (w : IWord) (s : State) : Res :=
  evIssue 0xE4 (infoMark false fun _ => true) false (fun x _ => (x.grp, evClose false x.br.ev)) g w s

/-- A read of `BRK_EV_DATA`: removes the entry at stage 0 when it is available and the trace writer is off (R684). -/
def execBrkEvDataRead (b : BrickRef) (s : State) : Res :=
  if (s.tw b.t).fget Fld.dbgTraceCtl_EN = 1 || !evAvail (s.brick b).ev then .next s
  else .next (s.modBrick b fun k => { k with ev := { k.ev with q := k.ev.q.tail } })

/-- A write of SKIP to `BRK_EV_CTL` (R685). -/
def execBrkEvSkip (b : BrickRef) (s : State) : Res :=
  .next (s.modBrick b fun k => { k with ev := evSkip k.ev })

end Sys2Proof.Machine
end

