-- ==== Sys2Proof/Machine/Service.lean ====
section
/-! DEFINITION. Service (R630 to R634, R638): lock-outs and their clearing, brick tests and HBM calibration during work, and the
calendar. -/

namespace Sys2Proof.Machine

open Sys2Proof

/-! Lock-outs. -/

/-- `FUS_SERVICE` takes a slice: its brick is enabled by the fuses or in use (R640). -/
def Tower.serviceable (x : Tower) (k : Nat) : Bool :=
  decide (k < 576) && (x.enabled.getLsbD k || x.sys.fuses.enabled.getLsbD k)

/-- `FUS_TEST_RES` reports a request that changed state (R641). -/
def Tower.testRes (x : Tower) (state kind index : Nat) : Tower :=
  ((x.fset Fld.fusTestRes_STATE state).fset Fld.fusTestRes_KIND kind).fset Fld.fusTestRes_INDEX index

def Tower.setTest (x : Tower) (k : Nat) (v : Option Nat) : Tower :=
  x.modSys fun y => { y with tests := match v with
    | some n => sset y.tests k n
    | none => sdel y.tests k }

/-- The value of a brick's tests: see `Sys`. -/
def Tower.test (x : Tower) (k : Nat) : Nat := sget 0 x.sys.tests k
def testRuns (n : Nat) : Bool := ([1, 3, 4, 5] : List Nat).contains n

/-- A write of `FUS_SERVICE` with ACTION lock out (R630, R634, R640): a test in progress is abandoned as failed. -/
def execFusServiceLockOut (t : TowerId) (who : RegBy) (slice : BitVec 10) (s : State) : Res :=
  let k := slice.toNat
  let x := s.tw t
  if who ≠ .mgmt then .next s
  else if !x.serviceable k then .next (s.modTw t fun x => x.fset Fld.fusService_RESULT 2)
  else
    let ran := testRuns (x.test k)
    .next ((lockOut t k 8 s).modTw t fun x =>
      let x := if ran then (x.setTest k none).testRes 3 1 k else x
      x.fset Fld.fusService_RESULT 1)

/-- A write of `FUS_SERVICE` with ACTION clear (R631, R640): in the store at once, when a write can begin, and in effect at the next warm or cold reset; with the
last locked-out brick of a region its trips are cleared. -/
def execFusServiceClear (t : TowerId) (who : RegBy) (slice : BitVec 10) (s : State) : Res :=
  let k := slice.toNat
  let x := s.tw t
  if who ≠ .mgmt then .next s
  else if 576 ≤ k ∨ (sfind x.lock k).isNone then .next (s.modTw t fun x => x.fset Fld.fusService_RESULT 2)
  else .next (s.modTw t fun x =>
    let x := x.modSys fun y => { y with cleared := if y.cleared.contains k then y.cleared else y.cleared ++ [k] }
    let last := (regionSlices (k / 8)).all fun j => (sfind x.lock j).isNone || x.sys.cleared.contains j
    let x := if last && decide (x.fget Fld.pwrRegion_LOCKED (k / 8) = 1) then x.modRegion (k / 8) fun g => { g with trips := [] } else x
    let x := if s.storeTakes t then (x.putRecord 1 (x.latest 1) 0 false).1 else x.markDue 1
    x.fset Fld.fusService_RESULT 1)

/-! Tests and calibration. -/

/-- A brick is idle for a test (R633): free, in retention or locked out, and in no test. -/
def Tower.testIdle (x : Tower) (k : Nat) : Bool :=
  !testRuns (x.test k) && ((sfind x.lock k).isSome || ((x.holder k).isNone && (x.brick k).idle))

/-- A test starts, or waits for its region to wake (R633): 1 or 3. -/
def Tower.testStart (x : Tower) (k : Nat) : Nat :=
  if x.rst (k / 8) = 1 ∨ x.rst (k / 8) = 2 ∨ x.rst (k / 8) = 3 then 3 else 1

/-- A request of a brick test (R632, R633, R641): started, deferred or refused. -/
def execFusTestBrick (t : TowerId) (slice : BitVec 10) (defer : Bool) (s : State) : Res :=
  let k := slice.toNat
  .next (s.modTw t fun x =>
    if 576 ≤ k ∨ x.enabled.getLsbD k = false then x.testRes 6 1 k
    else if !x.ready then x.testRes 5 1 k
    else if x.testIdle k && decide (x.test k = 0) then (x.setTest k (some (x.testStart k))).testRes 1 1 k
    else if defer && decide (x.test k = 0) then (x.setTest k (some 2)).testRes 4 1 k
    else if defer && decide (x.test k = 1 ∨ x.test k = 3) then (x.setTest k (some (if x.test k = 1 then 4 else 5))).testRes 4 1 k
    else x.testRes 5 1 k)

/-- A request of an HBM PHY calibration (R632, R641): never busy. -/
def execFusTestHbmCalibration (t : TowerId) (stack : BitVec 10) (s : State) : Res :=
  let k := stack.toNat
  .next (s.modTw t fun x =>
    if x.stackN ≤ k then x.testRes 6 2 k
    else (x.modSys fun y => { y with cals := if y.cals.contains k then y.cals else y.cals ++ [k] }).testRes 1 2 k)

/-- A deferred test starts when its brick becomes free (R633). -/
def execDeferredTestStart (b : BrickRef) (s : State) : Res :=
  let k := b.s.val
  let x := s.tw b.t
  if x.test k = 2 ∧ x.testIdle k then .next (s.modTw b.t fun x => (x.setTest k (some (x.testStart k))).testRes 1 1 k) else .next s

/-- A brick test ends (R632, R634): the brick's private stores are filled; a live brick that fails is locked out; column groups found bad
leave service at the next compute-domain reset. -/
def execBrickTestComplete (b : BrickRef) (pass : Bool) (groups : BitVec 8) (s : State) : Res :=
  let k := b.s.val
  let t := b.t
  let n := (s.tw t).test k
  if n ≠ 1 ∧ n ≠ 4 then .next s
  else
    let live := (s.tw t).sliceLive k
    let s := s.modTw t fun x =>
      let x := (x.setTest k (if n = 4 then some 2 else none)).modBrick k Brick.wiped
      let x := x.testRes (if pass then 2 else 3) 1 k
      if groups = 0 then x else x.modSys fun y => { y with badGroups := sset y.badGroups k (sget 0 y.badGroups k ||| groups.toNat) }
    if !pass && live then .next (lockOut t k 9 s) else .next s

/-- An HBM PHY calibration completes (R632). -/
def execHbmCalibrationComplete (t : TowerId) (stack : Fin 6) (s : State) : Res :=
  if (s.tw t).sys.cals.contains stack.val then
    .next (s.modTw t fun x => (x.modSys fun y => { y with cals := y.cals.filter fun k => decide (k ≠ stack.val) }).testRes 2 2 stack.val)
  else .next s

/-! Calendar. -/

/-- A write of `FUS_TIME` (R638). -/
def execFusTimeWrite (t : TowerId) (who : RegBy) (v : Word) (s : State) : Res :=
  if who = .mgmt then .next (s.modTw t fun x => x.setReg .fusTime 0 0 v.toNat) else .next s

/-- A second of device time (R638): a time that is known advances. -/
def execFusTimeTick (t : TowerId) (s : State) : Res :=
  if (s.tw t).mgmtAlive && decide ((s.tw t).reg .fusTime ≠ 0) then
    .next (s.modTw t fun x => x.setReg .fusTime 0 0 ((x.reg .fusTime + 1) % 2 ^ 64))
  else .next s

end Sys2Proof.Machine
end

