-- ==== Sys2Proof/Machine/Mgmt.lean ====
section
/-! DEFINITION. Management (R644 to R659, R699): the role and heartbeat of the controllers, MCTP, PLDM and SPDM as far as they act on the
module, firmware update and trial, protection settings, and the leak pin. -/

namespace Sys2Proof.Machine

open Sys2Proof

/-! The host-facing role. -/

def Tower.hostFacing (x : Tower) : Bool := decide (x.fget Fld.mgtStat_HOST_FACING = 1)

/-- A heartbeat of tower `t`'s controller arrives at the other over the sideband (R645). -/
def execHeartbeat (t : TowerId) (s : State) : Res :=
  if (s.tw t).sys.mgmt.up && (s.tw t.other).sys.mgmt.up then
    .next (s.modTw t.other fun x => x.modMgmt fun m => { m with hbAt := some x.timeNs })
  else .next s

/-- The peer's heartbeat has arrived within 100 ms (R645, R665). -/
def Tower.peerOk (x : Tower) : Bool := match x.sys.mgmt.hbAt with
  | some a => decide (x.timeNs - a ≤ 100 * 10 ^ 6)
  | none => false

/-- Tower 1's controller claims the role (R645): no heartbeat for 100 ms outside an announced restart, or the loss of tower 0's VBASE.
It notifies the host and signals vector 47. -/
def execHeartbeatLossTakeover (s : State) : Res :=
  let y := s.t1
  let gone := !s.t0.mgmtAlive || (!y.peerOk && decide (y.sys.mgmt.quiet ≤ y.timeNs))
  if !y.sys.mgmt.up || y.hostFacing || !gone then .next s
  else .next (((s.modTw .t0 fun x => x.fset Fld.mgtStat_HOST_FACING 0).modTw .t1 fun x =>
    (x.fset Fld.mgtStat_HOST_FACING 1).raise 15).send (.mctp .t1 .vdm 0 (Config.mctpReply 0 0x0D)))

/-! MCTP. -/

/-- A command that R657 restricts is accepted: over I3C, or within a secured session of its transport. -/
def Mgmt.secured (m : Mgmt) (tr : Transport) : Bool := decide (tr = .i3c) || m.sessions.contains tr

/-- A packet's destination endpoint, message type and tag-owner bit (DSP0236). -/
def mctpDst (pkt : Nat) : Nat := numAt pkt 1 1
def mctpType (pkt : Nat) : Nat := numAt pkt 4 1 % 128
def mctpOwner (pkt : Nat) : Bool := (numAt pkt 3 1).testBit 3

/-- A controller handles a packet for it (R646, R649, R657): types it does not accept are discarded; Set Endpoint ID is carried out; a
tower configuration that a vendor-defined or secured message carries awaits the store; requests are answered. The ROM alone answers
control messages only (R615). -/
def mctpHandle (t : TowerId) (tr : Transport) (pkt : Nat) (cfg : Option TowerCfg) (s : State) : State :=
  let typ := mctpType pkt
  let m := (s.tw t).sys.mgmt
  let known := ([0, 1, 5, 6, 0x7E] : List Nat).contains typ && (decide (typ ≠ 0x7E) || decide (numAt pkt 5 1 * 256 + numAt pkt 6 1 = 0x1D5A))
  if !known || !(m.up || decide (typ = 0)) then s
  else
    let s := if typ = 0 ∧ mctpOwner pkt ∧ numAt pkt 6 1 = 1 ∧ numAt pkt 7 1 % 4 ≤ 1 then
        s.modTw t fun x => x.modMgmt fun m => { m with eid := numAt pkt 8 1 }
      else s
    let s := match cfg with
      | some c =>
        if (typ = 0x7E ∧ tr = .i3c) ∨ (typ = 6 ∧ m.secured tr) then
          s.modTw t fun x => (x.modMgmt fun m => { m with newCfg := some c }).markDue 6
        else s
      | none => s
    if mctpOwner pkt then s.send (.mctp t tr typ (Config.mctpReply typ pkt)) else s

/-- A packet reaches tower `t`'s controller (R645, R646, R648): over PCIe VDM only while it is host-facing; a packet for the other
tower's endpoint is bridged by the host-facing controller while the hinge is active. -/
def mctpTake (t : TowerId) (tr : Transport) (pkt : Nat) (cfg : Option TowerCfg) (s : State) : State :=
  let x := s.tw t
  let y := s.tw t.other
  if !x.mgmtAlive || (decide (tr = .vdm) && !x.hostFacing) then s
  else
    let d := mctpDst pkt
    if d = 0 ∨ d = x.sys.mgmt.eid then mctpHandle t tr pkt cfg s
    else if d = y.sys.mgmt.eid ∧ x.hostFacing ∧ x.serving ∧ y.serving then mctpHandle t.other tr pkt cfg s
    else s

/-- An MCTP packet over I3C or PCIe VDM (R646). `cfg` is the tower configuration that it carries, if any. -/
def execMctpPacket (t : TowerId) (tr : Transport) (len pkt : Nat) (cfg : Option TowerCfg) (s : State) : Res :=
  if !bytesWf len pkt then .fault .illFormed else if len < 5 then .next s else .next (mctpTake t tr pkt cfg s)

/-- Takes a link message that carries a packet (R647): one with a bad length or reserved bytes is discarded and counted. -/
def mctpLink (t : TowerId) (typ : Nat) (cfg : Option TowerCfg) (s : State) : State :=
  match (s.tw t).takeInbox typ with
  | none => s
  | some (m, x) =>
    let p := m.field 16 2
    if p < 5 ∨ 260 < p ∨ m.field 18 14 ≠ 0 then s.setTw t (x.fadd Fld.mgtStat_BAD_PKT 1)
    else mctpTake t .link (m.field 32 p) cfg (s.setTw t x)

/-- A request packet over a link (R647). -/
def execMgmtReq (t : TowerId) (cfg : Option TowerCfg) (s : State) : Res := .next (mctpLink t 0x31 cfg s)

/-- A response packet over a link (R647). -/
def execMgmtRsp (t : TowerId) (s : State) : Res := .next (mctpLink t 0x32 none s)

/-! Firmware. -/

/-- The message type of a restricted command on a transport: in the clear over I3C, else secured. -/
def plainType (tr : Transport) (typ : Nat) : Nat := if tr = .i3c then typ else 6

def Tower.setBank (x : Tower) (bank : Nat) (img : Option (Nat × Nat)) : Tower :=
  x.modStore fun s => if bank = 0 then { s with imgA := img } else { s with imgB := img }

/-- A PLDM firmware update (R653, R657): a transfer into the inactive bank begins, or its whole image has been written and verified
there. -/
def execPldmFirmwareUpdate (t : TowerId) (tr : Transport) (img : Option (Nat × Nat)) (s : State) : Res :=
  let x := s.tw t
  if img.any fun m => !bytesWf m.1 m.2 then .fault .illFormed
  else if !x.sys.mgmt.up || !x.sys.mgmt.secured tr then .next s
  else
    let bank := 1 - x.fget Fld.mgtStat_ACTIVE_BANK
    let x := (x.setBank bank img).modMgmt fun m => { m with updating := img.isNone }
    let ok := img.isNone || x.bankValid bank
    .next ((s.setTw t x).send (.mctp t tr (plainType tr 1) (if ok then 0 else 1)))

/-- PLDM ActivateFirmware (R645, R653): refused with NOT_READY during a write or a trial; else the restart is announced and the ROM is
to boot the inactive bank on trial. -/
def execPldmActivateFirmware (t : TowerId) (tr : Transport) (s : State) : Res :=
  let x := s.tw t
  if !x.sys.mgmt.up || !x.sys.mgmt.secured tr then .next s
  else if x.sys.mgmt.updating ∨ x.fget Fld.mgtStat_TRIAL = 1 then .next (s.send (.mctp t tr (plainType tr 1) 4))
  else
    let bank := 1 - x.fget Fld.mgtStat_ACTIVE_BANK
    let x := ((x.fset Fld.mgtStat_ACTIVE_BANK bank).fset Fld.mgtStat_TRIAL 1).markDue 8
    let x := x.modMgmt fun m => { m with up := false, sessions := [], trialAt := x.timeNs, restarts := 0 }
    let s := (s.setTw t x).modTw t.other fun y => y.modMgmt fun m => { m with quiet := y.timeNs + 2 * 10 ^ 9 }
    .next (s.send (.mctp t tr (plainType tr 1) 0))

/-- The SVN of a bank's image (R650). -/
def Tower.svn (x : Tower) (bank : Nat) : Nat := numAt (((x.sys.store.image bank).map Prod.snd).getD 0) 6 1

/-- A trial of 600 s ends without a fallback (R654): the anti-rollback counter rises to the lower SVN of the two banks. -/
def execTrialEnd (t : TowerId) (s : State) : Res :=
  let x := s.tw t
  if !x.sys.mgmt.up ∨ x.fget Fld.mgtStat_TRIAL ≠ 1 then .next s
  else .next (s.modTw t fun x =>
    let a := x.fget Fld.mgtStat_ACTIVE_BANK
    let low := if x.bankValid (1 - a) then min (x.svn a) (x.svn (1 - a)) else x.svn a
    let n := max x.sys.fuses.arb low
    let x := (x.modSys fun y => { y with fuses := { y.fuses with arb := n } }).modMgmt fun m => { m with restarts := 0 }
    ((x.fset Fld.mgtStat_ARB_COUNT n).fset Fld.mgtStat_TRIAL 0).markDue 8)

/-! Attestation. -/

/-- A measurement block (R656). The active configuration record is the one that the last bring-up loaded (R620). -/
def Tower.measure (x : Tower) (index : Nat) : Nat :=
  let a := x.fget Fld.mgtStat_ACTIVE_BANK
  let f := x.sys.fuses
  match index with
  | 2 => match x.sys.store.image a with
    | some i => beNat (sha256 (bytesAt i.2 0 (1024 + numAt i.2 8 4)))
    | none => 0
  | 3 => if x.bankValid (1 - a) then beNat (sha256 (bytesAt (((x.sys.store.image (1 - a)).map Prod.snd).getD 0) 0 1024)) else 0
  | 4 => (Config.measured 4 (f.keyHash ++ [f.revoked, f.arb])).toNat
  | 5 =>
    let seq := fun (k : Nat) => match x.sys.store.read (0x20 + k) with
      | some (.key img) => numAt img 0x10 4
      | _ => 0
    (Config.measured 5 [bits (x.reg .licStat) 63 61, seq 1, seq 2, seq 3]).toNat
  | 6 => match x.sys.cfg with
    | some c => (Config.measured 6 ([c.pinned, c.policy] ++ (match c.router with
      | some (a, b, d) => a :: (b ++ d)
      | none => []))).toNat
    | none => (Config.measured 6 []).toNat
  | _ => (Config.measured index []).toNat

/-- CXL IDE key management of the host (R491, R657): over the DOE mailbox of the host port, within the secured session of the host-facing
controller. IDE is enabled with keys that have been set (log entry 65). -/
def ideManage (t : TowerId) (tr : Transport) (f : HostPort → HostPort) (s : State) : State :=
  if s.host.up && decide (tr = .vdm) && (s.tw t).sys.mgmt.sessions.contains tr then
    { s with host := f s.host }.send (.mctp t tr 6 (Config.mctpReply 5 0))
  else s

/-- An SPDM request is answered (R655 to R657): a session of the transport opens or ends, a measurement is reported, IDE keys are set. -/
def execSpdmRequest (t : TowerId) (tr : Transport) (req : SpdmReq) (s : State) : Res :=
  let x := s.tw t
  if !x.sys.mgmt.up || (decide (tr = .vdm) && !x.hostFacing) then .next s
  else
    let typ := if x.sys.mgmt.sessions.contains tr then 6 else 5
    match req with
    | .sessionOpen =>
      .next ((s.setTw t (x.modMgmt fun m => { m with sessions := if m.sessions.contains tr then m.sessions else m.sessions ++ [tr] })).send
        (.mctp t tr 5 (Config.mctpReply 5 0)))
    | .sessionEnd =>
      .next ((s.setTw t (x.modMgmt fun m => { m with sessions := m.sessions.filter fun u => decide (u ≠ tr) })).send
        (.mctp t tr typ (Config.mctpReply 5 1)))
    | .ideKeys k => .next (ideManage t tr (fun h => { h with ideKeys := some k }) s)
    | .ideEnable on => .next (ideManage t tr (fun h => { h with ideOn := on && h.ideKeys.isSome }) s)
    | .measurement i => .next (s.send (.mctp t tr typ (x.measure i.toNat)))
    | .other b => .next (s.send (.mctp t tr typ (Config.mctpReply 5 b)))

/-! Protection settings and the leak pin. -/

/-- The registers of the protection settings (R658). -/
def Reg.isProtection : Reg → Bool
  | .mgtProtCfg | .mgtHwin | .mgtKwinBase | .mgtKwinLimit | .rtrAdmitBase | .rtrAdmitLimit => true
  | _ => false

/-- A write of a protection setting (R644, R658): from the management controller alone, in force for every check from then on. -/
def execProtectionSettingWrite (t : TowerId) (who : RegBy) (off : Nat) (v : Word) (s : State) : Res :=
  match regAt off with
  | some (r, i, j) =>
    if who = .mgmt ∧ r.isProtection then .next (s.modTw t fun x => x.writeRw r i j v.toNat (2 ^ 64 - 1)) else .next s
  | none => .next s

/-- Fluid bridges the sense trace: `LEAK_n` is low (R699). -/
def execLeakDetect (s : State) : Res := .next { s with pins := { s.pins with leak := true } }

/-- The fluid is gone: `LEAK_n` is released (R699). -/
def execLeakClear (s : State) : Res := .next { s with pins := { s.pins with leak := false } }

/-- The levels of the output pins (R699): `T0_READY`, `T1_READY`, `THERM_TRIP_n`, `LEAK_n`. -/
def State.pinLevels (s : State) : Bool × Bool × Bool × Bool :=
  (s.t0.ready, s.t1.ready, !(decide (s.t0.fget Fld.thmStat_SHUT = 1) || decide (s.t1.fget Fld.thmStat_SHUT = 1)), !s.pins.leak)

end Sys2Proof.Machine
end

