-- ==== Sys2Proof/Machine/Counters.lean ====
section
/-! DEFINITION. Cycle accounting (R669 to R675): the work and the stall reasons of the engines, a cycle of their clocks, and
`DBG_CTL`. A scheduler's reason names what its first group waits for; a base-die engine whose accesses the model makes whole
within a command has no cause but those given here, and takes OTHER (log entry 41). -/

namespace Sys2Proof.Machine

open Sys2Proof

/-- The first resident group of a scheduler in its rotating order (R43). -/
def Brick.firstGroup (b : Brick) (sched : Nat) : Option Group :=
  let last := (sget Sched.init b.scheds sched).last
  (List.range 16).findSome? fun i => sfind b.groups (sched * 16 + (last + 1 + i) % 16)

/-- The lowest reason code that applies to a group that does not issue (R673, R674). -/
def groupReason (x : Tower) (slice : Nat) (b : Brick) (sched : Nat) (g : Group) : Nat :=
  match lowLane g.merged, b.run with
  | none, _ => 0x07
  | some _, none => 0x3F
  | some l, some run =>
    let pc := (g.thread l).pc.toNat
    if (g.fetchLine b run.codeSize).isSome then 0x01
    else match b.fetch pc with
    | none => 0x3F
    | some w =>
      let f := fieldsOf w ((b.fetch (pc + 8)).getD 0)
      let o := infoOf f
      let mem := decide (0xA0 ≤ f.op) && decide (f.op ≤ 0xB3)
      let mx := decide (0xC0 ≤ f.op) && decide (f.op ≤ 0xC5) || decide (f.op = 0xD0)
      let rt := (sget RtUnit.init x.routes (slice / 24)).q.length
      if g.busy o f then 0x02
      else if o.cls = .s && (sget Sched.init b.scheds sched).sfu then 0x03
      else if mem && (sfind b.l1in sched).isSome then 0x04
      else if mx && decide (16 ≤ b.mx.queue.length) then 0x05
      else if (decide (f.op = 0xD1) && decide (16 ≤ rt)) || (decide (f.op = 0xD2) && decide (32 ≤ x.nbu.cmds.length)) then 0x06
      else if g.gap || g.sleep.isSome then 0x08
      else if [0xE0, 0xE1, 0xE2].contains f.op && b.evBusy g.gid then 0x09
      else 0x3F

/-- The work of engine j of a brick, if any is present, as the reason code of its stall (R670, R673, R674). -/
def brickWork (x : Tower) (slice : Nat) (b : Brick) (j : Nat) : Option Nat :=
  let held := fun (c : Nat) => if x.withheld slice then 0x0A else c
  if j < 4 then (b.firstGroup j).map fun g => held (groupReason x slice b j g)
  else if j = 4 then
    if !b.mx.queue.isEmpty || b.tp.run.isSome then
      some (held (if b.mx.queue.isEmpty then 0x3F
        else if b.mx.queue.any fun e => decide (e.st = .running) then 0x3F
        else if b.mx.queue.any fun e => e.kind.isLoad || e.kind.isStream then 0x10 else 0x3F))
    else if b.mx.batches.isEmpty then none else some 0x14
  else if j = 5 then b.tp.run.map fun r => held <| if r.desc.isNone || r.cur.isNone then 0x13 else if r.staged.isEmpty then 0x10 else 0x3F
  else if j = 6 then
    if !b.downQ.isEmpty || !b.writeQ.isEmpty || !b.upQ.isEmpty then some 0x3F
    else if b.outst.any fun o => o.own then some 0x1A else none
  else if !b.l1in.isEmpty then
    some (if 64 ≤ b.mregs.length then 0x04 else if 64 ≤ b.downQ.length then 0x18 else 0x3F)
  else if b.mregs.isEmpty then none else some 0x20

/-- One counted cycle of an engine (R669, R671, R673): busy when it has advanced, stalled with a reason when it has work, else idle. -/
def Rec.cycle (work : Option Nat) (r : Rec) : Rec :=
  if r.adv then { r with busy := r.busy + 1, adv := false }
  else match work with
    | none => r
    | some c =>
      { r with
        stall := r.stall + 1, last := c
        rcntA := if r.selA = c then r.rcntA + 1 else r.rcntA
        rcntB := if r.selB = c then r.rcntB + 1 else r.rcntB }

/-- A cycle of a brick's clock: X0 of a scheduler sums its resident groups (R671). -/
def Brick.countCycle (x : Tower) (slice : Nat) (b : Brick) : Brick :=
  (List.range 8).foldl (fun (k : Brick) j =>
    let n := if j < 4 then (b.groups.filter fun (p : Nat × Group) => decide (p.1 / 16 = j)).length else 0
    let w := brickWork x slice b j
    if w.isNone && decide (n = 0) && !(k.recd j).adv then k
    else { k with recs := smod Rec.init k.recs j fun r => { Rec.cycle w r with x0 := r.x0 + n } }) b

/-- Clocks of the base-die engines (R670). -/
def engFlit (e : Nat) : Bool := decide (704 ≤ e) && decide (e < 712)

/-- Cycles of an engine's clock among `n` ARITH cycles of the tower, `fwd` of them in forwarded mode (R35, R585): MEM by the mode,
FLIT 1,375 to 1,536. -/
def engCycles (e n fwd : Nat) : Nat := if engFlit e then n * 1375 / 1536 else memCycles n fwd

/-- A base-die engine exists (R670): its slice, mover, channel, port. -/
def Tower.engPresent (x : Tower) (e : Nat) : Bool :=
  if e < 24 then true
  else if e < 600 then x.enabled.getLsbD (e - 24)
  else if e < 608 then true
  else if e < 704 then decide ((e - 608) / 16 < x.stackN)
  else if e < 712 then decide (e - 704 < x.fget Fld.glbTower_PORTS)
  else decide (e < 714)

/-- A remote answer is awaited by a requester (R674). -/
def Rtr.awaits (r : Rtr) (p : RemSrc → Bool) : Bool := r.rem.any fun q => p q.src

/-- The work of a base-die engine, if any is present, as the reason code of its stall (R670, R673, R674). -/
def engWork (x peer : Tower) (e : Nat) : Option Nat :=
  if e < 24 then
    let u := sget RtUnit.init x.routes e
    if u.q.isEmpty && u.run.isNone then none
    else some (if x.rtr.awaits fun q => match q with
      | .route c _ _ => decide (c = e)
      | _ => false then 0x23 else 0x3F)
  else if e < 600 then
    match x.chain.findIdx? fun s => decide (s = e - 24) with
    | none => none
    | some c => if (x.nbu.queueOf c).isEmpty then none else some (if x.nbuWithheld (e - 24) then 0x0A else 0x3F)
  else if e < 608 then
    match (x.dm.cmds.filter DmCmd.started)[e - 600]? with
    | none => none
    | some k => some (if x.rtr.awaits fun q => match q with
      | .dm n _ => decide (n = k.seq)
      | _ => false then 0x23 else 0x3F)
  else if e < 704 then if (sget Chan.init x.mem.chans (e - 608)).q.isEmpty then none else some 0x28
  else if e < 712 then
    let p := x.port (e - 704)
    if p.replayAt.isSome then some 0x31
    else if p.tx.any fun v => !v.2.q.isEmpty || decide (v.2.restLen ≠ 0) then
      some (if p.tx.all fun v => decide (v.2.credits = 0) || (v.2.q.isEmpty && decide (v.2.restLen = 0)) then 0x30
        else if 1024 ≤ p.replay.length then 0x31 else if x.carries (e - 704) then 0x3F else 0x32)
    else none
  else if e = 712 then
    if x.rtr.own.isEmpty && x.rtr.again.isEmpty && x.rtr.hinge.isEmpty && x.ports.all fun p => p.2.rx.all fun v => v.2.msgs.isEmpty
    then none else some 0x33
  else if e = 713 then
    if x.rtr.hinge.isEmpty && peer.rtr.hinge.isEmpty && x.mem.visIn.isEmpty && peer.mem.visIn.isEmpty then none else some 0x24
  else none

/-- `k` cycles of an engine's clock, in the first of which it is busy if it has advanced. -/
def Rec.cycles (work : Option Nat) : Nat → Rec → Rec
  | 0, r => r
  | k + 1, r => Rec.cycles work k (r.cycle work)

/-- Every counter of a tower over one ARITH cycle (R669, R670). Engines that have neither advanced nor work are idle and need no
update. -/
def Tower.countTick (x peer : Tower) : Tower :=
  if !x.mgmtAlive || x.gstopped || decide (x.fget Fld.dbgCtl_FREEZE = 1) then x
  else
    let n := x.counted
    let fwd := x.fwdCounted + x.forwarded
    let bs : SMap Brick := x.bricks.map fun (p : Nat × Brick) =>
      if x.fget Fld.pwrRegion_STATE (p.1 / 8) = 0 ∧ p.2.phase = .up then (p.1, p.2.countCycle x p.1) else p
    let eng := (List.range 714).foldl (fun (m : SMap Rec) e =>
      let w := if x.engPresent e then engWork x peer e else none
      let k := engCycles e (n + 1) fwd - engCycles e n x.fwdCounted
      if w.isNone && !(sget Rec.init m e).adv then m else smod Rec.init m e (Rec.cycles w k)) x.eng
    { x with bricks := bs, eng := eng, counted := n + 1, fwdCounted := fwd }

/-- Every counter reads zero; the selectors stay (R675). -/
def Rec.cleared (r : Rec) : Rec := { Rec.init with selA := r.selA, selB := r.selB }

/-- CLEAR of `DBG_CTL` (R675). -/
def Tower.clearCounters (x : Tower) : Tower :=
  { x with
    counted := 0, fwdCounted := 0, cdBase := 0
    eng := x.eng.map fun (p : Nat × Rec) => (p.1, p.2.cleared)
    bricks := x.bricks.map fun (p : Nat × Brick) =>
      (p.1, { p.2 with recBase := 0, recs := p.2.recs.map fun (q : Nat × Rec) => (q.1, q.2.cleared) }) }

/-- A write of FREEZE (R675): no counter of the tower counts, or counting goes on. -/
def execDbgCtlFreeze (t : TowerId) (on : Bool) (s : State) : Res :=
  .next (s.modTw t fun x => x.fset Fld.dbgCtl_FREEZE (if on then 1 else 0))

/-- A write of CLEAR (R675). -/
def execDbgCtlClear (t : TowerId) (s : State) : Res := .next (s.modTw t Tower.clearCounters)

/-- A base-die engine's counter n in its present value (R671); an absent engine's record reads zero. -/
def Tower.engCounter (x : Tower) (e n : Nat) : Nat :=
  if x.engPresent e then (sget Rec.init x.eng e).counter (engCycles e x.counted x.fwdCounted) n else 0

/-- A brick record's counter n in its present value; a fused-off brick's record reads zero (R670). -/
def Tower.brickCounter (x : Tower) (slice j n : Nat) : Nat :=
  if x.enabled.getLsbD slice then ((x.brick slice).recd j).counter (x.brickCycles slice) n else 0

end Sys2Proof.Machine
end

