-- ==== Sys2Proof/Machine/Debug.lean ====
section
/-! DEFINITION. Debugging: `brkpt` 0x09 and its release (R115, R690), the global stop (R600 to R604, R611, R612), and the reading of
recorded items and of group state (R691). -/

namespace Sys2Proof.Machine

open Sys2Proof

/-! Global stop. -/

/-- A reset of some domain of the tower is in progress (R604). -/
def Tower.resetting (x : Tower) : Bool :=
  !x.ready || x.bricks.any fun (p : Nat × Brick) => decide (p.2.phase ≠ .up)

/-- A stop begins (R600): the cut follows at cycle S. During a reset it is ignored (R604). -/
def Tower.stopAsk (x : Tower) : Tower :=
  if x.resetting || decide (x.fget Fld.rstGstop_STATE ≠ 0) then x else x.fset Fld.rstGstop_STATE 1

/-- A stop of a tower, and of the other with BOTH (R600, R603). -/
def globalStop (t : TowerId) (s : State) : State :=
  let both := decide ((s.tw t).fget Fld.rstGstop_BOTH = 1)
  let s := s.modTw t Tower.stopAsk
  if both then s.modTw t.other Tower.stopAsk else s

/-- Every stopped clock restarts (R604). -/
def Tower.resume (x : Tower) : Tower := if x.gstopped then x.fset Fld.rstGstop_STATE 0 else x

/-- A write of `RST_GSTOP` (R600, R603, R604, R611): BOTH and ON_BRKPT are stored, then STOP and RESUME act. -/
def gstopWrite (t : TowerId) (v : Nat) (s : State) : State :=
  let s := s.modTw t fun x => (x.fset Fld.rstGstop_BOTH (bits v 61 61)).fset Fld.rstGstop_ON_BRKPT (bits v 60 60)
  let s := if v.testBit 63 then globalStop t s else s
  if v.testBit 62 && (s.tw t).gstopped then
    let s := s.modTw t Tower.resume
    if v.testBit 61 then s.modTw t.other Tower.resume else s
  else s

/-- A write of `RST_GSTOP` with STOP (R600). -/
def execGlobalStop (t : TowerId) (v : Word) (s : State) : Res := .next (gstopWrite t (v.toNat ||| 2 ^ 63) s)

/-- A write of `RST_GSTOP` with RESUME (R604). -/
def execGlobalResume (t : TowerId) (v : Word) (s : State) : Res := .next (gstopWrite t (v.toNat ||| 2 ^ 62) s)

/-- The items of a returning line: its sectors and check words. -/
def UpMsg.item (u : UpMsg) : StopItem :=
  let pack := fun (w : Nat) (f : Ret → Nat) => u.rets.zipIdx.foldl (fun (a : Nat) (p : Ret × Nat) => a + f p.1 <<< (w * p.2)) 0
  ⟨32 * u.rets.length, ((u.rets.head?.map Ret.sector).getD 0) * 32, pack 256 fun r => r.data.toNat, pack 32 fun r => r.chk.toNat⟩

/-- A read request carries no bytes; a write carries its line. -/
def RdMsg.item (r : RdMsg) : StopItem := ⟨0, r.line * 128 + 32 * r.sectors.headD 0, 0, 0⟩
def WrMsg.item (w : WrMsg) : StopItem := ⟨popN 128 w.mask.toNat, w.line * 128, w.data.toNat, 0⟩
def AtomMsg.item (a : AtomMsg) : StopItem := ⟨a.bytes, a.addr, (a.lanes.head?.map LaneAcc.data).getD 0, 0⟩
def FMsg.item (m : FMsg) : StopItem := ⟨m.len, 0, m.bytes, 0⟩
def VisMsg.item : VisMsg → StopItem
  | .inv l => ⟨0, l * 128, 0, 0⟩
  | .ack l => ⟨0, l * 128, 0, 0⟩

/-- Items of a link port: its replay buffer, then the messages of its virtual-channel buffers (R601). -/
def Port.items (p : Port) : List StopItem :=
  p.replay.map (fun e => (⟨240, 0, e.payload, 0⟩ : StopItem)) ++ p.rx.flatMap fun (v : Nat × VcRx) => v.2.msgs.map fun m => m.1.item

/-- What lies in each crossing (R601, R612). -/
def stopItems (x peer : Tower) : SMap (List StopItem) :=
  let of := fun (f : Brick → List StopItem) => x.bricks.flatMap fun (p : Nat × Brick) => f p.2
  let ups := fun (port : Bool) => of fun b => (b.upQ.filter fun u => decide (u.port = port)).map UpMsg.item
  let hinge := fun (y : Tower) => y.rtr.hinge.map FMsg.item ++ y.mem.visIn.map VisMsg.item
  [(0, of fun b => b.downQ.map RdMsg.item), (1, of fun b => b.writeQ.map WrMsg.item), (2, ups true),
   (3, of fun b => b.mortarRd.map RdMsg.item ++ b.mortarWr.map WrMsg.item ++ b.atomQ.map AtomMsg.item), (4, ups false),
   (5, hinge peer), (6, hinge x)] ++ (List.range 8).map fun i => (7 + i, (x.port i).items)

/-- Cycle S (R600, R601, R611, R612): the clocks stop and the crossings are recorded. -/
def execGlobalStopCut (t : TowerId) (s : State) : Res :=
  let x := s.tw t
  if x.fget Fld.rstGstop_STATE ≠ 1 then .next s
  else
    let q := stopItems x (s.tw t.other)
    .next (s.modTw t fun x =>
      let x := (x.fset Fld.rstGstop_STATE 2).setReg .rstGstopT 0 0 x.timeNs
      let x := (List.range 15).foldl (fun (x : Tower) k => x.fset Fld.rstGstopQ_ITEMS (min (2 ^ 32 - 1) (sget [] q k).length) k) x
      x.modSys fun y => { y with stopQ := q })

/-! Breakpoints. -/

/-- Groups of a tower that `brkpt` holds (R690). -/
def Tower.heldGroups (x : Tower) : Nat :=
  (x.bricks.map fun (p : Nat × Brick) => (p.2.groups.filter fun (q : Nat × Group) => q.2.held).length).foldl (· + ·) 0

/-- A stop is recorded: the first since the last RESUME keeps its place (R690). -/
def Tower.noteStop (x : Tower) (pb slot pc : Nat) : Tower :=
  if x.sys.stopSeen then x
  else (((x.fset Fld.dbgBrk_PBID pb).fset Fld.dbgBrk_GSLOT slot).fset Fld.dbgBrk_PC pc).modSys fun y => { y with stopSeen := true }

/-- `brkpt` (R115, R600, R690): with the launch's DEBUG flag the group stops before its next instruction, the stop is recorded, and
with ON_BRKPT it starts a global stop; otherwise it has no effect. -/
def execBrkpt (g : GroupRef) (w : IWord) (s : State) : Res :=
  match prepare 0x09 (fun _ => true) (infoPlainB false true fun _ => true) g w s with
  | .no => .next s
  | .fault grp c l pc i => .next (raiseFault g grp c l pc i s)
  | .go x =>
    let s1 := branchTo { x with exec := 0, grp := { x.grp with held := x.run.debug } } false false false (fun _ => x.pc) s
    if !x.run.debug then .next s1
    else
      let s1 := s1.modTw g.b.t fun y => y.noteStop (pbid g.b) (gkey g) x.pc.toNat
      .next (if (s.tw g.b.t).fget Fld.rstGstop_ON_BRKPT = 1 then globalStop g.b.t s1 else s1)

/-- A write of RESUME to `DBG_BRK` (R690). -/
def execDbgBrkResume (t : TowerId) (s : State) : Res :=
  .next (s.modTw t fun x =>
    let free := fun (b : Brick) => { b with groups := b.groups.map fun (p : Nat × Group) => (p.1, { p.2 with held := false }) }
    { x with bricks := x.bricks.map fun (p : Nat × Brick) => (p.1, free p.2) }.modSys fun y => { y with stopSeen := false })

/-! Peeks. -/

/-- A write of `DBG_PEEK_CTL` (R691): the operands are stored, and GO starts a peek of them unless one is in progress. -/
def Tower.peekWrite (x : Tower) (v : Nat) : Tower :=
  let res := x.fget Fld.dbgPeekCtl_RESULT
  let x := x.setReg .dbgPeekCtl 0 0 (res * 2 ^ 60 + v % 2 ^ 60)
  if v.testBit 63 && x.sys.peek.isNone then (x.fset Fld.dbgPeekCtl_RESULT 0).modSys fun y => { y with peek := some (v % 2 ^ 60) } else x

/-- A write of `DBG_PEEK_CTL` with GO (R691). -/
def execDbgPeek (t : TowerId) (v : Word) (s : State) : Res := .next (s.modTw t fun x => x.peekWrite (v.toNat ||| 2 ^ 63))

/-- The word that a peek of a recorded item reads, or its RESULT (R691). -/
def peekItem (x : Tower) (v : Nat) : Except Nat Nat :=
  let w := bits v 9 0
  if bits v 37 34 = 15 ∨ 36 < w then .error 3
  else if x.sys.stopQ.isEmpty then .error 2
  else match (sget [] x.sys.stopQ (bits v 37 34))[bits v 33 10]? with
    | none => .error 3
    | some i => .ok (if w = 0 then i.bytes % 2 ^ 16 * 2 ^ 48 + i.addr % 2 ^ 48
        else if w ≤ 32 then (i.data >>> (64 * (w - 1))) % 2 ^ 64 else (i.chk >>> (64 * (w - 33))) % 2 ^ 64)

/-- The word that a peek of a group reads, or its RESULT (R691): the group is held at `brkpt` or stopped. A register that the group
has not allocated reads as a free value. -/
def peekGroup (x : Tower) (v : Nat) : Except Nat Nat :=
  let w := bits v 9 0
  let k := bits v 58 49
  if w = 255 ∨ 321 < w ∨ 576 ≤ k then .error 3
  else match (x.brick k).group? (bits v 48 43) with
    | none => .error 2
    | some g =>
      let th := g.thread (bits v 42 38)
      if !g.held && !x.gstopped then .error 2
      else .ok (if w ≤ 254 then (if w < g.alloc then rdG th w else Config.peekFree w).toNat
        else if w = 256 then th.pc.toNat else if w = 257 then th.p.toNat else (sget 0 g.u (w - 258)).toNat)

/-- A peek completes (R691). -/
def execDbgPeekComplete (t : TowerId) (s : State) : Res :=
  match (s.tw t).sys.peek with
  | none => .next s
  | some v => .next (s.modTw t fun x =>
      let x' := x.modSys fun y => { y with peek := none }
      match (if v.testBit 59 then peekGroup x v else peekItem x v) with
      | .ok d => (x'.fset Fld.dbgPeekCtl_RESULT 1).setReg .dbgPeekData 0 0 d
      | .error e => x'.fset Fld.dbgPeekCtl_RESULT e)

end Sys2Proof.Machine
end

