-- ==== Sys2Proof/Machine/Trace.lean ====
section
/-! DEFINITION. The trace writer (R684, R686 to R689): records and chunks, triggers, samples, export, and the writes of its control
register. A write that a line of the window refuses (a retired line) is lost; writes wait in order while the line of the first must. -/

namespace Sys2Proof.Machine

open Sys2Proof

/-- The window of the writer (R686, R689). -/
def Tower.trBase (x : Tower) : Nat := x.fget Fld.dbgTraceBase_CHUNK * 4096
def Tower.trChunks (x : Tower) : Nat := x.fget Fld.dbgTraceSize_C
def Tower.trPtr (x : Tower) : Nat := x.reg .dbgTracePtr
def Tower.trState (x : Tower) : Nat := x.fget Fld.dbgTraceStat_STATE
def Tower.trMode (x : Tower) : Nat := x.fget Fld.dbgTraceCtl_MODE
def Tower.modTrace (x : Tower) (f : Trace → Trace) : Tower := x.modSys fun y => { y with trace := f y.trace }

/-- The field of `DBG_EXPORT_DST` (R689). -/
def fldExportDst : Fld := ⟨.dbgExportDst, 47, 7⟩

/-- The writer as an agent (R353). -/
def trAgent (t : TowerId) : Agent := ⟨t, 31, 0⟩

/-- Bytes from an address as writes within single lines, in order. -/
def trPieces (addr n v : Nat) : List TrWr :=
  (List.range (lineCount addr n)).map fun i =>
    let lo := if i = 0 then addr else (addr / 128 + i) * 128
    ⟨lo, min (addr + n) ((addr / 128 + i + 1) * 128) - lo, v >>> (8 * (lo - addr)), false⟩

/-- Makes the writes that wait, in order, up to the first that must still wait (R353, R355, R362, R686): each is a device write, and in
HBM it is a request of master 31 with a deadline of its own (log entry 68). -/
def trPush (t : TowerId) : List TrWr → State → State × List TrWr
  | [], s => (s, [])
  | w :: r, s =>
    let x := s.tw t
    let line := w.addr / 128
    let send := if w.sent || !(s.targetB w.addr).isHbm || x.mem.retired.contains line then some x
      else x.hbmSend 577 ⟨31, line, lineSecs w.addr w.n 0, true, false, x.deadlineOf 31, false, 0, none⟩
    match send with
    | none => (s, w :: r)
    | some x => match engWriteBytes (s.setTw t x) (trAgent t) w.addr w.n w.v with
      | .wait s => (s, { w with sent := true } :: r)
      | .done s _ => trPush t r s

/-- A line of the window awaits the answer to a snoop, so a write of it is not yet performed at system scope. -/
def State.trSnooped (s : State) (t : TowerId) : Bool :=
  let x := s.tw t
  (s.t0.mem.snoops ++ s.t1.mem.snoops).any fun q => decide (x.trBase ≤ q.line * 128) && decide (q.line * 128 < x.trBase + x.trChunks * 4096)

/-- The writer makes the writes that wait; once all are performed at system scope, the STATE that it is to take is shown (R686). -/
def trSettle (t : TowerId) (s : State) : State :=
  let p := trPush t (s.tw t).sys.trace.out s
  let s := p.1.modTw t fun x => x.modTrace fun k => { k with out := p.2 }
  match (s.tw t).sys.trace.goal with
  | none => s
  | some g =>
    if !p.2.isEmpty || s.trSnooped t then s
    else s.modTw t fun x => (x.fset Fld.dbgTraceStat_STATE g).modTrace fun k => if g = 0 then { Trace.init with rot := k.rot } else { k with goal := none }

/-- Bytes go to the pointer, which moves on (R686). -/
def trPut (n v : Nat) (x : Tower) : Tower :=
  let x := x.modTrace fun k => { k with out := k.out ++ trPieces (x.trBase + x.trPtr) n v }
  let x := if x.trChunks ≤ x.sys.trace.filled then x.fset Fld.dbgTraceStat_WRAPPED 1 else x
  x.setReg .dbgTracePtr 0 0 (x.trPtr + n)

/-- The writer is to stop in a STATE once its writes are performed (R686, R687). -/
def Tower.trGoal (x : Tower) (g : Nat) : Tower := x.modTrace fun k => { k with goal := some g }

/-- The writer writes: it runs and is not to stop. -/
def Tower.trOn (x : Tower) : Bool := decide (x.trState = 1) && x.sys.trace.goal.isNone

/-- The chunk before the pointer is filled (R686, R687): the pointer wraps, or the writer is full, or frozen. -/
def Tower.chunkFilled (x : Tower) : Tower :=
  let x := x.modTrace fun k => { k with filled := k.filled + 1, left := k.left.map fun n => n - 1 }
  if x.trMode = 1 ∧ x.trChunks * 4096 ≤ x.trPtr then x.trGoal 2
  else
    let x := if x.trChunks * 4096 ≤ x.trPtr then x.setReg .dbgTracePtr 0 0 0 else x
    if x.sys.trace.left = some 0 then x.trGoal 3 else x

/-- Ends the current chunk when the pointer has reached its end. -/
def Tower.chunkCheck (x : Tower) : Tower := if x.trPtr % 4096 = 0 then x.chunkFilled else x

/-- A pad record of `n` bytes fills the way to a boundary (R686, R689); none when the pointer lies on it. -/
def trPad (bound : Nat) (x : Tower) : Tower :=
  let n := (bound - x.trPtr % bound) % bound
  if n = 0 then x
  else
    let v := (evHeader 0xFE false 0 0 0 (n / 8 - 1)).toNat +
      Config.tracePad x.sys.trace.filled n % 2 ^ (8 * (n - 8)) * 2 ^ 64
    (trPut n v x).chunkCheck

/-- A record finds no free chunk: the writer has stopped, or the chunk at the pointer awaits its export (R687, R688). -/
def Tower.trNoRoom (x : Tower) : Bool :=
  !x.trOn ||
    (decide (x.fget Fld.dbgTraceCtl_EXPORT_EN = 1) && decide (x.trPtr % 4096 = 0) &&
      decide (x.trChunks ≤ x.sys.trace.filled - x.sys.trace.exported))

def Tower.trDiscard (x : Tower) : Tower := x.fadd Fld.dbgTraceStat_DISCARDED 1

/-- The trigger that waits gets its record (R687): at a 256-byte boundary, with its cause and device time; a trigger-centred writer
then has P chunks left, counted from the trigger's. -/
def trTrigger (x : Tower) : Tower :=
  match x.sys.trace.want with
  | none => x
  | some c =>
    let x := trPad 256 x
    if x.trNoRoom then x
    else
      let off := x.trPtr / 256
      let p := (16 - x.fget Fld.dbgTraceCtl_PRE) * x.trChunks / 16
      let x := trPut 16 ((evHeader 0xFD false 0 0 c 1).toNat + x.timeNs * 2 ^ 64) x
      let x := ((x.fset Fld.dbgTraceStat_TRIG_OFF off).modTrace fun k =>
        { k with want := none, left := if x.trMode = 2 then some p else none }).chunkCheck
      if x.trMode = 2 ∧ p = 0 then (trPad 4096 x).trGoal 3 else x

/-- Writes one record (R686, R687): after the trigger that waits, whole within a chunk; discarded and counted without room. -/
def trRecord (n v : Nat) (x : Tower) : Tower :=
  let x := if x.trNoRoom then x else trTrigger x
  if x.trNoRoom then x.trDiscard
  else
    let x := if x.trPtr % 4096 + n ≤ 4096 then x else trPad 4096 x
    if x.trNoRoom then x.trDiscard else (trPut n v x).chunkCheck

/-- Words as a number, first word lowest. -/
def wordsNat (ws : List Nat) : Nat := ws.foldr (fun w a => w + a * 2 ^ 64) 0

/-- The slice whose FIFO the writer looks at next: the first after the last one taken that holds a complete packet (R686). -/
def Tower.trNext (x : Tower) : Option Nat :=
  let have' := (x.bricks.filter fun (p : Nat × Brick) => evAvail p.2.ev).map Prod.fst
  (have'.find? fun k => decide (x.sys.trace.rot < k)).orElse fun _ => have'.head?

/-- The entries of the packet at stage 0, or the drop marker there. -/
def evTake (f : EvFifo) : List EvEntry := match f.q with
  | [] => []
  | e :: _ => if e.drop then [e] else f.q.takeWhile fun y => !y.drop && decide (y.packet = e.packet)

/-- A packet that a trigger of `DBG_TRACE_TRIG` matches raises it (R687). -/
def Tower.trMatch (x : Tower) (ws : List Nat) : Tower :=
  let h := ws.headD 0
  if x.fget Fld.dbgTraceTrig_ON_TYPE = 1 ∧ bits h 63 56 = x.fget Fld.dbgTraceTrig_TYPE then x.raiseTrig 3
  else if x.fget Fld.dbgTraceTrig_ON_MARK = 1 ∧ bits h 63 56 = 0xF0 ∧ bits (ws.getD 2 0) 63 48 = x.fget Fld.dbgTraceTrig_ID then
    x.raiseTrig 4
  else x

/-- The writer is disabled (R686): its chunk is padded out, and it is off once its writes are performed. -/
def trStop (x : Tower) : Tower := (if x.trOn then trPad 4096 x else x).trGoal 0

/-- The writer takes the next complete packet and writes it as a record, or discards it while FULL or FROZEN (R684, R686, R687). It takes
none while writes of an earlier record wait. -/
def execTracePacketWrite (b : BrickRef) (s : State) : Res :=
  if (s.tw b.t).gstopped then .next s
  else
    let s := trSettle b.t s
    let x := s.tw b.t
    if decide (x.fget Fld.dbgTraceCtl_EN = 0) || decide (x.trState = 0) || decide (x.trState = 4) || !x.sys.trace.out.isEmpty ||
        decide (x.trNext ≠ some b.s.val) then .next s
    else
      let es := evTake (s.brick b).ev
      let ws := es.map fun e => e.word.toNat
      .next (trSettle b.t (s.modTw b.t fun x => trRecord (8 * ws.length) (wordsNat ws)
        (((x.trMatch ws).modTrace fun k => { k with rot := b.s.val }).modBrick b.s.val fun k =>
          { k with ev := { k.ev with q := k.ev.q.drop es.length } })))

/-! Samples. -/

/-- The sample records that are due: bricks with BUSY, STALL and IDLE of their eight records, then base-die engines (R688). -/
def Tower.samples (x : Tower) : List (List Nat) :=
  let m := x.fget Fld.dbgTraceCtl_SAMPLE_MASK
  let bricks := if m.testBit 0 then (List.range 576).filter fun k => x.enabled.getLsbD k else []
  let brick := fun (k : Nat) => (evHeader 0xF8 false (x.id.nat * 576 + k) 0 0 24).toNat ::
    (List.range 8).flatMap fun j => [x.brickCounter k j 0, x.brickCounter k j 1, x.brickCounter k j 2]
  let engs := (List.range 714).filter fun e => x.engPresent e &&
    m.testBit (if e < 24 then 1 else if e < 600 then 2 else if e < 608 then 3 else if e < 704 then 4 else if e < 712 then 5 else 6)
  let eng := fun (e : Nat) => [(evHeader 0xF9 false e 0 0 3).toNat, x.engCounter e 0, x.engCounter e 1, x.engCounter e 2]
  bricks.map brick ++ engs.map eng

/-- SAMPLE_US have passed (R688): one record per engine of the chosen classes. -/
def execTraceSampleInterval (t : TowerId) (s : State) : Res :=
  let x := s.tw t
  if x.gstopped || decide (x.fget Fld.dbgTraceCtl_EN = 0) || !x.trOn || decide (x.fget Fld.dbgTraceCtl_SAMPLE_US = 0) then .next s
  else .next (trSettle t (s.setTw t (x.samples.foldl (fun x ws => trRecord (8 * ws.length) (wordsNat ws) x) x)))

/-! Export. -/

/-- A failed export stops the writer (R688). -/
def Tower.exportFail (x : Tower) : Tower := (x.fset Fld.dbgTraceStat_STATE 4).modTrace fun k => { k with sending := false }

/-- An answer to a remote write of the export says that it failed (R457, R688). -/
def Tower.exportNak (x : Tower) : Bool := x.rtr.remDone.any fun d => decide (d.src = .trace) && !d.ok

/-- A write of an export, in host memory or on another module: none when the host cannot take it. -/
def exportPut (t : TowerId) (a n v : Nat) (s : State) : Option State :=
  let x := s.tw t
  if x.fget Fld.dbgTraceCtl_REMOTE = 1 then
    some (s.setTw t (x.remoteWrite (x.fget Fld.dbgTraceCtl_NODE) a n v .trace))
  else if s.targetB a ≠ .host ∨ 2 ^ 48 < a + n ∨ s.hostDown = true then none
  else some ((List.range (cdiv n 128)).foldl (fun s i =>
    s.hostWrite (.cxlWrite (a + 128 * i - 2 ^ 47) ((v >>> (1024 * i)) % 2 ^ 1024) (if n < 128 then 2 ^ n - 1 else 2 ^ 128 - 1)) (.trace t)) s)

/-- A write of the export awaits its GO message or its answer. -/
def State.exportOpen (s : State) (t : TowerId) : Bool :=
  s.host.gos.contains (.trace t) || (s.tw t).rtr.rem.any fun q => decide (q.src = .trace)

/-- The oldest filled chunk is copied to the ring; once it is acknowledged, the count of chunks exported is written past the ring, as a
release at system scope (R688). -/
def execTraceChunkExport (t : TowerId) (s : State) : Res :=
  let s := if (s.tw t).gstopped then s else trSettle t s
  let x := s.tw t
  let dst := x.fget fldExportDst * 128
  let ring := 2 ^ x.fget Fld.dbgTraceCtl_RING
  let fail := fun (s : State) => s.modTw t Tower.exportFail
  if x.gstopped || decide (x.fget Fld.dbgTraceCtl_EN = 0) || decide (x.fget Fld.dbgTraceCtl_EXPORT_EN = 0) || decide (x.trState ≠ 1) then
    .next s
  else if x.exportNak then .next (fail s)
  else if s.exportOpen t then .next s
  else if x.sys.trace.sending then
    match exportPut t (dst + ring * 4096) 8 ((x.sys.trace.exported + 1) % 2 ^ 64) s with
    | none => .next (fail s)
    | some s => .next (s.modTw t fun x => (x.modTrace fun k => { k with sending := false, exported := k.exported + 1 }).modRtr fun r =>
        { r with remDone := r.remDone.filter fun d => decide (d.src ≠ .trace) })
  else if x.sys.trace.filled ≤ x.sys.trace.exported ∨ x.sys.trace.out.isEmpty = false then .next s
  else
    let from' := x.trBase + x.sys.trace.exported % x.trChunks * 4096
    match engReadBytes s ⟨t, 31, 1⟩ none from' 4096 with
    | .wait s => .next s
    | .done s (.error .uncorrectable) => .next s
    | .done s (.error _) => .next (fail s)
    | .done s (.ok v) => match exportPut t (dst + x.sys.trace.exported % ring * 4096) 4096 v s with
      | none => .next (fail s)
      | some s => .next (s.modTw t fun x => x.modTrace fun k => { k with sending := true })

/-! The control register. -/

/-- The writer starts at chunk 0 with its trigger armed, if the window lies wholly in the tower's memory (R687, R689). -/
def trStart (t : TowerId) (s : State) : State :=
  let x := s.tw t
  if s.inOwn t x.trBase (x.trChunks * 4096) then
    s.modTw t fun x =>
      ((((((x.fset Fld.dbgTraceCtl_EN 1).fset Fld.dbgTraceStat_STATE 1).fset Fld.dbgTraceStat_WRAPPED 0).fset
        Fld.dbgTraceStat_TRIGGERED 0).setReg .dbgTracePtr 0 0 0).modTrace fun k => { Trace.init with rot := k.rot, out := k.out })
  else s.modTw t fun x => (x.fset Fld.dbgTraceCtl_EN 0).fset Fld.dbgTraceStat_STATE 4

/-- A write of `DBG_TRACE_CTL` (R687 to R689). MODE 3 and RING above 16 make it ignored, and sampling or export without the deep-trace
key leaves the register unchanged; while EN is 1 only EN and TRIGGER act. EN written as 1 while it is 1 changes nothing. -/
def traceCtl (t : TowerId) (v : Nat) (s : State) : State :=
  let x := s.tw t
  if bits v 62 61 = 3 ∨ 16 < bits v 42 32 then s
  else if x.fget Fld.licStat_DEEP_TRACE = 0 ∧ (bits v 31 16 ≠ 0 ∨ v.testBit 55) then
    s.modTw t fun x => x.setFlag Fld.dbgTraceStat_NOKEY
  else
    let on := decide (x.fget Fld.dbgTraceCtl_EN = 1)
    let exp := if bits v 62 61 = 0 then bits v 55 55 else 0
    let keep := fun (x : Tower) => x.setReg .dbgTraceCtl 0 0
      (bits v 62 57 * 2 ^ 57 + exp * 2 ^ 55 + bits v 54 16 * 2 ^ 16 + bits v 6 0)
    let s := if on then s else s.modTw t keep
    let s := if v.testBit 63 = on then s
      else if v.testBit 63 then trStart t s
      else
        trSettle t (s.modTw t fun x => trStop (x.fset Fld.dbgTraceCtl_EN 0))
    if v.testBit 56 then s.modTw t fun x => x.raiseTrig 1 else s

/-- A write of `DBG_TRACE_CTL` with EN (R687, R689). -/
def execDbgTraceEnable (t : TowerId) (v : Word) (s : State) : Res := .next (traceCtl t (v.toNat ||| 2 ^ 63) s)

/-- A write of `DBG_TRACE_CTL` without EN (R686). -/
def execDbgTraceDisable (t : TowerId) (v : Word) (s : State) : Res := .next (traceCtl t (v.toNat % 2 ^ 63) s)

/-- A write of `DBG_TRACE_CTL` with TRIGGER (R687). -/
def execDbgTraceTrigger (t : TowerId) (v : Word) (s : State) : Res := .next (traceCtl t (v.toNat ||| 2 ^ 56) s)

/-- The other registers of the writer: BASE, SIZE and EXPORT_DST are ignored while it runs (R689). -/
def Tower.traceReg (x : Tower) (r : Reg) (v : Nat) : Tower :=
  if x.fget Fld.dbgTraceCtl_EN = 1 then x
  else match r with
    | .dbgTraceSize => if 4 ≤ v ∧ v ≤ 1048576 then x.fset Fld.dbgTraceSize_C v else x
    | .dbgTraceBase => x.fset Fld.dbgTraceBase_CHUNK (bits v 47 12)
    | .dbgExportDst => x.fset fldExportDst (bits v 47 7)
    | _ => x

end Sys2Proof.Machine
end

