-- ==== Sys2Proof/Machine/Observe.lean ====
section
/-! DEFINITION. The value of a register (R7, R8, R30): the stored fields, and those that show other state, computed from it. -/

namespace Sys2Proof.Machine

open Sys2Proof

/-- A word with fields replaced. -/
def withFields (w : Nat) (l : List (Fld × Nat)) : Nat := l.foldl (fun a p => putBits a p.1.hi p.1.lo p.2) w

/-- A count that saturates at an n-bit field. -/
def cap (n v : Nat) : Nat := min (2 ^ n - 1) v

def flag (b : Bool) : Nat := if b then 1 else 0

/-! Brick registers. -/

/-- Subsets of a group: the addresses at which its running threads are (R45). -/
def Group.subsets (g : Group) : Nat :=
  ((lanesOf g.running).filter fun l => decide (lowLane (g.atPc (g.thread l).pc) = some l)).length

/-- Every live thread of a group waits at a barrier (R61). -/
def Group.parked (g : Group) : Bool :=
  (g.threads.all fun th => th.exited || th.bar.isSome) && g.threads.any fun th => !th.exited

/-- `BRK_SCHED_STAT` (R61). -/
def Brick.schedStat (b : Brick) (sched : Nat) : Nat :=
  let gs := (b.groups.filter fun (p : Nat × Group) => decide (p.1 / 16 = sched)).map Prod.snd
  withFields 0 [(Fld.brkSchedStat_REG_UNITS, match b.run with
      | some r => r.alloc / 8
      | none => 0),
    (Fld.brkSchedStat_GROUPS, gs.length), (Fld.brkSchedStat_DIVERGENT, (gs.filter fun g => decide (1 < g.subsets)).length),
    (Fld.brkSchedStat_PARKED, (gs.filter Group.parked).length)]

/-- `BRK_PLACE` (R62). -/
def Brick.placeStat (b : Brick) : Nat :=
  withFields 0 [(Fld.brkPlace_SP_USED, (b.blocks.map fun (p : Nat × Block) => cdiv p.2.spBytes 1024).foldl (· + ·) 0),
    (Fld.brkPlace_SP_SIZE, match b.run with
      | some r => r.spUnits
      | none => 0),
    (Fld.brkPlace_BLOCKS, (b.blocks.filter fun (p : Nat × Block) => !p.2.retired).length), (Fld.brkPlace_POINTER, b.pointer),
    (Fld.brkPlace_HEAD_WAIT, flag b.headWait)]

/-- `BRK_ARRAY_STAT` (R191). -/
def Brick.arrayStat (b : Brick) : Nat :=
  let m := b.mx
  let runs := fun (p : MxKind → Bool) => m.queue.any fun e => decide (e.st = .running) && p e.kind
  let owner := if b.tp.run.isSome then 2
    else if runs fun k => match k with
      | .batch _ => true
      | _ => false then 3
    else if runs fun _ => true then 1 else 0
  let fmt := fun (w : WTile) => if w.valid then w.fmt else 0
  let sp := fun (w : WTile) => if w.valid then w.sparse else 0
  withFields 0 [(Fld.brkArrayStat_OWNER, owner), (Fld.brkArrayStat_QUEUE, m.queue.length),
    (Fld.brkArrayStat_BATCHES, (m.batches.filter fun t => !t.fired).length),
    (Fld.brkArrayStat_FRONT_VALID, flag m.front.valid), (Fld.brkArrayStat_FRONT_FMT, fmt m.front),
    (Fld.brkArrayStat_FRONT_SPARSE, sp m.front), (Fld.brkArrayStat_BACK_VALID, flag m.back.valid),
    (Fld.brkArrayStat_BACK_FMT, fmt m.back), (Fld.brkArrayStat_BACK_SPARSE, sp m.back),
    (Fld.brkArrayStat_BUF1_INT, flag m.h1.int), (Fld.brkArrayStat_BUF1_EXTENT, m.h1.extent),
    (Fld.brkArrayStat_BUF0_INT, flag m.h0.int), (Fld.brkArrayStat_BUF0_EXTENT, m.h0.extent)]

/-- `BRK_TP_STAT` (R221). -/
def Brick.tpStat (b : Brick) : Nat :=
  let wait := b.mx.queue.filter fun e => decide (e.st = .queued) && match e.kind with
    | .tile _ _ => true
    | _ => false
  let hc := match b.tp.run with
    | some r => (r.handle, r.clamp)
    | none => (b.tp.lastHandle, b.tp.lastClamp)
  withFields 0 [(Fld.brkTpStat_RUNNING, flag b.tp.run.isSome), (Fld.brkTpStat_LEN_CLAMP, flag hc.2),
    (Fld.brkTpStat_RESULT, b.tp.lastResult), (Fld.brkTpStat_PENDING, wait.length), (Fld.brkTpStat_HANDLE, hc.1.toNat)]

/-- `BRK_RT_STAT` (R244): combine is in its count phase while it reads the expert table, and in the last from its last row on. -/
def RtUnit.stat (u : RtUnit) : Nat :=
  let p := match u.run with
    | none => (0, u.lastHandle)
    | some r => (if r.ended then 3
        else if rOp r.desc = 1 then (if r.table.isEmpty then 1 else max 2 (r.phase + 1))
        else r.phase + 1, r.job.handle)
  withFields 0 [(Fld.brkRtStat_BUSY, flag u.run.isSome), (Fld.brkRtStat_PHASE, p.1),
    (Fld.brkRtStat_QUEUE, u.q.length + flag u.run.isSome), (Fld.brkRtStat_RESULT, u.lastResult),
    (Fld.brkRtStat_HANDLE, p.2.toNat)]

/-- `BRK_L1_STAT` (R270). -/
def Brick.l1Stat (b : Brick) : Nat :=
  withFields 0 [(Fld.brkL1Stat_WAYS, if b.run.isSome then b.ways else 0), (Fld.brkL1Stat_MREG, b.mregs.length),
    (Fld.brkL1Stat_WAIT, (b.mregs.map fun m => m.waiters.length).foldl (· + ·) 0),
    (Fld.brkL1Stat_ORPHAN, (b.mregs.filter fun m => decide (m.st = .orphan)).length)]

/-- `BRK_VPORT_STAT` (R272). -/
def Brick.vportStat (b : Brick) : Nat :=
  withFields 0 [(Fld.brkVportStat_RDQ, b.downQ.length), (Fld.brkVportStat_RETQ, b.portOut.length),
    (Fld.brkVportStat_WRQ, b.writeQ.length), (Fld.brkVportStat_WACK, (b.outst.filter fun o => o.own && !(b.sendWr.any fun w => decide (w.wid = o.wid))).length),
    (Fld.brkVportStat_CE_SECT, cap 16 b.ceSect)]

/-- `BRK_EV_STAT` (R684). -/
def EvFifo.stat (f : EvFifo) : Nat :=
  withFields 0 [(Fld.brkEvStat_AVAIL, flag (evAvail f)), (Fld.brkEvStat_OPEN, flag f.opened.isSome),
    (Fld.brkEvStat_HELD, f.q.length), (Fld.brkEvStat_SKIPPED, f.skipped), (Fld.brkEvStat_DROPPED, f.dropped)]

/-- Whether a read of `BRK_EV_DATA` takes an entry (R684). -/
def Tower.evTakes (x : Tower) (k : Nat) : Bool := decide (x.fget Fld.dbgTraceCtl_EN = 0) && evAvail (x.brick k).ev

/-- A counter record's `RSEL` (R672). -/
def Rec.rsel (r : Rec) : Nat := r.last * 2 ^ 58 + r.selB * 2 ^ 8 + r.selA

/-- A register of a brick's window (R30, R61, R62, R191, R221, R222, R244, R245, R270 to R272, R671, R684). -/
def Tower.readBrick (x : Tower) (r : Reg) (k j : Nat) : Nat :=
  let b := x.brick k
  let u := sget RtUnit.init x.routes (k / 24)
  if !x.enabled.getLsbD k then 0
  else match r with
  | .brkSchedStat => b.schedStat j
  | .brkPlace => b.placeStat
  | .brkArrayStat => b.arrayStat
  | .brkTpStat => b.tpStat
  | .brkTpKsteps => cap 32 b.tp.ksRun * 2 ^ 32 + cap 32 b.tp.ksSkip
  | .brkTpTiles => cap 32 b.tp.tlDrain * 2 ^ 32 + cap 32 b.tp.tlSkip
  | .brkRtStat => u.stat
  | .brkRtCount => cap 32 u.rows * 2 ^ 32 + cap 32 u.dropped
  | .brkL1Stat => b.l1Stat
  | .brkL1Cnt => cap 32 b.hits * 2 ^ 32 + cap 32 b.misses
  | .brkVportStat => b.vportStat
  | .brkEvStat => b.ev.stat
  | .brkEvData => if x.evTakes k then (b.ev.q.head?.map fun e => e.word.toNat).getD 0 else 0
  | .brkEngBusy => x.brickCounter k j 0
  | .brkEngStall => x.brickCounter k j 1
  | .brkEngIdle => x.brickCounter k j 2
  | .brkEngRsel => (b.recd j).rsel
  | .brkEngRcntA => x.brickCounter k j 3
  | .brkEngRcntB => x.brickCounter k j 4
  | .brkEngX0 => x.brickCounter k j 5
  | .brkEngX1 => x.brickCounter k j 6
  | _ => x.reg r k j

/-! Registers of the base die. -/

/-- `GLB_LMAP[n]` (R34). -/
def Tower.lmapEntry (x : Tower) (n : Nat) : Nat :=
  if x.fget Fld.glbTower_STATE = 3 then 0
  else match sfind x.lmap n with
    | some k => 2 ^ 63 + (x.id.nat * 576 + k)
    | none => 0

/-- A warm tower reset of the tower is in progress (R483, R606). -/
def Tower.warmActive (x : Tower) : Bool :=
  decide (x.sys.rst = .warmQuiesce) || (decide (x.fget Fld.glbTower_STATE = 0) && decide (x.fget Fld.rstStat_LAST_DOMAIN = 3))

/-- `RST_STAT.ACTIVE` (R606); bring-up after a cold reset counts as the widest reset. -/
def Tower.rstActive (x : Tower) : Nat :=
  if x.fget Fld.glbTower_STATE = 0 ∨ x.sys.rst = .warmQuiesce then 3
  else if x.fget Fld.glbTower_STATE = 3 then 2
  else flag (x.bricks.any fun (p : Nat × Brick) => decide (p.2.phase = .resetting))

/-- `FUS_POS[n]` (R622, R623, R642). -/
def Tower.posEntry (x : Tower) (n : Nat) : Nat :=
  if !x.sys.boot.restored then 0
  else
    let f := x.sys.fuses
    let fuse := if f.enabled.getLsbD n then 1 else if f.spare.getLsbD n then 2 else 0
    let out := sfind x.lock n
    let sub := sfind x.sys.subs n
    let use := if x.enabled.getLsbD n then (if out.isSome then 3 else if fuse = 2 then 2 else 1)
      else if fuse = 1 ∧ sub.isSome then 4 else 0
    withFields 0 [(Fld.fusPos_FUSE, fuse), (Fld.fusPos_USE, use), (Fld.fusPos_CAUSE, out.getD 0), (Fld.fusPos_SUB, sub.getD 0),
      (Fld.fusPos_TPEND, flag (([2, 4, 5] : List Nat).contains (x.test n)))]

/-- `NBU_UNIT[c]` (R343). -/
def Tower.nbuUnitStat (x : Tower) (c : Nat) : Nat :=
  if x.chain.length ≤ c then 0
  else
    let q := x.nbu.queueOf c
    let run := q.head?.bind fun k => (sfind k.units c).filter fun u => u.started
    withFields 0 [(Fld.nbuUnit_BUSY, flag run.isSome), (Fld.nbuUnit_QUEUE, q.length),
      (Fld.nbuUnit_STEP, (run.map NbuUnit.step).getD 0), (Fld.nbuUnit_SLICE, x.chainSlice c),
      (Fld.nbuUnit_CE_SECT, cap 16 (sget 0 x.nbu.ce c))]

/-- Entry n of the list of retired lines (R401). -/
def Tower.retireEntry (x : Tower) (n : Nat) : Nat := match x.mem.retired[n]? with
  | some l => 2 ^ 63 + l % 2 ^ 41 * 2 ^ 7
  | none => 0

/-- `HNG_STAT.STATE` (R613). -/
def hingeState (x peer : Tower) : Nat := if !x.serving then 0 else if peer.serving then 2 else 3

/-- The value of a register of a tower (R7, R8): every stored field as it stands, every other field from the state that it shows. -/
def State.readReg (s : State) (t : TowerId) (r : Reg) (i j : Nat) : Nat :=
  let x := s.tw t
  let w := x.reg r i j
  match r with
  | .glbLmap => x.lmapEntry i
  | .rstStat => withFields w [(Fld.rstStat_ACTIVE, x.rstActive)]
  | .pwrCfg => withFields w [(Fld.pwrCfg_RAIL_PG, x.sys.rails), (Fld.pwrCfg_VHP_PG, flag (!s.host.railBad))]
  | .pwrRegion => withFields w [(Fld.pwrRegion_THROTTLE, x.throttle i)]
  | .eccRetireStat => withFields w [(Fld.eccRetireStat_FULL, flag (decide (4096 ≤ x.mem.retired.length))),
      (Fld.eccRetireStat_COUNT, x.mem.retired.length)]
  | .eccRetire => x.retireEntry i
  | .eccScrubCtl => withFields w [(Fld.eccScrubCtl_BUSY, flag x.mem.scrub.isSome)]
  | .eccTestCtl => withFields w [(Fld.eccTestCtl_BUSY, flag x.mem.raw.isSome)]
  | .llcStat => withFields w [(Fld.llcStat_WATCH_USED, x.mem.watch.length), (Fld.llcStat_BI_WAIT, flag (!x.mem.snoops.isEmpty)),
      (Fld.llcStat_FILL_WAIT, flag x.fillWaits), (Fld.llcStat_RED_ACTIVE, flag (x.mem.dir.any fun (p : Nat × DirLine) => p.2.red))]
  | .hbmChStat =>
    let c := sget Chan.init x.mem.chans i
    if 16 * x.sys.fuses.stackN ≤ i then 0 else withFields w [(Fld.hbmChStat_QUEUE, c.q.length), (Fld.hbmChStat_ROUND_POS, c.pos)]
  | .hbmChGrant => if 16 * x.sys.fuses.stackN ≤ i then 0 else w
  | .nbuCfg => withFields w [(Fld.nbuCfg_CHAIN_LEN, x.chain.length), (Fld.nbuCfg_LONG_SEQ, x.fget Fld.licStat_LONG_NBU)]
  | .nbuStatus => withFields 0 [(Fld.nbuStatus_BUSY, flag (x.nbu.cmds.any fun c => c.delivered)),
      (Fld.nbuStatus_QUEUE, x.nbu.cmds.length), (Fld.nbuStatus_RESULT, x.nbu.lastResult), (Fld.nbuStatus_DONE_SEQ, x.nbu.doneSeq)]
  | .nbuUnit => x.nbuUnitStat i
  | .dmStatus => withFields 0 [(Fld.dmStatus_BUSY, flag (x.dm.cmds.any DmCmd.started)), (Fld.dmStatus_QUEUE, x.dm.cmds.length),
      (Fld.dmStatus_RESULT, x.dm.lastResult), (Fld.dmStatus_DONE_SEQ, x.dm.doneSeq)]
  | .dmChan => withFields w [(Fld.dmChan_BUSY, flag (x.dm.busy i))]
  | .lnkStat => if x.sys.fuses.links ≤ i then 0 else
      withFields w [(Fld.lnkStat_FAILS, min 3 ((x.port i).fails.filter fun a => decide (x.time17 / 17 < a + 60000000000)).length)]
  | .lnkCtl | .lnkCfg | .lnkPartner | .lnkPartnerSn | .lnkErr | .lnkCntRetry | .lnkCntFec | .lnkCntDrop | .lnkLane =>
    if x.sys.fuses.links ≤ i then 0 else w
  | .rtrStat => withFields w [(Fld.rtrStat_LARGE, x.fget Fld.licStat_FABRIC)]
  | .rtrCollStat => withFields w [(Fld.rtrCollStat_QUEUE, x.rtr.collQ.length + x.rtr.coll.length)]
  | .rtrPortStat => withFields w [(Fld.rtrPortStat_ROUTED, flag (decide (x.why i = 0))), (Fld.rtrPortStat_WHY, x.why i)]
  | .dbgMarkSel => w &&& 0xE7E7E7E7
  | .dbgBrk => withFields w [(Fld.dbgBrk_COUNT, x.heldGroups)]
  | .dbgEngBusy => x.engCounter i 0
  | .dbgEngStall => x.engCounter i 1
  | .dbgEngIdle => x.engCounter i 2
  | .dbgEngRsel => if x.engPresent i then (sget Rec.init x.eng i).rsel else 0
  | .dbgEngRcntA => x.engCounter i 3
  | .dbgEngRcntB => x.engCounter i 4
  | .dbgEngX0 => x.engCounter i 5
  | .dbgEngX1 => x.engCounter i 6
  | .mgtStat => withFields w [(Fld.mgtStat_PEER_OK, flag x.peerOk)]
  | .fusPos => x.posEntry i
  | .hngStat => withFields w [(Fld.hngStat_STATE, hingeState x (s.tw t.other))]
  | .brkSchedStat | .brkPlace | .brkArray | .brkArrayStat | .brkTpStat | .brkTpKsteps | .brkTpTiles | .brkRtStat | .brkRtCount
  | .brkL1Stat | .brkL1Cnt | .brkVportStat | .brkEvStat | .brkEvData | .brkEvCtl | .brkEngBusy | .brkEngStall | .brkEngIdle
  | .brkEngRsel | .brkEngRcntA | .brkEngRcntB | .brkEngX0 | .brkEngX1 => x.readBrick r i j
  | _ => w

end Sys2Proof.Machine
end

