-- ==== Sys2Proof/Machine/Regs.lean ====
section
/-! DEFINITION. Accesses to the control space (R7 to R12, R30, R482, R483, R659): reads and writes of a register by the driver and by
the management controller. A write that a command of its own describes acts as that command does. -/

namespace Sys2Proof.Machine

open Sys2Proof

/-! Writes. -/

/-- The state after a command. -/
def after (f : State → Res) (s : State) : State := match f s with
  | .next s' => s'
  | _ => s

/-- The bits of a register's fields of some access codes. -/
def Reg.mask (r : Reg) (p : Acc → Bool) : Nat :=
  r.info.flds.foldl (fun a f => if p f.acc then a + ((2 ^ (f.hi + 1 - f.lo) - 1) <<< f.lo) else a) 0

/-- What a write of the bits of `m` amounts to (R482): RW and RWL fields outside it keep their value, others are not written. -/
def Tower.effective64 (x : Tower) (r : Reg) (i j v m : Nat) : Nat :=
  let old := x.reg r i j &&& r.mask fun a => decide (a = .rw) || decide (a = .rwl)
  (v &&& m) + (old - (old &&& m))

/-- 1 clears a W1C bit (R8, R9). -/
def Tower.clearW1c (x : Tower) (r : Reg) (i v : Nat) : Tower := x.clearBits r i (v &&& r.mask fun a => decide (a = .w1c))

/-- Sets a field unless its value is one that the field ignores. -/
def Tower.fsetUnless (x : Tower) (bad : Bool) (f : Fld) (v : Nat) (i : Nat := 0) : Tower := if bad then x else x.fset f v i

/-- A write of `RST_CTL` acts on the widest of its action bits (R605). -/
def rstCtlWrite (t : TowerId) (who : RegBy) (e : Nat) (s : State) : State :=
  if e.testBit 63 then after (execRstCtlWarm t who) s
  else if e.testBit 62 then after (execRstCtlCdr t) s
  else if e.testBit 61 then after (execRstCtlBrick t (BitVec.ofNat 10 e)) s
  else s

/-- A write of `PWR_CAP` (R553). -/
def Tower.capWrite (x : Tower) (e : Nat) : Tower :=
  let c := bits e 47 32
  let x := (x.fsetUnless (decide (c < 500) || decide (1350 < c)) Fld.pwrCap_CAP_W c).fset Fld.pwrCap_EN (e % 2)
  if e % 2 = 0 then x.fset Fld.pwrCap_LEVEL 0 else x

/-- A write of `LLC_CFG` while it is open (R307). -/
def Tower.llcWrite (x : Tower) (e : Nat) : Tower :=
  if x.fget Fld.llcCfg_LOCK = 1 then x
  else (x.fsetUnless (decide (e % 16 = 15)) Fld.llcCfg_PINNED (e % 16)).fset Fld.llcCfg_LOCK (bits e 63 63)

/-- A write of a test register of the ECC block (R395, R406): from the management controller alone. -/
def testRegWrite (t : TowerId) (who : RegBy) (r : Reg) (i e : Nat) (s : State) : State :=
  if who ≠ .mgmt then s.modTw t fun x => x.fset Fld.eccTestCtl_RESULT 4
  else if r = .eccTestCtl ∧ (bits e 62 61 = 1 ∨ bits e 62 61 = 2) then rawOp (decide (bits e 62 61 = 1)) t who (BitVec.ofNat 64 e) s
  else s.modTw t fun x => x.writeRw r i 0 e (2 ^ 64 - 1)

/-- A write of `ECC_SCRUB_BASE`, `LIMIT` or `REC` is ignored while a pass runs; of `ECC_SCRUB_CTL`, GO and ABORT act (R405). -/
def scrubWrite (t : TowerId) (r : Reg) (e : Nat) (s : State) : State :=
  if r = .eccScrubCtl then scrubCtl t (e.testBit 61) (e.testBit 62) (BitVec.ofNat 64 e) s
  else if (s.tw t).mem.scrub.isSome then s
  else s.modTw t fun x => x.writeRw r 0 0 e (2 ^ 64 - 1)

/-- A write of `CP_LT_CFG[n]` (R482, R523); `hi` says that ENABLE is among the written bits. -/
def ltRegWrite (t : TowerId) (n : Nat) (hi : Bool) (e : Nat) (s : State) : State :=
  if hi then ltWrite t n e s
  else if (s.tw t).fget Fld.cpLtStat_STATE n = 1 ∨ (s.tw t).fget Fld.cpLtStat_STATE n = 4 then s
  else s.modTw t fun x => x.fset Fld.cpLtCfg_BASE (bits e 47 7) n

/-- A write of `LNK_CTL` (R434, R435). -/
def lnkCtlWrite (t : TowerId) (p : Fin 8) (e : Nat) (s : State) : State :=
  if !(s.tw t).hasPort p then s
  else
    let s := s.modTw t fun x => (x.fset Fld.lnkCtl_DEFER (bits e 60 60) p).fset Fld.lnkCtl_RECAL_LANE (bits e 59 58) p
    let s := if bits e 63 63 = (s.tw t).fget Fld.lnkCtl_ENABLE p then s else after (execLnkCtlEnable t p (e.testBit 63)) s
    let s := if e.testBit 62 then after (execLnkCtlRetrain t p) s else s
    if e.testBit 61 then linkRecal t p (bits e 59 58) (e.testBit 60) s else s

/-- A write of `LNK_CFG` (R434, R436). -/
def Tower.lnkCfgWrite (x : Tower) (p e : Nat) : Tower :=
  if !x.hasPort p || decide (bits e 63 48 = 0) || decide (bits e 47 44 = 0) || decide (bits e 31 16 = 0) then x
  else x.writeRw .lnkCfg p 0 e (2 ^ 64 - 1)

/-- A write of `RTR_TIME_CFG` (R477). -/
def Tower.timeCfgWrite (x : Tower) (e : Nat) : Tower :=
  if 8 < bits e 59 56 ∨ bits e 15 0 = 0 then x
  else (x.writeRw .rtrTimeCfg 0 0 e (2 ^ 64 - 1)).modRtr fun r => { r with rate := if e.testBit 63 then 0 else r.rate }

/-- A write of `DBG_CTL` (R675). -/
def dbgCtlWrite (t : TowerId) (e : Nat) (s : State) : State :=
  let s := after (execDbgCtlFreeze t (e.testBit 63)) s
  if e.testBit 62 then after (execDbgCtlClear t) s else s

/-- A write of `RSEL` in a counter record (R672). -/
def Rec.select (r : Rec) (e : Nat) : Rec := { r with selA := bits e 5 0, selB := bits e 13 8 }

/-- A write of `FUS_SERVICE` (R640). -/
def serviceWrite (t : TowerId) (who : RegBy) (e : Nat) (s : State) : State := match bits e 63 62 with
  | 1 => after (execFusServiceLockOut t who (BitVec.ofNat 10 e)) s
  | 2 => after (execFusServiceClear t who (BitVec.ofNat 10 e)) s
  | _ => s

/-- A write of `FUS_TEST_REQ` (R641). -/
def testReqWrite (t : TowerId) (e : Nat) (s : State) : State := match bits e 63 62 with
  | 1 => after (execFusTestBrick t (BitVec.ofNat 10 e) (e.testBit 61)) s
  | 2 => after (execFusTestHbmCalibration t (BitVec.ofNat 10 e)) s
  | _ => s

/-- A write of `LIC_INSTALL` (R643). The programming of the store succeeds at its first try. -/
def licWrite (t : TowerId) (who : RegBy) (e : Nat) (s : State) : State := match bits e 63 62 with
  | 1 => after (execLicInstall t who (BitVec.ofNat 41 (bits e 47 7)) 0) s
  | 2 => after (execLicRemove t who (BitVec.ofNat 2 e) 0) s
  | _ => s

/-- A write of a register of a tower (R8): `v` in the bits of `m`. Registers and fields not named here are RO. -/
def State.writeReg (s : State) (t : TowerId) (who : RegBy) (r : Reg) (i j v m : Nat) : State :=
  let x := s.tw t
  let e := x.effective64 r i j v m
  let w := BitVec.ofNat 64 e
  let lo := m.testBit 0
  let hi := m.testBit 63
  let all := 2 ^ 64 - 1
  let onTw := fun (f : Tower → Tower) => s.modTw t f
  let wide := fun (f : State → Res) => if lo && hi then after f s else s
  match r with
  | .rstCtl => rstCtlWrite t who e s
  | .rstCfg => onTw fun x => (x.fsetUnless (decide (bits e 63 56 = 0)) Fld.rstCfg_QUIESCE_MS (bits e 63 56)).fset
      Fld.rstCfg_CD_SELFTEST (bits e 55 55)
  | .rstGstop => gstopWrite t e s
  | .rstStat | .pwrFault | .thmEvent | .eccInt | .mgtStat | .dbgTraceStat => onTw fun x => x.clearW1c r i e
  | .lnkErr => onTw fun x => if x.hasPort i then x.clearW1c r i e else x
  | .pwrCap => onTw fun x => x.capWrite e
  | .pwrSenseSel => if lo then after (execPwrSenseSelWrite t w) s else s
  | .pwrRegion => if h : i < 72 then after (execPwrRegionModeWrite t ⟨i, h⟩ w) s else s
  | .pwrVmin => if h : i < 80 then (if e.testBit 63 then after (execPwrVminClear t ⟨i, h⟩) s else s) else s
  | .eccCtl | .cpLtCpl | .rtrDetour | .dbgTraceTrig => onTw fun x => x.writeRw r i j e all
  | .dbgMarkSel => onTw fun x => x.setReg r 0 0 (e &&& 0xE7E7E7E7)
  | .eccRetireDel => wide (execEccRetireDel t who w)
  | .eccScrubBase | .eccScrubLimit | .eccScrubRec | .eccScrubCtl => scrubWrite t r e s
  | .eccTestCtl | .eccTestChk | .eccTestData => testRegWrite t who r i e s
  | .eccCeBucket => if h : i < 8 then after (execEccCeBucketWrite t ⟨i, h⟩ w) s else s
  | .cpCfg => onTw fun x => (x.fsetUnless (decide (bits e 63 48 = 0)) Fld.cpCfg_DEF_TIMEOUT_MS (bits e 63 48)).fset
      Fld.cpCfg_MAX_REISSUE (bits e 47 44)
  | .cpAbort => if lo then after (execCpAbort t w) s else s
  | .cpLtCfg => ltRegWrite t i hi e s
  | .cpHostCfg => onTw fun x =>
      x.fsetUnless (decide (bits e 63 48 = 0) || decide (t = .t1)) Fld.cpHostCfg_BI_TIMEOUT_US (bits e 63 48)
  | .llcCfg => onTw fun x => x.llcWrite e
  | .llcSrSeed => if lo then after (execLlcSrSeed t w) s else s
  | .llcWatchAdd => wide (execLlcWatchAdd t w)
  | .llcWatchDel => wide (execLlcWatchDel t w)
  | .hbmReg => after (execHbmRegWrite t w) s
  | .hbmMaster => if h : i < 32 then after (execHbmMasterWrite t ⟨i, h⟩ w) s else s
  | .nbuSubmit => wide (execNbuSubmit t w)
  | .dmSubmit => wide (execDmSubmit t w)
  | .dmChan | .dmChanSeq => onTw fun x => if x.dm.busy i then x else x.writeRw r i 0 e all
  | .lnkCtl => if h : i < 8 then lnkCtlWrite t ⟨i, h⟩ e s else s
  | .lnkCfg => onTw fun x => x.lnkCfgWrite i e
  | .rtrCfg => onTw fun x => x.rtrWrite e
  | .rtrTimeCfg => onTw fun x => x.timeCfgWrite e
  | .rtrCollSubmit => wide (execRtrCollSubmit t w)
  | .rtrTopo | .rtrTopoSn => onTw fun x => x.topoWrite r i e
  | .rtrAdmitBase | .rtrAdmitLimit | .mgtProtCfg | .mgtHwin | .mgtKwinBase | .mgtKwinLimit =>
    if who = .mgmt then onTw fun x => x.writeRw r i j e all else s
  | .dbgCtl => dbgCtlWrite t e s
  | .dbgTraceCtl => traceCtl t e s
  | .dbgTraceBase | .dbgExportDst => onTw fun x => x.traceReg r e
  | .dbgTraceSize => onTw fun x => x.traceReg r (bits e 20 0)
  | .dbgBrk => if e.testBit 63 then after (execDbgBrkResume t) s else s
  | .dbgPeekCtl => onTw fun x => x.peekWrite e
  | .dbgEngRsel => if lo then onTw fun x => if x.engPresent i then { x with eng := smod Rec.init x.eng i fun q => q.select e } else x
      else s
  | .fusService => serviceWrite t who e s
  | .fusTestReq => testReqWrite t e s
  | .fusTime => after (execFusTimeWrite t who w) s
  | .licInstall => if lo && hi then licWrite t who e s else s
  | .brkEvCtl => if h : i < 576 then
      (if e.testBit 63 && x.enabled.getLsbD i then after (execBrkEvSkip ⟨t, ⟨i, h⟩⟩) s else s) else s
  | .brkEngRsel => if lo then onTw fun x =>
      if x.enabled.getLsbD i then x.modBrick i fun b => { b with recs := smod Rec.init b.recs j fun q => q.select e } else x
      else s
  | _ => s

/-! The control space. -/

/-- A request of 4 or 8 bytes, naturally aligned (R482). -/
def sizeOk (off bytes : Nat) : Bool := (decide (bytes = 4) || decide (bytes = 8)) && decide (off % bytes = 0)

/-- The bits of its register that a request reaches. -/
def halfMask (off bytes : Nat) : Nat := if bytes = 8 then 2 ^ 64 - 1 else if off % 8 = 4 then (2 ^ 32 - 1) <<< 32 else 2 ^ 32 - 1

/-- A register holds a WO field that spans both halves (R482). -/
def Reg.spansWo (r : Reg) : Bool := r.info.flds.any fun f => decide (f.acc = .wo) && decide (f.lo < 32) && decide (32 ≤ f.hi)

/-- The value of a control-space offset (R30). -/
def State.readOff (s : State) (t : TowerId) (off : Nat) : Nat := match regAt off with
  | some (r, i, j) => s.readReg t r i j
  | none => 0

/-- What a read of an offset takes with it: the entry at stage 0 of an event FIFO (R684). -/
def readEffect (t : TowerId) (off : Nat) (s : State) : State := match regAt off with
  | some (.brkEvData, k, _) => if h : k < 576 then
      (if (s.tw t).enabled.getLsbD k then after (execBrkEvDataRead ⟨t, ⟨k, h⟩⟩) s else s) else s
  | _ => s

/-- A request's data from the value of its register. -/
def halfOf (off bytes v : Nat) : Nat := if bytes = 8 then v else if off % 8 = 4 then bits v 63 32 else bits v 31 0

/-- The tower and control-space offset of a BAR0 offset (R481). -/
def barTower (off : Nat) : TowerId := if off < 0x4000000 then .t0 else .t1
def barOff (off : Nat) : Nat := off % 0x4000000

/-- A BAR0 request lies in an enabled host window that grants its kind, where windows apply (R659, R667). -/
def Tower.hwinOk (x : Tower) (off : Nat) (write : Bool) : Bool :=
  decide (x.fget Fld.mgtProtCfg_HWIN_EN = 0) || (List.range 8).any fun w =>
    decide (x.fget (if write then Fld.mgtHwin_WR else Fld.mgtHwin_RD) w = 1) && decide (x.fget Fld.mgtHwin_FIRST w ≤ off / 65536) &&
      decide (off / 65536 ≤ x.fget Fld.mgtHwin_LAST w)

/-- A request that a host window refuses (R659). -/
def State.deny (s : State) (t : TowerId) : State := s.modTw t fun x => x.fadd Fld.mgtProtCfg_HOST_DENY 1

/-- The control space of a tower does not answer the host (R483): during a warm tower reset, and while nothing of it has power. -/
def Tower.barGone (x : Tower) : Bool := !x.mgmtAlive || x.warmActive

/-- `HOST_BAR_READ` (R482, R483, R659): a read of the control space through BAR0. -/
def execHostBarRead (off : BitVec 28) (bytes : Nat) (s : State) : Res :=
  let o := off.toNat
  let t := barTower o
  let x := s.tw t
  if !s.host.up ∨ 0x8000000 ≤ o then .next s
  else if !sizeOk o bytes then .next (s.refuse.send (.barData o none))
  else if x.barGone then .next (s.refuse.send (.barData o (some (2 ^ (8 * bytes) - 1))))
  else if !x.hwinOk o false then .next ((s.deny t).send (.barData o (some 0)))
  else
    let b := barOff o
    .next ((readEffect t (b / 8 * 8) s).send (.barData o (some (halfOf b bytes (s.readOff t (b / 8 * 8))))))

/-- A write of an offset of a tower's control space, whose size and alignment hold (R30, R482). -/
def ctlWrite (t : TowerId) (who : RegBy) (off bytes : Nat) (v : Word) (s : State) : State :=
  match regAt (off / 8 * 8) with
  | none => s
  | some (r, i, j) =>
    if bytes = 4 ∧ r.spansWo then (if who = .driver then s.refuse else s)
    else
      let n := if bytes = 8 then v.toNat else v.toNat % 2 ^ 32 * (if off % 8 = 4 then 2 ^ 32 else 1)
      s.writeReg t who r i j n (halfMask off bytes)

/-- `REGISTER_WRITE` (R8, R30, R482, R483, R659): a write by the driver through BAR0, or by the tower's management controller. -/
def execRegisterWrite (t : TowerId) (who : RegBy) (off : BitVec 28) (bytes : Nat) (v : Word) (s : State) : Res :=
  let o := off.toNat
  let x := s.tw t
  if 0x4000000 ≤ o then .next s
  else if who = .mgmt then .next (if x.mgmtAlive && sizeOk o bytes then ctlWrite t who o bytes v s else s)
  else if !s.host.up then .next s
  else if !sizeOk o bytes then .next s.refuse
  else if x.barGone then .next s.refuse
  else if !x.hwinOk (o + t.nat * 0x4000000) true then .next (s.deny t)
  else .next (ctlWrite t who o bytes v s)

end Sys2Proof.Machine
end

