-- ==== Sys2Proof/Machine/Dispatch.lean ====
section
/-! DEFINITION. The effect of a command: one arm per row of the table of operations and events, each one direct call of
that command's meaning. -/

namespace Sys2Proof.Machine

open Sys2Proof

def exec (i : Instr) (s : State) : Host.Outcome State Fault Refusal :=
  match i with
  | .nop g w => Sys2Proof.Machine.execNop g w s
  | .brRel g w => Sys2Proof.Machine.execBrRel g w s
  | .brReg g w => Sys2Proof.Machine.execBrReg g w s
  | .callRel g w => Sys2Proof.Machine.execCallRel g w s
  | .callReg g w => Sys2Proof.Machine.execCallReg g w s
  | .ret g w => Sys2Proof.Machine.execRet g w s
  | .exit g w => Sys2Proof.Machine.execExit g w s
  | .yield g w => Sys2Proof.Machine.execYield g w s
  | .trap g w => Sys2Proof.Machine.execTrap g w s
  | .brkpt g w => Sys2Proof.Machine.execBrkpt g w s
  | .sleep g w => Sys2Proof.Machine.execSleep g w s
  | .iadd g w => Sys2Proof.Machine.execIadd g w s
  | .isub g w => Sys2Proof.Machine.execIsub g w s
  | .iaddc g w => Sys2Proof.Machine.execIaddc g w s
  | .imul g w => Sys2Proof.Machine.execImul g w s
  | .imulh g w => Sys2Proof.Machine.execImulh g w s
  | .imac g w => Sys2Proof.Machine.execImac g w s
  | .imac64 g w => Sys2Proof.Machine.execImac64 g w s
  | .iadd64 g w => Sys2Proof.Machine.execIadd64 g w s
  | .imin g w => Sys2Proof.Machine.execImin g w s
  | .imax g w => Sys2Proof.Machine.execImax g w s
  | .iabs g w => Sys2Proof.Machine.execIabs g w s
  | .dot4 g w => Sys2Proof.Machine.execDot4 g w s
  | .tern g w => Sys2Proof.Machine.execTern g w s
  | .shl g w => Sys2Proof.Machine.execShl g w s
  | .shr g w => Sys2Proof.Machine.execShr g w s
  | .dsh g w => Sys2Proof.Machine.execDsh g w s
  | .xfield g w => Sys2Proof.Machine.execXfield g w s
  | .ifield g w => Sys2Proof.Machine.execIfield g w s
  | .ones g w => Sys2Proof.Machine.execOnes g w s
  | .lzc g w => Sys2Proof.Machine.execLzc g w s
  | .bitrev g w => Sys2Proof.Machine.execBitrev g w s
  | .bytesel g w => Sys2Proof.Machine.execBytesel g w s
  | .pcmpI g w => Sys2Proof.Machine.execPcmpI g w s
  | .pcmpF g w => Sys2Proof.Machine.execPcmpF g w s
  | .pcmpH g w => Sys2Proof.Machine.execPcmpH g w s
  | .pfun g w => Sys2Proof.Machine.execPfun g w s
  | .sel g w => Sys2Proof.Machine.execSel g w s
  | .predw g w => Sys2Proof.Machine.execPredw g w s
  | .wpred g w => Sys2Proof.Machine.execWpred g w s
  | .tally g w => Sys2Proof.Machine.execTally g w s
  | .xlane g w => Sys2Proof.Machine.execXlane g w s
  | .mov g w => Sys2Proof.Machine.execMov g w s
  | .mov64 g w => Sys2Proof.Machine.execMov64 g w s
  | .getsr g w => Sys2Proof.Machine.execGetsr g w s
  | .putsr g w => Sys2Proof.Machine.execPutsr g w s
  | .uniMov g w => Sys2Proof.Machine.execUniMov g w s
  | .uniAdd g w => Sys2Proof.Machine.execUniAdd g w s
  | .uniMul g w => Sys2Proof.Machine.execUniMul g w s
  | .uniTern g w => Sys2Proof.Machine.execUniTern g w s
  | .uniSh g w => Sys2Proof.Machine.execUniSh g w s
  | .uniCmp g w => Sys2Proof.Machine.execUniCmp g w s
  | .fadd g w => Sys2Proof.Machine.execFadd g w s
  | .fmul g w => Sys2Proof.Machine.execFmul g w s
  | .fmac g w => Sys2Proof.Machine.execFmac g w s
  | .fmin g w => Sys2Proof.Machine.execFmin g w s
  | .fmax g w => Sys2Proof.Machine.execFmax g w s
  | .vaddH g w => Sys2Proof.Machine.execVaddH g w s
  | .vmulH g w => Sys2Proof.Machine.execVmulH g w s
  | .vmacH g w => Sys2Proof.Machine.execVmacH g w s
  | .vminH g w => Sys2Proof.Machine.execVminH g w s
  | .vmaxH g w => Sys2Proof.Machine.execVmaxH g w s
  | .cvt g w => Sys2Proof.Machine.execCvt g w s
  | .cvtpk g w => Sys2Proof.Machine.execCvtpk g w s
  | .cvtupk g w => Sys2Proof.Machine.execCvtupk g w s
  | .mxpack g w => Sys2Proof.Machine.execMxpack g w s
  | .mxunpack g w => Sys2Proof.Machine.execMxunpack g w s
  | .fint g w => Sys2Proof.Machine.execFint g w s
  | .trans g w => Sys2Proof.Machine.execTrans g w s
  | .ldSp g w => Sys2Proof.Machine.execLdSp g w s
  | .stSp g w => Sys2Proof.Machine.execStSp g w s
  | .ldCsp g w => Sys2Proof.Machine.execLdCsp g w s
  | .stCsp g w => Sys2Proof.Machine.execStCsp g w s
  | .ldG g w => Sys2Proof.Machine.execLdG g w s
  | .stG g w => Sys2Proof.Machine.execStG g w s
  | .prefetchG g w => Sys2Proof.Machine.execPrefetchG g w s
  | .atomSp g w => Sys2Proof.Machine.execAtomSp g w s
  | .atomCsp g w => Sys2Proof.Machine.execAtomCsp g w s
  | .atomG g w => Sys2Proof.Machine.execAtomG g w s
  | .redG g w => Sys2Proof.Machine.execRedG g w s
  | .fence g w => Sys2Proof.Machine.execFence g w s
  | .barSync g w => Sys2Proof.Machine.execBarSync g w s
  | .barArrive g w => Sys2Proof.Machine.execBarArrive g w s
  | .barWait g w => Sys2Proof.Machine.execBarWait g w s
  | .mxWload g w => Sys2Proof.Machine.execMxWload g w s
  | .mxSwap g w => Sys2Proof.Machine.execMxSwap g w s
  | .mxStream g w => Sys2Proof.Machine.execMxStream g w s
  | .mxDrain g w => Sys2Proof.Machine.execMxDrain g w s
  | .mxMma g w => Sys2Proof.Machine.execMxMma g w s
  | .mxBatch g w => Sys2Proof.Machine.execMxBatch g w s
  | .tpIssue g w => Sys2Proof.Machine.execTpIssue g w s
  | .rtIssue g w => Sys2Proof.Machine.execRtIssue g w s
  | .nbuIssue g w => Sys2Proof.Machine.execNbuIssue g w s
  | .engWait g w => Sys2Proof.Machine.execEngWait g w s
  | .engPoll g w => Sys2Proof.Machine.execEngPoll g w s
  | .markPush g w => Sys2Proof.Machine.execMarkPush g w s
  | .markPop g w => Sys2Proof.Machine.execMarkPop g w s
  | .evBegin g w => Sys2Proof.Machine.execEvBegin g w s
  | .evPut g w => Sys2Proof.Machine.execEvPut g w s
  | .evEnd g w => Sys2Proof.Machine.execEvEnd g w s
  | .sleepExpiry g => Sys2Proof.Machine.execSleepExpiry g s
  | .branchGapExpiry g => Sys2Proof.Machine.execBranchGapExpiry g s
  | .l1InputAccept b sched victims => Sys2Proof.Machine.execL1InputAccept b sched victims s
  | .loadResponse b op victims => Sys2Proof.Machine.execLoadResponse b op victims s
  | .l1FillArrival b src => Sys2Proof.Machine.execL1FillArrival b src s
  | .barrierPhaseComplete b block key => Sys2Proof.Machine.execBarrierPhaseComplete b block key s
  | .cspAccessAtTarget b k => Sys2Proof.Machine.execCspAccessAtTarget b k s
  | .vportReadPerform b k => Sys2Proof.Machine.execVportReadPerform b k s
  | .vportWritePerform b k => Sys2Proof.Machine.execVportWritePerform b k s
  | .vportWriteAck b k => Sys2Proof.Machine.execVportWriteAck b k s
  | .blockDelivery t num => Sys2Proof.Machine.execBlockDelivery t num s
  | .blockPlacement b => Sys2Proof.Machine.execBlockPlacement b s
  | .clusterPlacement t course launch clusterId => Sys2Proof.Machine.execClusterPlacement t course launch clusterId s
  | .mxLoadExecute b => Sys2Proof.Machine.execMxLoadExecute b s
  | .mxLoadComplete b => Sys2Proof.Machine.execMxLoadComplete b s
  | .mxSwapExecute b => Sys2Proof.Machine.execMxSwapExecute b s
  | .mxStreamExecute b => Sys2Proof.Machine.execMxStreamExecute b s
  | .mxStreamComplete b => Sys2Proof.Machine.execMxStreamComplete b s
  | .mxDrainExecute b => Sys2Proof.Machine.execMxDrainExecute b s
  | .mxDrainComplete b => Sys2Proof.Machine.execMxDrainComplete b s
  | .mxMmaResult b => Sys2Proof.Machine.execMxMmaResult b s
  | .batchDeadline b batch => Sys2Proof.Machine.execBatchDeadline b batch s
  | .batchEntryExecute b => Sys2Proof.Machine.execBatchEntryExecute b s
  | .tpEntryStart b => Sys2Proof.Machine.execTpEntryStart b s
  | .tpDescriptorArrival b victim => Sys2Proof.Machine.execTpDescriptorArrival b victim s
  | .tpControlDataArrival b => Sys2Proof.Machine.execTpControlDataArrival b s
  | .tpStagingFill b => Sys2Proof.Machine.execTpStagingFill b s
  | .tpKstep b => Sys2Proof.Machine.execTpKstep b s
  | .tpTileDrain b => Sys2Proof.Machine.execTpTileDrain b s
  | .tpRunningFailure b => Sys2Proof.Machine.execTpRunningFailure b s
  | .tpComplete b => Sys2Proof.Machine.execTpComplete b s
  | .rtDescriptorStart t c => Sys2Proof.Machine.execRtDescriptorStart t c s
  | .rtGatingLineCount t c => Sys2Proof.Machine.execRtGatingLineCount t c s
  | .rtGatherRow t c => Sys2Proof.Machine.execRtGatherRow t c s
  | .rtLengthWordWrite t c => Sys2Proof.Machine.execRtLengthWordWrite t c s
  | .rtCombineRow t c => Sys2Proof.Machine.execRtCombineRow t c s
  | .rtFailure t c => Sys2Proof.Machine.execRtFailure t c s
  | .rtComplete t c => Sys2Proof.Machine.execRtComplete t c s
  | .nbuSubmit t v => Sys2Proof.Machine.execNbuSubmit t v s
  | .nbuDispatchHead t => Sys2Proof.Machine.execNbuDispatchHead t s
  | .nbuDescriptorArrival t => Sys2Proof.Machine.execNbuDescriptorArrival t s
  | .nbuDelivery t => Sys2Proof.Machine.execNbuDelivery t s
  | .nbuStepStart t c => Sys2Proof.Machine.execNbuStepStart t c s
  | .nbuLineAccess t c => Sys2Proof.Machine.execNbuLineAccess t c s
  | .nbuChainPartialArrival t c => Sys2Proof.Machine.execNbuChainPartialArrival t c s
  | .nbuStatisticReturn t c => Sys2Proof.Machine.execNbuStatisticReturn t c s
  | .nbuRunningFailure t => Sys2Proof.Machine.execNbuRunningFailure t s
  | .nbuCommandComplete t seq => Sys2Proof.Machine.execNbuCommandComplete t seq s
  | .llcDeviceRead b k => Sys2Proof.Machine.execLlcDeviceRead b k s
  | .llcDeviceWrite b k => Sys2Proof.Machine.execLlcDeviceWrite b k s
  | .llcNarrowWrite b k => Sys2Proof.Machine.execLlcNarrowWrite b k s
  | .mergeEntryTimeout t k => Sys2Proof.Machine.execMergeEntryTimeout t k s
  | .llcFillInstall t line => Sys2Proof.Machine.execLlcFillInstall t line s
  | .visitorInvalidationReceipt t k => Sys2Proof.Machine.execVisitorInvalidationReceipt t k s
  | .visitorInvalidationAck t k => Sys2Proof.Machine.execVisitorInvalidationAck t k s
  | .llcAtomic b k host poison => Sys2Proof.Machine.execLlcAtomic b k host poison s
  | .llcReduction t k => Sys2Proof.Machine.execLlcReduction t k s
  | .reductionLockClear t line => Sys2Proof.Machine.execReductionLockClear t line s
  | .deadLineDrop t k => Sys2Proof.Machine.execDeadLineDrop t k s
  | .hostMemrd hpa mv => Sys2Proof.Machine.execHostMemrd hpa mv s
  | .hostMemwr hpa mv data mask poison => Sys2Proof.Machine.execHostMemwr hpa mv data mask poison s
  | .bisnpResponse t line shared lo hi => Sys2Proof.Machine.execBisnpResponse t line shared lo hi s
  | .bisnpTimeout t line => Sys2Proof.Machine.execBisnpTimeout t line s
  | .llcWatchAdd t v => Sys2Proof.Machine.execLlcWatchAdd t v s
  | .llcWatchDel t v => Sys2Proof.Machine.execLlcWatchDel t v s
  | .watchOperationResult t => Sys2Proof.Machine.execWatchOperationResult t s
  | .llcSrSeed t v => Sys2Proof.Machine.execLlcSrSeed t v s
  | .hbmGrant t k cands rows perr => Sys2Proof.Machine.execHbmGrant t k cands rows perr s
  | .hbmThrottleUpdate t => Sys2Proof.Machine.execHbmThrottleUpdate t s
  | .hbmRefresh t k => Sys2Proof.Machine.execHbmRefresh t k s
  | .hbmRegWrite t v => Sys2Proof.Machine.execHbmRegWrite t v s
  | .hbmMasterWrite t m v => Sys2Proof.Machine.execHbmMasterWrite t m v s
  | .ceLeak t b => Sys2Proof.Machine.execCeLeak t b s
  | .eccCeBucketWrite t b v => Sys2Proof.Machine.execEccCeBucketWrite t b v s
  | .eccWriteBack t k => Sys2Proof.Machine.execEccWriteBack t k s
  | .eccRetireDel t who v => Sys2Proof.Machine.execEccRetireDel t who v s
  | .eccScrubGo t v => Sys2Proof.Machine.execEccScrubGo t v s
  | .scrubLine t => Sys2Proof.Machine.execScrubLine t s
  | .eccScrubAbort t v => Sys2Proof.Machine.execEccScrubAbort t v s
  | .eccTestRawWrite t who v => Sys2Proof.Machine.execEccTestRawWrite t who v s
  | .eccTestRawRead t who v => Sys2Proof.Machine.execEccTestRawRead t who v s
  | .eccTestComplete t => Sys2Proof.Machine.execEccTestComplete t s
  | .memoryFill t => Sys2Proof.Machine.execMemoryFill t s
  | .flitReceive t p f uncorr corr => Sys2Proof.Machine.execFlitReceive t p f uncorr corr s
  | .retry t p => Sys2Proof.Machine.execRetry t p s
  | .retryTimerExpiry t p => Sys2Proof.Machine.execRetryTimerExpiry t p s
  | .controlResendTimeout t p => Sys2Proof.Machine.execControlResendTimeout t p s
  | .ident t p => Sys2Proof.Machine.execIdent t p s
  | .vcReset t p => Sys2Proof.Machine.execVcReset t p s
  | .vcResetAck t p => Sys2Proof.Machine.execVcResetAck t p s
  | .laneDrop t p => Sys2Proof.Machine.execLaneDrop t p s
  | .laneAdd t p => Sys2Proof.Machine.execLaneAdd t p s
  | .laneAck t p => Sys2Proof.Machine.execLaneAck t p s
  | .laneNak t p => Sys2Proof.Machine.execLaneNak t p s
  | .retrain t p => Sys2Proof.Machine.execRetrain t p s
  | .laneSwitchCodeword t p => Sys2Proof.Machine.execLaneSwitchCodeword t p s
  | .laneRecalComplete t p margin => Sys2Proof.Machine.execLaneRecalComplete t p margin s
  | .autoRecalCheck t p => Sys2Proof.Machine.execAutoRecalCheck t p s
  | .signalDetect t p => Sys2Proof.Machine.execSignalDetect t p s
  | .signalLoss t p => Sys2Proof.Machine.execSignalLoss t p s
  | .trainComplete t p ok perm margins => Sys2Proof.Machine.execTrainComplete t p ok perm margins s
  | .lockAcquire t p ok => Sys2Proof.Machine.execLockAcquire t p ok s
  | .silenceTimeout t p => Sys2Proof.Machine.execSilenceTimeout t p s
  | .lnkCtlEnable t p on => Sys2Proof.Machine.execLnkCtlEnable t p on s
  | .lnkCtlRetrain t p => Sys2Proof.Machine.execLnkCtlRetrain t p s
  | .lnkCtlRecal t p lane defer => Sys2Proof.Machine.execLnkCtlRecal t p lane defer s
  | .messageRoute t src => Sys2Proof.Machine.execMessageRoute t src s
  | .wr t => Sys2Proof.Machine.execWr t s
  | .rd t => Sys2Proof.Machine.execRd t s
  | .wrAck t => Sys2Proof.Machine.execWrAck t s
  | .rdData t => Sys2Proof.Machine.execRdData t s
  | .nak t => Sys2Proof.Machine.execNak t s
  | .error t => Sys2Proof.Machine.execError t s
  | .e2eTimeout t tag => Sys2Proof.Machine.execE2eTimeout t tag s
  | .rtrCollSubmit t v => Sys2Proof.Machine.execRtrCollSubmit t v s
  | .collDescriptorStart t e => Sys2Proof.Machine.execCollDescriptorStart t e s
  | .collChunkSend t e => Sys2Proof.Machine.execCollChunkSend t e s
  | .collData t => Sys2Proof.Machine.execCollData t s
  | .collAck t => Sys2Proof.Machine.execCollAck t s
  | .collResendTimeout t tag => Sys2Proof.Machine.execCollResendTimeout t tag s
  | .collComplete t e => Sys2Proof.Machine.execCollComplete t e s
  | .timeInterval t => Sys2Proof.Machine.execTimeInterval t s
  | .time t => Sys2Proof.Machine.execTime t s
  | .mgmtReq t cfg => Sys2Proof.Machine.execMgmtReq t cfg s
  | .mgmtRsp t => Sys2Proof.Machine.execMgmtRsp t s
  | .topologyCheck t => Sys2Proof.Machine.execTopologyCheck t s
  | .topologyTimeout t => Sys2Proof.Machine.execTopologyTimeout t s
  | .hostBarRead off bytes => Sys2Proof.Machine.execHostBarRead off bytes s
  | .hdmDecoderCommit k base size ways => Sys2Proof.Machine.execHdmDecoderCommit k base size ways s
  | .hostViralSignal => Sys2Proof.Machine.execHostViralSignal s
  | .ideIntegrityFailure => Sys2Proof.Machine.execIdeIntegrityFailure s
  | .cxlLinkReset => Sys2Proof.Machine.execCxlLinkReset s
  | .cxlGo k => Sys2Proof.Machine.execCxlGo k s
  | .cxlSnoop addr => Sys2Proof.Machine.execCxlSnoop addr s
  | .cpLtEnable t n v => Sys2Proof.Machine.execCpLtEnable t n v s
  | .cpLtDisable t n v => Sys2Proof.Machine.execCpLtDisable t n v s
  | .cpWatchNotify t => Sys2Proof.Machine.execCpWatchNotify t s
  | .stateLineArrival t n => Sys2Proof.Machine.execStateLineArrival t n s
  | .launchRecordArrival t => Sys2Proof.Machine.execLaunchRecordArrival t s
  | .kilnDescriptorArrival t entry poison => Sys2Proof.Machine.execKilnDescriptorArrival t entry poison s
  | .brickGrant t => Sys2Proof.Machine.execBrickGrant t s
  | .launchFault t => Sys2Proof.Machine.execLaunchFault t s
  | .launchTimeout t num => Sys2Proof.Machine.execLaunchTimeout t num s
  | .cpAbort t v => Sys2Proof.Machine.execCpAbort t v s
  | .launchReissue t num => Sys2Proof.Machine.execLaunchReissue t num s
  | .launchComplete t num => Sys2Proof.Machine.execLaunchComplete t num s
  | .dmSubmit t v => Sys2Proof.Machine.execDmSubmit t v s
  | .dmDescriptorStart t => Sys2Proof.Machine.execDmDescriptorStart t s
  | .dmBlock t seq host chk poison => Sys2Proof.Machine.execDmBlock t seq host chk poison s
  | .dmComplete t seq => Sys2Proof.Machine.execDmComplete t seq s
  | .inputOutOfRange down => Sys2Proof.Machine.execInputOutOfRange down s
  | .inputReturn => Sys2Proof.Machine.execInputReturn s
  | .railPowerGood t => Sys2Proof.Machine.execRailPowerGood t s
  | .railPowerGoodTimeout t => Sys2Proof.Machine.execRailPowerGoodTimeout t s
  | .vcoreFault t => Sys2Proof.Machine.execVcoreFault t s
  | .vcoreRegulationTimeout t => Sys2Proof.Machine.execVcoreRegulationTimeout t s
  | .railFault t rail => Sys2Proof.Machine.execRailFault t rail s
  | .vhpFault => Sys2Proof.Machine.execVhpFault s
  | .vhpReturn => Sys2Proof.Machine.execVhpReturn s
  | .senseExclusion t p => Sys2Proof.Machine.execSenseExclusion t p s
  | .pwrSenseSelWrite t v => Sys2Proof.Machine.execPwrSenseSelWrite t v s
  | .pwrRegionModeWrite t r v => Sys2Proof.Machine.execPwrRegionModeWrite t r v s
  | .retentionEntry t r => Sys2Proof.Machine.execRetentionEntry t r s
  | .retentionComplete t r => Sys2Proof.Machine.execRetentionComplete t r s
  | .wake t r => Sys2Proof.Machine.execWake t r s
  | .wakeComplete t r => Sys2Proof.Machine.execWakeComplete t r s
  | .autoIdleExpiry t r => Sys2Proof.Machine.execAutoIdleExpiry t r s
  | .ocTrip t r => Sys2Proof.Machine.execOcTrip t r s
  | .ocHoldoffExpiry t r => Sys2Proof.Machine.execOcHoldoffExpiry t r s
  | .pwrVminClear t k => Sys2Proof.Machine.execPwrVminClear t k s
  | .powerCapEvaluate t m => Sys2Proof.Machine.execPowerCapEvaluate t m s
  | .thermalSample t m => Sys2Proof.Machine.execThermalSample t m s
  | .thermalCycleSample t => Sys2Proof.Machine.execThermalCycleSample t s
  | .brickReset b ue => Sys2Proof.Machine.execBrickReset b ue s
  | .brickResetComplete b => Sys2Proof.Machine.execBrickResetComplete b s
  | .computeDomainReset t => Sys2Proof.Machine.execComputeDomainReset t s
  | .cdrQuiesceComplete t => Sys2Proof.Machine.execCdrQuiesceComplete t s
  | .cdrResetRelease t => Sys2Proof.Machine.execCdrResetRelease t s
  | .cdrSelftestComplete t failed => Sys2Proof.Machine.execCdrSelftestComplete t failed s
  | .cdrArrayTestComplete t bad => Sys2Proof.Machine.execCdrArrayTestComplete t bad s
  | .cdrTrainingComplete t ports gates => Sys2Proof.Machine.execCdrTrainingComplete t ports gates s
  | .cdrFillComplete t => Sys2Proof.Machine.execCdrFillComplete t s
  | .quiesceTimeout t => Sys2Proof.Machine.execQuiesceTimeout t s
  | .warmTowerReset t tagErr => Sys2Proof.Machine.execWarmTowerReset t tagErr s
  | .coldReset => Sys2Proof.Machine.execColdReset s
  | .rstCtlWarm t who => Sys2Proof.Machine.execRstCtlWarm t who s
  | .rstCtlCdr t => Sys2Proof.Machine.execRstCtlCdr t s
  | .rstCtlBrick t slice => Sys2Proof.Machine.execRstCtlBrick t slice s
  | .computePllLockLoss t => Sys2Proof.Machine.execComputePllLockLoss t s
  | .basePllLockLoss t => Sys2Proof.Machine.execBasePllLockLoss t s
  | .pllRelock t base => Sys2Proof.Machine.execPllRelock t base s
  | .referenceLoss t => Sys2Proof.Machine.execReferenceLoss t s
  | .referenceLossTimeout t => Sys2Proof.Machine.execReferenceLossTimeout t s
  | .referenceReturn t => Sys2Proof.Machine.execReferenceReturn t s
  | .clockModeSwitch t ok => Sys2Proof.Machine.execClockModeSwitch t ok s
  | .hingeTransfer t ok => Sys2Proof.Machine.execHingeTransfer t ok s
  | .globalStop t v => Sys2Proof.Machine.execGlobalStop t v s
  | .globalStopCut t => Sys2Proof.Machine.execGlobalStopCut t s
  | .globalResume t v => Sys2Proof.Machine.execGlobalResume t v s
  | .mgmtWatchdogExpiry t => Sys2Proof.Machine.execMgmtWatchdogExpiry t s
  | .imageVerify t => Sys2Proof.Machine.execImageVerify t s
  | .fuseRestore t => Sys2Proof.Machine.execFuseRestore t s
  | .logicSelftestComplete t base failed groups => Sys2Proof.Machine.execLogicSelftestComplete t base failed groups s
  | .sramSelftestComplete t arrays slices => Sys2Proof.Machine.execSramSelftestComplete t arrays slices s
  | .hbmTrainingComplete t failed => Sys2Proof.Machine.execHbmTrainingComplete t failed s
  | .memoryTestPattern t => Sys2Proof.Machine.execMemoryTestPattern t s
  | .retentionPauseExpiry t rows => Sys2Proof.Machine.execRetentionPauseExpiry t rows s
  | .keyVerify t => Sys2Proof.Machine.execKeyVerify t s
  | .fusServiceLockOut t who slice => Sys2Proof.Machine.execFusServiceLockOut t who slice s
  | .fusServiceClear t who slice => Sys2Proof.Machine.execFusServiceClear t who slice s
  | .fusTestBrick t slice defer => Sys2Proof.Machine.execFusTestBrick t slice defer s
  | .fusTestHbmCalibration t stack => Sys2Proof.Machine.execFusTestHbmCalibration t stack s
  | .deferredTestStart b => Sys2Proof.Machine.execDeferredTestStart b s
  | .brickTestComplete b pass groups => Sys2Proof.Machine.execBrickTestComplete b pass groups s
  | .hbmCalibrationComplete t stack => Sys2Proof.Machine.execHbmCalibrationComplete t stack s
  | .licInstall t who addr fails => Sys2Proof.Machine.execLicInstall t who addr fails s
  | .licRemove t who feature fails => Sys2Proof.Machine.execLicRemove t who feature fails s
  | .fusTimeWrite t who v => Sys2Proof.Machine.execFusTimeWrite t who v s
  | .fusTimeTick t => Sys2Proof.Machine.execFusTimeTick t s
  | .heartbeat t => Sys2Proof.Machine.execHeartbeat t s
  | .heartbeatLossTakeover => Sys2Proof.Machine.execHeartbeatLossTakeover s
  | .mctpPacket t tr len pkt cfg => Sys2Proof.Machine.execMctpPacket t tr len pkt cfg s
  | .pldmFirmwareUpdate t tr img => Sys2Proof.Machine.execPldmFirmwareUpdate t tr img s
  | .pldmActivateFirmware t tr => Sys2Proof.Machine.execPldmActivateFirmware t tr s
  | .trialEnd t => Sys2Proof.Machine.execTrialEnd t s
  | .spdmRequest t tr req => Sys2Proof.Machine.execSpdmRequest t tr req s
  | .protectionSettingWrite t who off v => Sys2Proof.Machine.execProtectionSettingWrite t who off v s
  | .storeRecordWrite t typ fails cut => Sys2Proof.Machine.execStoreRecordWrite t typ fails cut s
  | .dbgCtlFreeze t on => Sys2Proof.Machine.execDbgCtlFreeze t on s
  | .dbgCtlClear t => Sys2Proof.Machine.execDbgCtlClear t s
  | .brkEvDataRead b => Sys2Proof.Machine.execBrkEvDataRead b s
  | .brkEvSkip b => Sys2Proof.Machine.execBrkEvSkip b s
  | .tracePacketWrite b => Sys2Proof.Machine.execTracePacketWrite b s
  | .dbgTraceEnable t v => Sys2Proof.Machine.execDbgTraceEnable t v s
  | .dbgTraceDisable t v => Sys2Proof.Machine.execDbgTraceDisable t v s
  | .dbgTraceTrigger t v => Sys2Proof.Machine.execDbgTraceTrigger t v s
  | .traceSampleInterval t => Sys2Proof.Machine.execTraceSampleInterval t s
  | .traceChunkExport t => Sys2Proof.Machine.execTraceChunkExport t s
  | .dbgBrkResume t => Sys2Proof.Machine.execDbgBrkResume t s
  | .dbgPeek t v => Sys2Proof.Machine.execDbgPeek t v s
  | .coldRstNAssert => Sys2Proof.Machine.execColdRstNAssert s
  | .perstN low => Sys2Proof.Machine.execPerstN low s
  | .leakDetect => Sys2Proof.Machine.execLeakDetect s
  | .registerWrite t who off bytes v => Sys2Proof.Machine.execRegisterWrite t who off bytes v s
  | .latencyClassExpiry g c => Sys2Proof.Machine.execLatencyClassExpiry g c s
  | .writeAcknowledgement b wid lvl => Sys2Proof.Machine.execWriteAcknowledgement b wid lvl s
  | .instructionCacheFill g victims host poison => Sys2Proof.Machine.execInstructionCacheFill g victims host poison s
  | .flitTransmit t p => Sys2Proof.Machine.execFlitTransmit t p s
  | .collNoMatchResend t tag => Sys2Proof.Machine.execCollNoMatchResend t tag s
  | .hostPortInternalError => Sys2Proof.Machine.execHostPortInternalError s
  | .hostLinkTrained width rate => Sys2Proof.Machine.execHostLinkTrained width rate s
  | .coldRstNRelease => Sys2Proof.Machine.execColdRstNRelease s
  | .leakClear => Sys2Proof.Machine.execLeakClear s
  | .verticalTrainingComplete t ports gates => Sys2Proof.Machine.execVerticalTrainingComplete t ports gates s
  | .dbgPeekComplete t => Sys2Proof.Machine.execDbgPeekComplete t s

end Sys2Proof.Machine
end

