-- ==== Sys2Proof/Machine/Tick.lean ====
section
/-! DEFINITION. The passing of one ARITH cycle with no command: device time, cycle counters, the counters of the engines, and the
pending messages of the module's outputs. The table has no row for a clock; log entry 2 says what a tick does. -/

namespace Sys2Proof.Machine

open Sys2Proof

/-- Device time advances by `n` seventeenths of a nanosecond at the rate of R465 in parts per 10^9; a part left over is
carried. -/
def Tower.advanceTime (x : Tower) (n : Nat) : Tower :=
  let acc := x.rtr.rateAcc + n * x.rtr.rate
  let q := acc / 1000000000
  { x with time17 := x.time17 + ((n : Int) + q).toNat, rtr := { x.rtr with rateAcc := acc - q * 1000000000 } }

/-- Device time over one ARITH cycle of 20/17 ns: from the base-die PLL, or in steps of 40 ns from the oscillator, every 34 cycles
(R35, R589). The management partition counts it. -/
def Tower.tickTime (x : Tower) : Tower :=
  if !x.mgmtAlive then x
  else match x.sys.osc with
    | none => x.advanceTime 20
    | some k =>
      if 33 ≤ k then ({ x with sys := { x.sys with osc := some 0 } }).advanceTime 680
      else { x with sys := { x.sys with osc := some (k + 1) } }

/-- The CYC counter of a brick runs from the first cycle in which the launch holds a resident group (R80). -/
def Brick.tickCyc (b : Brick) : Brick :=
  if b.run.isSome && (decide (0 < b.cyc) || !b.groups.isEmpty) then { b with cyc := b.cyc + 1 } else b

/-- The cycle counts of a tower; they stand still at a global stop (R600) and without power. A region in retention has no clock. -/
def Tower.tickCyc (x : Tower) : Tower :=
  if !x.mgmtAlive || x.gstopped then x
  else { x with
    cyc := x.cyc + 1
    fwd := x.fwd + x.forwarded
    bricks := x.bricks.map fun (p : Nat × Brick) => (p.1, if x.fget Fld.pwrRegion_STATE (p.1 / 8) = 0 then p.2.tickCyc else p.2) }

/-- The end of a MGMT cycle of two ARITH cycles (R9, R35). -/
def Tower.tickMgmt (x : Tower) : Tower := if x.cyc % 2 = 0 then { x with setNow := [] } else x

/-- One cycle of a tower. -/
def Tower.tick (x peer : Tower) : Tower := (x.countTick peer).tickCyc.tickTime.tickMgmt

/-- The messages of a tower that can leave now: MSI-X vectors while the host's link is up, PlatformEventMessages while the
management controller runs its firmware (R492, R649). -/
def Tower.canSend (x : Tower) (up : Bool) (n : Nat) : Bool := if n < 64 then up else x.sys.mgmt.up

/-- The output that carries a pending message. -/
def msgOut (t : TowerId) (n : Nat) : Out := if n < 64 then .msix t (32 * t.nat + n) else .platform t (n - 64)

/-- Sends the messages of a tower that can leave, in the order of their events. -/
def flush (t : TowerId) (s : State) : State :=
  let x := s.tw t
  let up := s.host.up
  let go := x.irq.filter fun n => x.canSend up n
  let s := s.setTw t { x with irq := x.irq.filter fun n => !x.canSend up n }
  { s with out := s.out ++ go.map (msgOut t) }

/-- One ARITH cycle of the module. -/
def State.tick (s : State) : State :=
  let s1 := (s.setTw .t0 (s.t0.tick s.t1)).setTw .t1 (s.t1.tick s.t0)
  flush .t1 (flush .t0 s1)

end Sys2Proof.Machine
end

