-- ==== Sys2Proof/Safety.lean ====
section
/-! DEFINITION. What counts as a safe run, and the whole-machine invariant that statements use. -/

namespace Sys2Proof.Machine

open Sys2Proof

/-- The commands that wait all spell commands, so a step cannot end in `Fault.illFormed`. -/
def State.commandsWf (s : State) : Bool := s.pending.all Instr.wf

/-- The host port as R18, R479 and R481 allow it: its link is up only with its rails good and `PERST_n` high, and every committed
decoder covers a multiple of 256 MiB, the second at most 4,608 MiB. -/
def HostPort.sound (h : HostPort) : Bool :=
  (!h.up || (!h.perst && !h.railBad)) &&
  (match h.dec0 with
    | none => true
    | some d => decide (d.2 % 2 ^ 28 = 0)) &&
  (match h.dec1 with
    | none => true
    | some d => decide (d.2 % 2 ^ 28 = 0) && decide (d.2 ≤ 4608 * 2 ^ 20))

/-- The stored bytes of both towers are in canonical form. -/
def State.memoryWf (s : State) : Bool := Memory.wf s.t0.mem.cells && Memory.wf s.t1.mem.cells

/-- A state the invariants allow. -/
def State.safe (s : State) : Bool := s.host.sound && s.memoryWf

/-! The terms in which statements speak of instructions. -/

/-- The instruction issues now: it is the group's next instruction, the group is eligible, the word is legal and no register it names
has a pending write (R43, R72, R73); the special-function lanes are free when it needs them (R44). `x` is what it sees. -/
def ReadyNow (op : Nat) (o : OpInfo) (g : GroupRef) (w : IWord) (s : State) (x : Ctx) : Prop :=
  prepare op (fun _ => true) o g w s = .go x ∧
    (x.o.cls = .s → (sget Sched.init x.br.scheds g.sched.val).sfu = false)

/-- The group in a slot. -/
def State.group? (s : State) (g : GroupRef) : Option Group := (s.brick g.b).group? (gkey g)

/-- A g register of a thread after writes of some registers: g255 reads zero (R75). -/
def newG (th : Thread) (wr : Nat → Option R32) (n : Nat) : R32 := if n = 255 then 0 else (wr n).getD (rdG th n)

/-- A predicate of a thread after writes of some predicates. -/
def newP (th : Thread) (wr : Nat → Option Bool) (n : Nat) : Bool := (wr n).getD (rdP th n)

/-- The state `t` is `s` but for one group, its scheduler's turn, the order of hits in the instruction cache, and the brick's
counters and generator: every other group, every
block, cache and engine of the brick, every other brick, both towers' memories and registers, the host port and the queue
are as before. -/
def onlyGroup (g : GroupRef) (grp : Group) (s t : State) : Prop :=
  t = s.setBrick g.b { s.brick g.b with
    groups := sset (s.brick g.b).groups (gkey g) grp
    scheds := (t.brick g.b).scheds
    recs := (t.brick g.b).recs
    romru := (t.brick g.b).romru
    sr := (t.brick g.b).sr }

/-- What an instruction that is no branch does to its group (R42 to R44, R64, R72): in every thread of the current subset the program
counter moves past the instruction; in the threads that execute, the registers and predicates that `gr` and `pr` name take their
values; u registers as `ur` names; nothing else of the group changes but the results that become pending. -/
def Wrote (x : Ctx) (gr : Nat → Nat → Option R32) (pr : Nat → Nat → Option Bool) (ur : Nat → Option R32) (s t : State) : Prop :=
  ∃ g0 grp : Group, s.group? x.ref = some g0 ∧ onlyGroup x.ref grp s t ∧
    grp = { g0 with cur := x.cur, threads := grp.threads, u := grp.u, pend := grp.pend } ∧
    grp.threads.length = g0.threads.length ∧
    (∀ l, l < g0.threads.length → grp.thread l =
      { g0.thread l with
        pc := if x.cur.toNat.testBit l then (g0.thread l).pc + BitVec.ofNat 32 x.f.len else (g0.thread l).pc
        g := (grp.thread l).g, p := (grp.thread l).p }) ∧
    (∀ l, l < g0.threads.length → ∀ n, rdG (grp.thread l) n =
      newG (g0.thread l) (if x.exec.toNat.testBit l then gr l else fun _ => none) n) ∧
    (∀ l, l < g0.threads.length → ∀ n, n < 8 → rdP (grp.thread l) n =
      newP (g0.thread l) (if x.exec.toNat.testBit l then pr l else fun _ => none) n) ∧
    (∀ n, rdU grp n = (ur n).getD (rdU g0 n))

/-- One register takes a value. -/
def setsD (d : Nat) (v : R32) : Nat → Option R32 := fun n => if n = d then some v else none

/-- A register pair takes a 64-bit value, bits [31:0] in the even register (R75). -/
def setsPair (d : Nat) (v : Word) : Nat → Option R32 := fun n =>
  if n = d then some (v.setWidth 32) else if n = d + 1 then some ((v >>> 32).setWidth 32) else none

/-- One predicate takes a value. -/
def setsP (d : Nat) (v : Bool) : Nat → Option Bool := fun n => if n = d then some v else none

def noG : Nat → Option R32 := fun _ => none
def noP : Nat → Option Bool := fun _ => none

/-- The instruction runs whenever it is ready, and writes g register D of every executing thread alone, with the value given. -/
def WritesD (mk : GroupRef → IWord → Instr) (op : Nat) (o : OpInfo) (val : Ctx → Nat → R32) : Prop :=
  ∀ g w s x, ReadyNow op o g w s x →
    ∃ t, exec (mk g w) s = .next t ∧ Wrote x (fun l => setsD x.f.d (val x l)) (fun _ => noP) noG s t

/-- An executing lane of an instruction. -/
def Ctx.runs (x : Ctx) (l : Nat) : Prop := l < 32 ∧ x.exec.toNat.testBit l = true

/-- The instruction runs whenever it is ready, and writes g register D of every executing thread alone, with a value as said. -/
def WritesSuch (mk : GroupRef → IWord → Instr) (op : Nat) (o : OpInfo) (good : Ctx → Nat → (Nat → R32) → Prop) : Prop :=
  ∀ g w s x, ReadyNow op o g w s x →
    ∃ t v, exec (mk g w) s = .next t ∧ Wrote x (fun l => setsD x.f.d (v l)) (fun _ => noP) noG s t ∧ ∀ l, x.runs l → good x l v

/-- The number that an encoding of a format stands for (R100): none for a NaN or an infinity. -/
def exactVal (f : FFmt) (b : Nat) : Option Rat :=
  let ex := bits b (f.eb + f.mb - 1) f.mb
  let fr := b % 2 ^ f.mb
  let sg : Rat := if b.testBit (f.eb + f.mb) then -1 else 1
  if (f.kind = .ieee ∧ ex = 2 ^ f.eb - 1) ∨ (f.kind = .e4m3 ∧ ex = 2 ^ f.eb - 1 ∧ fr = 2 ^ f.mb - 1) then none
  else if ex = 0 then some (sg * (fr : Rat) * 2 ^ (1 - (f.bias : Int) - f.mb))
  else some (sg * ((2 ^ f.mb + fr : Nat) : Rat) * 2 ^ ((ex : Int) - f.bias - f.mb))

/-- A NaN and an infinity of an IEEE 754 format. -/
def FFmt.isNan (f : FFmt) (b : Nat) : Prop := bits b (f.eb + f.mb - 1) f.mb = 2 ^ f.eb - 1 ∧ b % 2 ^ f.mb ≠ 0
def FFmt.isInf (f : FFmt) (b : Nat) : Prop := bits b (f.eb + f.mb - 1) f.mb = 2 ^ f.eb - 1 ∧ b % 2 ^ f.mb = 0

/-- An encoding is that of a number. -/
def FFmt.encodes (f : FFmt) (b : Nat) (p : Rat) : Prop := b < 2 ^ (f.eb + f.mb + 1) ∧ exactVal f b = some p

/-- One unit in the last place of an FP32 number. -/
def ulp32 (b : Nat) : Rat := 2 ^ (((max (bits b 30 23) 1 : Nat) : Int) - 150)

/-- The same for an instruction that writes predicate D. -/
def WritesP (mk : GroupRef → IWord → Instr) (op : Nat) (o : OpInfo) (val : Ctx → Nat → Bool) : Prop :=
  ∀ g w s x, ReadyNow op o g w s x →
    ∃ t, exec (mk g w) s = .next t ∧ Wrote x (fun _ => noG) (fun l => setsP x.f.d (val x l)) noG s t

/-- The same for an instruction of class U: u register D takes the value of the lowest lane of the current subset (R49, R94). -/
def WritesU (mk : GroupRef → IWord → Instr) (op : Nat) (o : OpInfo) (val : Ctx → Nat → R32) : Prop :=
  ∀ g w s x, ReadyNow op o g w s x →
    ∃ t, exec (mk g w) s = .next t ∧ Wrote x (fun _ => noG) (fun _ => noP) (setsD x.f.d (val x x.low)) s t

/-- The same for an instruction that writes D or a D pair and, when MOD[6] is 1, its carry-out to predicate PC (R84). -/
def WritesC (mk : GroupRef → IWord → Instr) (op : Nat) (o : OpInfo) (gr : Ctx → Nat → Nat → Option R32)
    (carry : Ctx → Nat → Bool) : Prop :=
  ∀ g w s x, ReadyNow op o g w s x →
    ∃ t, exec (mk g w) s = .next t ∧
      Wrote x (gr x) (fun l => if x.f.mod.testBit 6 then setsP (bits x.f.mod 5 3) (carry x l) else noP) noG s t

/-- What a control-flow instruction does to its group (R44, R64, R112): an executing thread goes to its target, after writing its
return offset to D when the instruction calls; the other threads of the current subset move past the instruction; the branch gap
opens. Registers, predicates, other threads and other groups are as before. -/
def Branched (x : Ctx) (call : Bool) (sleep : Option Nat) (target : Nat → R32) (s t : State) : Prop :=
  ∃ g0 grp : Group, s.group? x.ref = some g0 ∧ onlyGroup x.ref grp s t ∧
    grp = { g0 with cur := grp.cur, refLane := grp.refLane, threads := grp.threads, gap := true, sleep := sleep } ∧
    grp.threads.length = g0.threads.length ∧
    ∀ l, l < g0.threads.length → grp.thread l =
      if x.cur.toNat.testBit l then
        if x.exec.toNat.testBit l then { (if call then wrG (g0.thread l) x.f.d (x.pc + 8) else g0.thread l) with pc := target l }
        else { g0.thread l with pc := x.pc + 8 }
      else g0.thread l

/-- A group faults (R81, R82): the fault is recorded and reported, its threads' registers and program counters stay. -/
def Faulted (g : GroupRef) (x : Ctx) (code lane info : Nat) (s t : State) : Prop :=
  (∃ grp, t.group? g = some grp ∧ grp.fault = some ⟨code, lane, x.pc, info⟩ ∧ grp.threads = x.grp.threads ∧ grp.u = x.grp.u ∧
    grp.fpstat = x.grp.fpstat) ∧
  (t.tw g.b.t).faultIn = (s.tw g.b.t).faultIn ++ [⟨x.run.launch, g.b.s.val, x.grp.gid, code, lane, x.pc, info⟩] ∧
  t.tw g.b.t.other = s.tw g.b.t.other ∧ (t.tw g.b.t).mem = (s.tw g.b.t).mem ∧ (t.tw g.b.t).regs = (s.tw g.b.t).regs

/-- A memory instruction issues now, in at least one thread, and none of its accesses faults: its input is free (R248), no acquire
holds it back (R141), and the earlier accesses that its release waits for are performed (R140). -/
def MemReady (op : Nat) (spc : MSpace) (k : MemKind) (g : GroupRef) (w : IWord) (s : State) (x : Ctx) : Prop :=
  prepare op (fun _ => true) (infoMem spc k) g w s = .go x ∧ x.exec ≠ 0 ∧ sfind x.br.l1in g.sched.val = none ∧ x.grp.acq = none ∧
    (x.f.mOrder.testBit 1 = true → x.br.released x.grp.gid x.f.mScope = true) ∧
    firstFault s x spc (decide (k = .store) || k.isAtomic) = none

/-- What the issue of a memory instruction does to its group: the current threads move past it, no register changes yet, and a
destination is pending under the operation's number (R43). -/
def MemIssued (x : Ctx) (k : MemKind) (t : State) : Prop :=
  ∃ grp, t.group? x.ref = some grp ∧ grp.threads.length = x.grp.threads.length ∧ grp.u = x.grp.u ∧ grp.fpstat = x.grp.fpstat ∧
    (∀ l, l < x.grp.threads.length → grp.thread l = { x.grp.thread l with
      pc := if x.cur.toNat.testBit l then (x.grp.thread l).pc + BitVec.ofNat 32 x.f.len else (x.grp.thread l).pc }) ∧
    (k = .load ∨ k = .atom → gDst x.o x.f ≠ [] → ∃ p ∈ grp.pend, p.cls = .m ∧ p.op = x.br.nextId ∧ p.g = gDst x.o x.f)

/-- The lanes' operands of a memory instruction as it issues: address, store data or atomic operand. -/
def Ctx.opnd (x : Ctx) (spc : MSpace) (k : MemKind) : List LaneAcc := x.laneAccs spc k fun _ => .away

/-- The clocks of a tower's units run (R600, R602). -/
def Live (t : TowerId) (s : State) : Prop := (s.tw t).frozen = false

/-- Nothing at its home holds an access of an agent of tower `t` to a line back: the hinge is served, the line is not retired, no
write-back or raw operation holds it, no lock or host or visitor copy concerns it, no drop of it is pending and no part of it waits
in the merge buffer (R17, R287 to R291, R304, R383, R388, R395); a pinned line has its data in its bank. -/
def HomeFree (s : State) (t h : TowerId) (tg : Target) (line : Nat) : Prop :=
  (t = h ∨ (s.tw h).serving = true) ∧ line ∉ (s.tw h).mem.retired ∧ (∀ d ∈ (s.tw h).mem.dead, d.line ≠ line) ∧
  (s.tw h).mem.engHeld line = false ∧
  (∀ e ∈ (s.tw h).mem.merge, e.sector / 4 ≠ line) ∧
  ∀ e, sfind (s.tw h).mem.dir line = some e → e.locked = false ∧ e.h = .hi ∧ e.v = false ∧ (tg.isHbm = false → e.valid = 0)

/-- The last-level cache holds sectors of a line; a pinned line is always held (R274, R280). -/
def LlcHolds (s : State) (h : TowerId) (tg : Target) (line : Nat) (secs : List Nat) : Prop :=
  tg.isHbm = true → ∃ e, sfind (s.tw h).mem.dir line = some e ∧ ∀ k ∈ secs, e.valid.testBit k = true

/-- A line that is not present finds a free way in its set (R282). -/
def LlcRoom (s : State) (h : TowerId) (tg : Target) (line : Nat) : Prop :=
  tg.isHbm = true → (sfind (s.tw h).mem.dir line).isSome = true ∨
    ((s.tw h).setLines ((s.tw h).setOf line)).length < 16

/-- The sectors of a line decode without error to `l` (R372). -/
def CleanLine (m : MemSys) (line : Nat) (l : Line) : Prop :=
  ∀ k, k < 4 → eccDecode (m.now (line * 4 + k)).1.1 (m.now (line * 4 + k)).1.2 = (.clean, lineSector l k)

/-- A write of a line under a byte mask, at its home (R286, R287): whole sectors hold the data with its check bits, narrower parts wait
in the merge buffer, sectors not written whole are as before. -/
def LineWritten (h : TowerId) (line : Nat) (data : Line) (mask : BitVec 128) (s t : State) : Prop :=
  ∀ k, k < 4 →
    let part := BitVec.ofNat 32 (mask.toNat >>> (32 * k))
    if part = BitVec.allOnes 32 then
      ((t.tw h).mem.now (line * 4 + k)).1 = (lineSector data k, eccEncode (lineSector data k))
    else (t.tw h).mem.now (line * 4 + k) = (s.tw h).mem.now (line * 4 + k) ∧
      (part ≠ 0 → ∃ e ∈ (t.tw h).mem.merge, e.sector = line * 4 + k ∧ e.data = lineSector data k ∧ e.mask = part)

/-- Every operand, queue entry and copy of a line that `HomeFree` allows, with all four sectors held and clean: the line that an atomic or a
reduction works on; no fill has lost any of it. -/
def HomeLine (s : State) (t h : TowerId) (tg : Target) (line : Nat) (l : Line) : Prop :=
  HomeFree s t h tg line ∧ (∀ p ∈ (s.tw h).mem.lost, p.2.1 ≠ line) ∧ LlcHolds s h tg line [0, 1, 2, 3] ∧ CleanLine (s.tw h).mem line l

/-! What the agents of a tower (R283, R353) and the engines of a brick (R255, R259) find in memory, byte by byte. -/

/-- Byte j of a number. -/
def nbyte (v j : Nat) : Nat := bits v (8 * j + 7) (8 * j)

/-- An agent of tower `t` reads a byte of device memory now, and it is `b` (R283, R291, R372): nothing holds its line back, its sector is
in the last-level cache or the bank, its tower has no copy of its own, no fill has lost the line, and the sector decodes without
error. -/
def ByteIs (s : State) (t : TowerId) (a b : Nat) : Prop :=
  let tg := s.targetB (a / 128 * 128)
  ∃ h d, tg.home? = some h ∧ HomeFree s t h tg (a / 128) ∧ LlcHolds s h tg (a / 128) [a / 32 % 4] ∧
    (h = t ∨ sfind (s.tw t).mem.vis (a / 128) = none) ∧ (∀ p ∈ (s.tw h).mem.lost, p.2.1 ≠ a / 128) ∧
    eccDecode ((s.tw h).mem.now (a / 32)).1.1 ((s.tw h).mem.now (a / 32)).1.2 = (.clean, d) ∧ b = nbyte d.toNat (a % 32)

/-- An agent of tower `t` reads n bytes now, and they are the number `v` (R5). -/
def EngHas (s : State) (t : TowerId) (addr n v : Nat) : Prop := v < 2 ^ (8 * n) ∧ ∀ j, j < n → ByteIs s t (addr + j) (nbyte v j)

/-- An agent of tower `t` can write n bytes now (R286, R287, R291): nothing holds their lines back, and those of HBM are present. -/
def EngFits (s : State) (t : TowerId) (addr n : Nat) : Prop := ∀ j, j < n →
  let line := (addr + j) / 128
  let tg := s.targetB (line * 128)
  ∃ h, tg.home? = some h ∧ HomeFree s t h tg line ∧ LlcHolds s h tg line []

/-- A byte as it stands at its home after a write: in its sector, or in the merge buffer (R286, R287). -/
def ByteStands (s : State) (h : TowerId) (a b : Nat) : Prop :=
  (∃ d, ((s.tw h).mem.now (a / 32)).1 = (d, eccEncode d) ∧ (∀ e ∈ (s.tw h).mem.merge, e.sector ≠ a / 32) ∧ b = nbyte d.toNat (a % 32)) ∨
  ∃ e ∈ (s.tw h).mem.merge, e.sector = a / 32 ∧ e.mask.getLsbD (a % 32) = true ∧ b = nbyte e.data.toNat (a % 32)

/-- The n bytes from an address stand at their homes as the number `v`. -/
def EngWrote (s : State) (addr n v : Nat) : Prop := ∀ j, j < n →
  ∃ h, (s.targetB ((addr + j) / 128 * 128)).home? = some h ∧ ByteStands s h (addr + j) (nbyte v j)

/-- An engine of a brick has n bytes of device memory in hand, and they are the number `v` (R259 to R261): every line of them has arrived
whole for it. -/
def PortHas (s : State) (b : BrickRef) (who addr n v : Nat) : Prop := v < 2 ^ (8 * n) ∧ ∀ i, i < lineCount addr n →
  ((s.targetB ((addr / 128 + i) * 128)).home?).isSome = true ∧
  ∃ e l, (s.brick b).ebuf.find? (fun e => e.covers who (addr / 128 + i) (secsOfMask (lineSecs addr n i))) = some e ∧ e.full = true ∧
    e.value = .ok l ∧ ∀ j, j < n → (addr + j) / 128 = addr / 128 + i → nbyte v j = nbyte l.toNat ((addr + j) % 128)

/-- An engine of a brick has n bytes of an image in hand: in its block's scratchpad, or of device memory in a kernel window (R171). -/
def ImgHas (s : State) (b : BrickRef) (who block addr n v : Nat) : Prop :=
  if isSp addr then ∃ k, sfind (s.brick b).blocks block = some k ∧ k.spOk addr n = true ∧ v = k.spRd (pbid b) (addr % 2 ^ 32) n
  else (s.tw b.t).kwinOk addr n = true ∧ PortHas s b who addr n v

/-- An engine of a brick can write n bytes of an image: to its block's scratchpad, or to device memory in a kernel window (R171). -/
def ImgFits (s : State) (b : BrickRef) (block addr n : Nat) : Prop :=
  if isSp addr then ∃ k, sfind (s.brick b).blocks block = some k ∧ k.spOk addr n = true
  else (s.tw b.t).kwinOk addr n = true ∧ ∀ i, i < lineCount addr n → ((s.targetB ((addr / 128 + i) * 128)).home?).isSome = true

/-- An engine of a brick has written the n bytes of an image: they stand in its block's scratchpad, or lines that carry them are on
their way and await their acknowledgements (R171, R259, R263). -/
def ImgPut (s : State) (b : BrickRef) (who block addr n v : Nat) : Prop := ∀ j, j < n →
  if isSp addr then ∃ k, sfind (s.brick b).blocks block = some k ∧ (k.spByte (pbid b) (addr % 2 ^ 32 + j)).toNat = nbyte v j
  else ∃ w ∈ (s.brick b).sendWr ++ (s.brick b).writeQ ++ (s.brick b).mortarWr, w.line = (addr + j) / 128 ∧
    w.mask.getLsbD ((addr + j) % 128) = true ∧ nbyte w.data.toNat ((addr + j) % 128) = nbyte v j ∧
    ∃ o ∈ (s.brick b).outst, o.wid = w.wid ∧ o.eng = some who

/-- A route unit has n bytes in hand for a job: of the block's scratchpad, or of device memory in a kernel window (R225). -/
def RtHas (s : State) (t : TowerId) (j : RtJob) (addr n v : Nat) : Prop :=
  if isSp addr then ∃ k, sfind (s.brick (j.br t)).blocks j.block = some k ∧ k.spOk addr n = true ∧ v = k.spRd (pbid (j.br t)) (addr % 2 ^ 32) n
  else (s.tw t).kwinOk addr n = true ∧ EngHas s t addr n v

/-- A route unit can write n bytes for a job now (R225). -/
def RtFits (s : State) (t : TowerId) (j : RtJob) (addr n : Nat) : Prop :=
  if isSp addr then (sfind (s.brick (j.br t)).blocks j.block).isSome = true
  else (s.tw t).kwinOk addr n = true ∧ EngFits s t addr n

/-- The n bytes from an offset of a block's scratchpad are a number. -/
def SpHolds (s : State) (b : BrickRef) (block o n v : Nat) : Prop := ∀ i, i < n →
  ∃ k, sfind (s.brick b).blocks block = some k ∧ (k.spByte (pbid b) (o + i)).toNat = nbyte v i

/-- What a route unit has written for a job stands there. -/
def RtWrote (s : State) (t : TowerId) (j : RtJob) (addr n v : Nat) : Prop :=
  if isSp addr then SpHolds s (j.br t) j.block (addr % 2 ^ 32) n v else EngWrote s addr n v

/-- The brick of a slice of the tower. -/
def sliceRef (t : TowerId) (sl : Nat) : BrickRef := ⟨t, ⟨sl % 576, Nat.mod_lt _ (by decide)⟩⟩

/-- The address of row j of an expert (R229, R232). -/
def expRow (r : RtRun) (e j : Nat) : Nat := eBase (r.table.getD e 0) + j * ePitch (r.table.getD e 0)

/-- Row j of an expert can be written now (R232, R235): to memory, or to a block of the cluster; a remote one always. -/
def ExpFits (s : State) (t : TowerId) (r : RtRun) (e j : Nat) : Prop :=
  (eKind (r.table.getD e 0) = 1 → RtFits s t r.job (expRow r e j) (rRow r.desc)) ∧
  (eKind (r.table.getD e 0) = 2 → ∃ p, s.rankBlock t r.job (eRank (r.table.getD e 0)) = some p ∧ p.1 < 576 ∧
    (sfind (s.brick (sliceRef t p.1)).blocks p.2).isSome = true)

/-- Row j of an expert has been written (R232, R235): it stands in memory or in the block, or is on its way to another module. -/
def ExpWrote (s u : State) (t : TowerId) (c : Nat) (r : RtRun) (e j v : Nat) : Prop :=
  let x := r.table.getD e 0
  (eKind x = 1 → RtWrote u t r.job (expRow r e j) (rRow r.desc) v) ∧
  (eKind x = 2 → ∀ p, s.rankBlock t r.job (eRank x) = some p → SpHolds u (sliceRef t p.1) p.2 (expRow r e j) (rRow r.desc) v) ∧
  (eKind x = 3 → (u.tw t).rtr = ((s.tw t).remoteWrite (eNode x) (expRow r e j) (rRow r.desc) v (.route c r.job.num e)).rtr)

/-- The trace writer makes its writes of n bytes as soon as it has them (R353, R362, R686): nothing holds their lines back, no snoop of
its window is open, and the HBM controllers take their requests. -/
def TrFits (s : State) (t : TowerId) (addr n : Nat) : Prop := EngFits s t addr n ∧ s.trSnooped t = false ∧
  ∀ i, i < lineCount addr n → let p := (s.tw t).place (addr / 128 + i)
    (s.tw t).levelNow p.1 31 = 16 ∧ (sget Chan.init (s.tw t).mem.chans p.2).q.length + lineCount addr n ≤ 128

/-- An NBU has bytes in hand for a line access: read by an earlier try, or there to be read now (R331, R332). -/
def NbuIn (s : State) (x : NAcc) (addr n v : Nat) : Prop := s.nbuWin x.t x.k.src.kw addr n = true ∧
  match x.unit.got.find? fun g => decide (g.1 = addr) && decide (g.2.1 = n) with
  | some g => v = g.2.2
  | none => EngHas s x.t addr n v

/-- An NBU has n elements of a source region in hand, as FP32 (R322, R323, R326). -/
def SrcHas (s : State) (x : NAcc) (reg r e n : Nat) (vs : List Nat) : Prop :=
  let q := nRegion x.k.desc reg
  let w := fmtWidth (nFmt q)
  if nKind q ≤ 1 then ∃ v, NbuIn s x (nbuAddr x.t x.slice (nOff q + (if nKind q = 0 then r * nPitch q else 0) + e * w / 8)) (n * w / 8) v ∧
    vs = (List.range n).map fun i => (convert (nFmt q) 0 0 false false 0 (elemOf w v i)).1
  else ∃ v, NbuIn s x (nbuAddr x.t x.slice (nOff q + 4 * r)) 4 v ∧ vs = List.replicate n v

/-- The same for an optional source, with what stands for one that is absent. -/
def SrcOrHas (s : State) (x : NAcc) (reg r e n dflt : Nat) (vs : List Nat) : Prop :=
  if reg = 0xFF then vs = List.replicate n dflt else SrcHas s x reg r e n vs

/-- An NBU can write its line now (R332). -/
def NbuFits (s : State) (x : NAcc) : Prop := ∃ line, x.dst = some line ∧ s.nbuWin x.t x.k.src.kw (line * 128) 128 = true ∧
  EngFits s x.t (line * 128) 128

/-- The line of an NBU has been written. -/
def NbuWrote (s : State) (x : NAcc) (v : Nat) : Prop := ∀ line, x.dst = some line → EngWrote s (line * 128) 128 v

/-- The rows of an activation image that are active (R175). -/
def activeRows (rows mask : Nat) : List Nat := (List.range rows).filter fun i => mask.testBit i

/-- An engine of a brick has the active rows of an activation image in hand: their records, and their scale bytes of an MX format. -/
def RowsHave (s : State) (b : BrickRef) (who block a fmt f rows mask : Nat) (recs scs : Nat → Nat) : Prop :=
  ∀ i ∈ activeRows rows mask, ImgHas s b who block (a + i * mxRec fmt f) (mxRec fmt f) (recs i) ∧
    (isMx fmt = true → ImgHas s b who block (a + up128 (rows * mxRec fmt f) + 2 * i) 2 (scs i)) ∧ (isMx fmt = false → scs i = 0)

/-- An engine of a brick of width `w` has a weight image in hand: records, scale bytes and index bytes for its columns (R163 to R168). -/
def WeightsHave (s : State) (b : BrickRef) (who block a fmt sp w recs sc ix : Nat) : Prop :=
  ImgHas s b who block a (w * mxRec fmt 1) recs ∧
  (if isMx fmt then ImgHas s b who block (a + up128 (64 * mxRec fmt 1)) (2 * w) sc else sc = 0) ∧
  (if sp = 0 then ix = 0 else ImgHas s b who block (a + 64 * mxRec fmt 1) (32 * w) ix)

/-- The generator of a brick after the draws of the first n rows of a drain (R104, R176). -/
def drainGen (fmt rm w : Nat) (row : Nat → Nat → R32) (g : R32) : Nat → R32
  | 0 => g
  | n + 1 => (drainRow fmt rm w (row n) (drainGen fmt rm w row g n)).2.2

/-- A port trains again: what a retrain discards is gone, and it waits for the signal or trains (R428). -/
def Retrained (h : TowerId) (p : Nat) (s t : State) : Prop :=
  (t.tw h).lstate p = (if ((s.tw h).port p).signal = true ∧ (s.tw h).linksRun = true then 2 else 1) ∧
  ((t.tw h).port p).rx = [] ∧ ((t.tw h).port p).replay = [] ∧ ((t.tw h).port p).ctlOut = []

/-- The control flit at the front of a locked port. -/
def CtlFirst (h : TowerId) (p op : Nat) (s : State) (c : Ctl) (r : List Ctl) : Prop :=
  ((s.tw h).port p).ctlIn = c :: r ∧ c.op = op ∧ (s.tw h).locked p = true

end Sys2Proof.Machine
end

