-- ==== Sys2Proof/Certificates/Slice0/Obligations.lean ====
section
/-! DEFINITION. The statements for the provers. -/

open Sys2Proof Sys2Proof.Machine

/-- A step with a command at the front of the queue is the effect of that command with the queue's rest; a step runs no other. -/
def Obligations.StepRunsFrontCommand : Prop :=
  ∀ (c : Instr) (rest : List Instr) (s : State), s.pending = c :: rest → step s = exec c { s with pending := rest }

/-- R84, R85: the integer instructions with their results modulo 2^32, or 2^64 for pairs, and the carry-out, which for `isub` is 1
when no borrow occurs; with the frame of `Wrote`. -/
def Obligations.IntegerArithmeticResults : Prop :=
  WritesC .iadd 0x10 infoIadd (fun x l => setsD x.f.d (x.a l + x.b l))
    (fun x l => decide (2 ^ 32 ≤ (x.a l).toNat + (x.b l).toNat)) ∧
  WritesC .isub 0x11 infoIadd (fun x l => setsD x.f.d (x.a l - x.b l)) (fun x l => decide ((x.b l).toNat ≤ (x.a l).toNat)) ∧
  WritesC .iaddc 0x12 infoIaddc
    (fun x l => setsD x.f.d (x.a l + x.b l + if rdP (x.grp.thread l) (bits x.f.mod 2 0) then 1 else 0))
    (fun x l => decide (2 ^ 32 ≤ (x.a l).toNat + (x.b l).toNat + if rdP (x.grp.thread l) (bits x.f.mod 2 0) then 1 else 0)) ∧
  WritesC .iadd64 0x17 infoIadd64 (fun x l => setsPair x.f.d (x.aPair l + x.bPair l))
    (fun x l => decide (2 ^ 64 ≤ (x.aPair l).toNat + (x.bPair l).toNat)) ∧
  WritesD .imul 0x13 (infoDAB true 0) (fun x l => x.a l * x.b l) ∧
  WritesD .imulh 0x14 (infoDAB true 0x100) (fun x l => if x.f.mod.testBit 8
    then BitVec.ofNat 32 ((x.a l).toNat * (x.b l).toNat / 2 ^ 32) else BitVec.ofInt 32 ((x.a l).toInt * (x.b l).toInt / 2 ^ 32)) ∧
  WritesD .imac 0x15 (infoDABC false true 0) (fun x l => x.a l * x.b l + x.c l) ∧
  (∀ g w s x, ReadyNow 0x16 infoImac64 g w s x → ∃ t, exec (.imac64 g w) s = .next t ∧
    Wrote x (fun l => setsPair x.f.d ((if x.f.mod.testBit 8 then (x.a l).zeroExtend 64 * (x.b l).zeroExtend 64
      else (x.a l).signExtend 64 * (x.b l).signExtend 64) + x.cPair l)) (fun _ => noP) noG s t) ∧
  WritesD .imin 0x18 (infoDAB true 0x100) (fun x l => if x.f.mod.testBit 8
    then (if (x.b l).toNat < (x.a l).toNat then x.b l else x.a l) else if (x.b l).toInt < (x.a l).toInt then x.b l else x.a l) ∧
  WritesD .imax 0x19 (infoDAB true 0x100) (fun x l => if x.f.mod.testBit 8
    then (if (x.a l).toNat < (x.b l).toNat then x.b l else x.a l) else if (x.a l).toInt < (x.b l).toInt then x.b l else x.a l) ∧
  WritesD .iabs 0x1A infoDA (fun x l => if (x.a l).toInt < 0 then 0 - x.a l else x.a l) ∧
  WritesD .dot4 0x1B (infoDABC false true 0x180) (fun x l =>
    let p := fun i => byteInt (x.f.mod.testBit 8) (x.a l) i * byteInt (x.f.mod.testBit 7) (x.b l) i
    x.c l + BitVec.ofInt 32 (p 0 + p 1 + p 2 + p 3))

/-- R86: the logic, shift and bit-field instructions; a shift of 32 or more gives zero, or sign bits where sign bits enter. -/
def Obligations.LogicAndShiftResults : Prop :=
  WritesD .tern 0x20 (infoDABC true true 0x0FF) (fun x l => ternWord (bits x.f.mod 7 0) (x.a l) (x.b l) (x.c l)) ∧
  WritesD .shl 0x21 (infoDAB true 0) (fun x l => if 32 ≤ (x.b l).toNat then 0 else x.a l <<< (x.b l).toNat) ∧
  WritesD .shr 0x22 (infoDAB true 0x100) (fun x l => if x.f.mod.testBit 8
    then (if 32 ≤ (x.b l).toNat then (if (x.a l).msb then 0xFFFFFFFF else 0) else (x.a l).sshiftRight (x.b l).toNat)
    else if 32 ≤ (x.b l).toNat then 0 else x.a l >>> (x.b l).toNat) ∧
  WritesD .dsh 0x23 (infoDABC false false 0x100) (fun x l =>
    let v := (x.b l).toNat * 2 ^ 32 + (x.a l).toNat
    let n := (x.c l).toNat % 64
    if x.f.mod.testBit 8 then BitVec.ofNat 32 (v / 2 ^ n) else BitVec.ofNat 32 (v * 2 ^ n / 2 ^ 32)) ∧
  WritesD .xfield 0x24 (infoDAB true 0x100) (fun x l => xfield (x.f.mod.testBit 8) (x.a l) (x.b l)) ∧
  WritesD .ifield 0x25 (infoDABC false true 0) (fun x l => ifield (x.a l) (x.b l) (x.c l)) ∧
  WritesD .ones 0x26 infoDA (fun x l => BitVec.ofNat 32 (((List.range 32).filter fun i => (x.a l).getLsbD i).length)) ∧
  WritesD .lzc 0x27 infoDA (fun x l => BitVec.ofNat 32 (lzc32 (x.a l))) ∧
  WritesD .bitrev 0x28 infoDA (fun x l => (x.a l).reverse) ∧
  WritesD .bytesel 0x29 (infoDABC false true 0x0FF) (fun x l => bytesel x.f.mod (x.a l) (x.b l) (x.c l))

/-- R86: bit i of `tern` is bit (a + 2b + 4c) of the table, where a, b and c are bit i of A, B and C. -/
def Obligations.TernBitIsTableBit : Prop :=
  ∀ (t : Nat) (a b c : R32) (i : Nat), i < 32 → (ternWord t a b c).getLsbD i =
    t.testBit ((if a.getLsbD i then 1 else 0) + 2 * (if b.getLsbD i then 1 else 0) + 4 * (if c.getLsbD i then 1 else 0))

/-- R86: `lzc` counts the zeros above the highest one bit, and gives 32 for 0. -/
def Obligations.LzcCountsLeadingZeros : Prop :=
  ∀ a : R32, (a = 0 → lzc32 a = 32) ∧ (a ≠ 0 → lzc32 a < 32 ∧ a.getLsbD (31 - lzc32 a) = true) ∧
    ∀ i, 32 - lzc32 a ≤ i → a.getLsbD i = false

/-- R86: `xfield` and `ifield`: with q reduced to 32 − p, bits [p+q−1:p] move to or from bit 0; the empty field gives 0, or C. -/
def Obligations.BitFieldResults : Prop :=
  ∀ (a b c : R32) (p q : Nat), p = b.toNat % 64 → q = min (b.toNat / 256 % 64) (32 - p) →
    (q = 0 → xfield false a b = 0 ∧ xfield true a b = 0 ∧ ifield a b c = c) ∧
    (0 < q → ∀ i, i < 32 →
      (xfield false a b).getLsbD i = (decide (i < q) && a.getLsbD (p + i)) ∧
      (xfield true a b).getLsbD i = a.getLsbD (p + min i (q - 1)) ∧
      (ifield a b c).getLsbD i = if p ≤ i ∧ i < p + q then a.getLsbD (i - p) else c.getLsbD i)

/-- R87 to R92: compares write their predicate under the combining rule, `sel` chooses by a predicate, the predicate instructions,
the count over the current subset and the exchange between lanes. -/
def Obligations.CompareAndPredicateResults : Prop :=
  WritesP .pcmpI 0x30 infoPcmp (fun x l =>
    bopWith (bits x.f.mod 4 3) (cmpHolds (bits x.f.mod 8 6) (intCmp (x.f.mod.testBit 5) (x.a l) (x.b l)))
      (xor (rdP (x.grp.thread l) (bits x.f.mod 2 0)) (x.f.xmod.testBit 0))) ∧
  WritesP .pcmpF 0x31 infoPcmp (fun x l =>
    bopWith (bits x.f.mod 4 3) (fvCompare (bits x.f.mod 8 6) (x.f.mod.testBit 5) (fDecode fp32 false (x.a l).toNat)
      (fDecode fp32 false (x.bF l).toNat)).1 (xor (rdP (x.grp.thread l) (bits x.f.mod 2 0)) (x.f.xmod.testBit 0))) ∧
  (∀ g w s x, ReadyNow 0x32 infoPcmpH g w s x → ∃ t, exec (.pcmpH g w) s = .next t ∧
    Wrote x (fun _ => noG) (fun l =>
      let fm := if x.f.xmod.testBit 4 then bf16 else fp16
      let r := fun k => bopWith (bits x.f.mod 4 3) (fvCompare (bits x.f.mod 8 6) (x.f.mod.testBit 5)
        (fDecode fm false (half16 (x.a l) k)) (fDecode fm false (half16 (x.b l) k))).1
        (xor (rdP (x.grp.thread l) (bits x.f.mod 2 0)) (x.f.xmod.testBit 0))
      fun n => if n = x.f.d then some (r 0) else if n = x.f.d + 1 then some (r 1) else none) noG s t) ∧
  WritesP .pfun 0x33 infoPfun (fun x l =>
    let th := x.grp.thread l
    x.f.mod.testBit ((if rdP th x.f.a then 1 else 0) + (if rdP th x.f.b then 2 else 0) + (if rdP th x.f.c then 4 else 0))) ∧
  WritesD .sel 0x34 infoSel (fun x l =>
    if xor (rdP (x.grp.thread l) (bits x.f.mod 2 0)) (x.f.mod.testBit 3) then x.a l else x.b l) ∧
  WritesD .predw 0x35 infoPredw (fun x l => (x.grp.thread l).p.zeroExtend 32) ∧
  (∀ g w s x, ReadyNow 0x36 infoWpred g w s x → ∃ t, exec (.wpred g w) s = .next t ∧
    Wrote x (fun _ => noG) (fun l n => if x.f.mod.testBit n then some ((x.a l).getLsbD n) else none) noG s t) ∧
  (∀ g w s x, ReadyNow 0x37 infoTally g w s x → ∃ t, exec (.tally g w) s = .next t ∧
    Wrote x
      (fun _ => if bits x.f.mod 8 7 = 2 then setsD x.f.d (tallyMask x)
        else if bits x.f.mod 8 7 = 3 then setsD x.f.d (BitVec.ofNat 32 (popN 32 (tallyMask x).toNat)) else noG)
      (fun _ => if bits x.f.mod 8 7 = 0 then setsP x.f.d (decide (tallyMask x = x.cur))
        else if bits x.f.mod 8 7 = 1 then setsP x.f.d (decide (tallyMask x ≠ 0)) else noP) noG s t) ∧
  WritesD .xlane 0x38 infoXlane (fun x l =>
    let k := xlaneSrc x.f.mod (x.b l).toNat l
    if x.cur.toNat.testBit k then x.a k else x.a l)

/-- R49, R79, R93 to R95: moves, the special registers, FPSTAT and the group-uniform instructions, whose one result comes from the
lowest lane of the current subset. -/
def Obligations.MoveAndUniformResults : Prop :=
  (∀ g w s x, ReadyNow 0x00 infoNop g w s x → ∃ t, exec (.nop g w) s = .next t ∧
    Wrote x (fun _ => noG) (fun _ => noP) noG s t) ∧
  WritesD .mov 0x40 infoMov (fun x l => if x.f.fmt = 0 then x.a l else immB x.o false x.f) ∧
  (∀ g w s x, ReadyNow 0x41 infoMov64 g w s x → ∃ t, exec (.mov64 g w) s = .next t ∧
    Wrote x (fun _ => setsPair x.f.d w.w2) (fun _ => noP) noG s t) ∧
  (∀ g w s x, ReadyNow 0x42 infoGetsr g w s x → x.exec ≠ 0 → ∃ t grp, exec (.getsr g w) s = .next t ∧
    t.group? g = some grp ∧
    (∀ l, l < x.grp.threads.length → x.exec.toNat.testBit l → x.f.d ≠ 255 →
      rdG (grp.thread l) x.f.d = specialReg s x x.f.b l) ∧
    (x.f.b = 0x10 → grp.timeHi = BitVec.ofNat 32 ((s.tw g.b.t).timeNs / 2 ^ 32)) ∧
    (x.f.b = 0x12 → grp.cycHi = BitVec.ofNat 32 (x.br.cyc / 2 ^ 32)) ∧ grp.fpstat = x.grp.fpstat ∧
    onlyGroup g grp s t) ∧
  (∀ g w s x, ReadyNow 0x43 infoPutsr g w s x → (x.grp.pend.all fun p => decide (p.cls ≠ .f) && decide (p.cls ≠ .s)) = true →
    ∃ t grp, exec (.putsr g w) s = .next t ∧ t.group? g = some grp ∧ grp.fpstat = (x.a x.low).toNat % 32 ∧
      grp.u = x.grp.u ∧ onlyGroup g grp s t ∧
      ∀ l, l < x.grp.threads.length → (grp.thread l).g = (x.grp.thread l).g ∧ (grp.thread l).p = (x.grp.thread l).p) ∧
  WritesU .uniMov 0x44 infoUniMov (fun x l => if x.f.fmt = 0 then x.a l else immB x.o false x.f) ∧
  WritesU .uniAdd 0x45 (infoUni 0) (fun x l => x.a l + x.b l) ∧
  WritesU .uniMul 0x46 (infoUni 0) (fun x l => x.a l * x.b l) ∧
  WritesU .uniTern 0x47 infoUniTern (fun x l => ternWord (bits x.f.mod 7 0) (x.a l) (x.b l) (x.c l)) ∧
  WritesU .uniSh 0x48 (infoUni 0x100) (fun x l => if 32 ≤ (x.b l).toNat then 0
    else if x.f.mod.testBit 8 then x.a l >>> (x.b l).toNat else x.a l <<< (x.b l).toNat) ∧
  WritesP .uniCmp 0x49 infoUniCmp (fun x _ =>
    bopWith (bits x.f.mod 4 3) (cmpHolds (bits x.f.mod 8 6) (intCmp (x.f.mod.testBit 5) (x.a x.low) (x.b x.low)))
      (xor (rdP (x.grp.thread x.low) (bits x.f.mod 2 0)) (x.f.xmod.testBit 0)))

/-- R96 to R98: floating-point arithmetic on FP32 and on packed halves, one rounding for `fmac`, under the modifiers of R97. An operand that
is a NaN gives the canonical NaN (+0.0 under SAT); a result that the format holds is given exactly, whatever the rounding; `fmin` and
`fmax` give the smaller and the larger number, and the number when one operand is a NaN. -/
def Obligations.FloatArithmeticResults : Prop :=
  let f := fun (op : FOp) (x : Ctx) (l : Nat) =>
    BitVec.ofNat 32 (fArith op fp32 x.f.mod x.f.xmod (x.a l).toNat (x.b l).toNat (x.c l).toNat).1
  let hf := fun (x : Ctx) => if x.f.xmod.testBit 4 then bf16 else fp16
  let hb := fun (x : Ctx) (l : Nat) => if x.f.bImm x.o then immB x.o false x.f else x.b l
  let h := fun (op : FOp) (x : Ctx) (l : Nat) =>
    let r := fun k => (fArith op (hf x) x.f.mod x.f.xmod (half16 (x.a l) k) (half16 (hb x l) k) (half16 (x.c l) k)).1
    BitVec.ofNat 32 (r 0 + r 1 * 2 ^ 16)
  let nan := fun (fm : FFmt) (mod v : Nat) => v = if mod.testBit 4 then 0 else fm.nanBits
  let plain := fun (x : Ctx) => x.f.mod % 64 = 0 ∧ x.f.xmod % 4 = 0
  let exact2 := fun (op : Rat → Rat → Rat) (fm : FFmt) (x : Ctx) (a b v : Nat) =>
    (fm.isNan a ∨ fm.isNan b → nan fm x.f.mod v) ∧
    ∀ p q r, plain x → exactVal fm a = some p → exactVal fm b = some q → fm.encodes r (op p q) → op p q ≠ 0 → v = r
  let exact3 := fun (fm : FFmt) (x : Ctx) (a b c v : Nat) =>
    (fm.isNan a ∨ fm.isNan b ∨ fm.isNan c → nan fm x.f.mod v) ∧
    ∀ p q z r, plain x → exactVal fm a = some p → exactVal fm b = some q → exactVal fm c = some z → fm.encodes r (p * q + z) →
      p * q + z ≠ 0 → v = r
  let choose := fun (op : Rat → Rat → Rat) (fm : FFmt) (x : Ctx) (a b v : Nat) => plain x →
    (∀ p q, exactVal fm a = some p → exactVal fm b = some q → exactVal fm v = some (op p q)) ∧
    (fm.isNan a → ¬fm.isNan b → v = b) ∧ (¬fm.isNan a → fm.isNan b → v = a) ∧ (fm.isNan a → fm.isNan b → v = fm.nanBits)
  let one := fun (P : FFmt → Ctx → Nat → Nat → Nat → Prop) (x : Ctx) (l : Nat) (v : Nat → R32) =>
    P fp32 x (x.a l).toNat (x.b l).toNat (v l).toNat
  let two := fun (P : FFmt → Ctx → Nat → Nat → Nat → Prop) (x : Ctx) (l : Nat) (v : Nat → R32) =>
    ∀ k, k < 2 → P (hf x) x (half16 (x.a l) k) (half16 (hb x l) k) (half16 (v l) k)
  (WritesD .fadd 0x50 (infoF true rmArith) (f .add) ∧ WritesSuch .fadd 0x50 (infoF true rmArith) (one (exact2 (· + ·)))) ∧
  (WritesD .fmul 0x51 (infoF true rmArith) (f .mul) ∧ WritesSuch .fmul 0x51 (infoF true rmArith) (one (exact2 (· * ·)))) ∧
  (WritesD .fmac 0x52 infoFmac (f .mac) ∧ WritesSuch .fmac 0x52 infoFmac fun x l v =>
    exact3 fp32 x (x.a l).toNat (x.b l).toNat (x.c l).toNat (v l).toNat) ∧
  (WritesD .fmin 0x53 (infoF true rmZero) (f .min) ∧ WritesSuch .fmin 0x53 (infoF true rmZero) (one (choose min))) ∧
  (WritesD .fmax 0x54 (infoF true rmZero) (f .max) ∧ WritesSuch .fmax 0x54 (infoF true rmZero) (one (choose max))) ∧
  (WritesD .vaddH 0x60 (infoH rmArith) (h .add) ∧ WritesSuch .vaddH 0x60 (infoH rmArith) (two (exact2 (· + ·)))) ∧
  (WritesD .vmulH 0x61 (infoH rmArith) (h .mul) ∧ WritesSuch .vmulH 0x61 (infoH rmArith) (two (exact2 (· * ·)))) ∧
  (WritesD .vmacH 0x62 infoHmac (h .mac) ∧ WritesSuch .vmacH 0x62 infoHmac fun x l v => ∀ k, k < 2 →
    exact3 (hf x) x (half16 (x.a l) k) (half16 (hb x l) k) (half16 (x.c l) k) (half16 (v l) k)) ∧
  (WritesD .vminH 0x63 (infoH rmZero) (h .min) ∧ WritesSuch .vminH 0x63 (infoH rmZero) (two (choose min))) ∧
  (WritesD .vmaxH 0x64 (infoH rmZero) (h .max) ∧ WritesSuch .vmaxH 0x64 (infoH rmZero) (two (choose max)))

/-- R101 to R111: conversions, packing, the MX block formats and the special functions. Beside the function of the model, what the rules
say of numbers: a value that the destination holds is given exactly, integers are clamped, a block is scaled by its greatest number,
an integral value is the nearest on the side that the rounding names, and special functions keep their special cases and 1-ulp bounds. -/
def Obligations.ConversionResults : Prop :=
  let draw := fun (x : Ctx) (k : Nat) => (srAfter (k + 1) x.br.sr).toNat
  let code := fun (x : Ctx) => bits x.f.mod 8 5
  let width := fun (f : FFmt) => f.eb + f.mb + 1
  let fits := fun (w : Nat) (sg : Bool) (i : Int) => (intLimits w sg).1 ≤ i ∧ i ≤ (intLimits w sg).2
  let cvt := fun (x : Ctx) (c d a v : Nat) =>
    (∀ f w sg, fmtOf c = some f → intFmt d = some (w, sg) → f.kind = .ieee → f.isNan a → v = 0) ∧
    (∀ f w sg (i : Int), fmtOf c = some f → intFmt d = some (w, sg) → x.f.mod.testBit 0 = false → exactVal f (a % 2 ^ width f) = some i →
      fits w sg i → v = wrapN w i) ∧
    (∀ w sg u ug, intFmt c = some (w, sg) → intFmt d = some (u, ug) →
      v = wrapN u (max (intLimits u ug).1 (min (intLimits u ug).2 (intDecode w sg a)))) ∧
    (∀ w sg g r, intFmt c = some (w, sg) → fmtOf d = some g → intDecode w sg a ≠ 0 → g.encodes r (intDecode w sg a : Int) → v = r) ∧
    (∀ f g p r, fmtOf c = some f → fmtOf d = some g → x.f.mod.testBit 0 = false → exactVal f (a % 2 ^ width f) = some p → p ≠ 0 →
      g.encodes r p → v = r) ∧
    (∀ f g, fmtOf c = some f → fmtOf d = some g → f.kind = .ieee → f.isNan a → g.kind ≠ .finite → v = g.nanBits)
  WritesD .cvt 0x70 infoCvt (fun x l =>
    BitVec.ofNat 32 (convert (bits x.f.xmod 4 1) (bits x.f.mod 8 5) (bits x.f.mod 4 2) (x.f.mod.testBit 1) (x.f.mod.testBit 0)
      (draw x (rankIn x.exec l)) (x.a l).toNat).1) ∧
  WritesD .cvtpk 0x71 infoCvtpk (fun x l =>
    let d := bits x.f.mod 8 5
    let cv := fun (v : R32) i => (convert 0 d (bits x.f.mod 4 2) (x.f.mod.testBit 1) (x.f.mod.testBit 0)
      (draw x (2 * rankIn x.exec l + i)) v.toNat).1
    let old := (rdG (x.grp.thread l) x.f.d).toNat
    BitVec.ofNat 32 (if d < 3 then cv (x.a l) 0 + cv (x.b l) 1 * 2 ^ 16
      else if x.f.xmod.testBit 0 then putBits old 31 16 (cv (x.a l) 0 + cv (x.b l) 1 * 2 ^ 8)
      else putBits old 15 0 (cv (x.a l) 0 + cv (x.b l) 1 * 2 ^ 8))) ∧
  WritesD .cvtupk 0x72 infoCvtupk (fun x l =>
    let c := bits x.f.mod 8 5
    let w := fmtWidth c
    BitVec.ofNat 32 (convert c 0 0 false false 0
      (bits (x.a l).toNat (w * bits x.f.mod 1 0 + w - 1) (w * bits x.f.mod 1 0))).1) ∧
  WritesD .mxpack 0x73 infoMxpack (fun x l =>
    let c := bits x.f.mod 8 5
    let blk := mxBlock c (bits x.f.mod 4 2) (draw x) ((List.range 32).map fun k => fDecode fp32 false (x.a k).toNat)
    BitVec.ofNat 32 (if l < fmtWidth c then bits (packBits (fmtWidth c) blk.2) (32 * l + 31) (32 * l)
      else if l = 31 then blk.1 else 0)) ∧
  WritesD .mxunpack 0x74 infoMxunpack (fun x l =>
    let c := bits x.f.mod 8 5
    let w := fmtWidth c
    let str := packBits 32 ((List.range w).map fun k => (x.a k).toNat)
    BitVec.ofNat 32 (fEncode fp32 0 false false 0
      (mxElem c ((x.a 31).toNat % 256) (bits str (w * l + w - 1) (w * l)))).1) ∧
  WritesD .fint 0x75 infoFint (fun x l =>
    BitVec.ofNat 32 (fint32 (bits x.f.mod 4 2) (x.f.mod.testBit 0) (x.a l).toNat).1) ∧
  WritesD .trans 0x80 infoTrans (fun x l =>
    let v := fvMods (x.f.mod.testBit 3) (x.f.mod.testBit 2) (fDecode fp32 (x.f.mod.testBit 4) (x.a l).toNat)
    let r := (transVal (bits x.f.mod 8 5) v (x.a l)).1
    BitVec.ofNat 32 (if x.f.mod.testBit 4 && decide (bits r 30 23 = 0) then fp32.signBit (r.testBit 31) else r)) ∧
  WritesSuch .cvt 0x70 infoCvt (fun x l v => cvt x (bits x.f.xmod 4 1) (code x) (x.a l).toNat (v l).toNat) ∧
  WritesSuch .cvtpk 0x71 infoCvtpk (fun x l v =>
    ((code x = 1 ∨ code x = 2) → cvt x 0 (code x) (x.a l).toNat (half16 (v l) 0) ∧ cvt x 0 (code x) (x.b l).toNat (half16 (v l) 1)) ∧
    ((code x = 3 ∨ code x = 4) → let k := if x.f.xmod.testBit 0 then 1 else 0
      cvt x 0 (code x) (x.a l).toNat (half16 (v l) k % 256) ∧ cvt x 0 (code x) (x.b l).toNat (half16 (v l) k / 256) ∧
      half16 (v l) (1 - k) = half16 (rdG (x.grp.thread l) x.f.d) (1 - k))) ∧
  WritesSuch .cvtupk 0x72 infoCvtupk (fun x l v => ∀ f p r, fmtOf (code x) = some f →
    let w := width f
    exactVal f (bits (x.a l).toNat (w * bits x.f.mod 1 0 + w - 1) (w * bits x.f.mod 1 0)) = some p → p ≠ 0 → fp32.encodes r p →
      (v l).toNat = r) ∧
  WritesSuch .mxpack 0x73 infoMxpack (fun x l v => ∀ f, fmtOf (code x) = some f →
    let w := width f
    (w ≤ l → l ≠ 31 → v l = 0) ∧ ((∃ k, k < 32 ∧ exactVal fp32 (x.a k).toNat = none) → v l = if l = 31 then 0xFF else 0) ∧
    (∀ P : Nat → Rat, (∀ k, k < 32 → exactVal fp32 (x.a k).toNat = some (P k)) →
      ((∀ k, k < 32 → P k = 0) → l = 31 → v l = 0) ∧
      ∀ (E : Int) k0, k0 < 32 → (2 : Rat) ^ E ≤ |P k0| → (∀ k, k < 32 → |P k| < (2 : Rat) ^ (E + 1)) →
        let X : Int := max (-127) (min 127 (E - if code x = 5 then 8 else if code x = 6 then 15 else if code x = 7 then 4 else 2))
        (l = 31 → ((v l).toNat : Int) = X + 127) ∧
        ∀ i R, i < 32 → l < w → let k := (32 * l + i) / w
          P k ≠ 0 → f.encodes R (P k / (2 : Rat) ^ X) → (v l).getLsbD i = R.testBit ((32 * l + i) % w))) ∧
  WritesSuch .mxunpack 0x74 infoMxunpack (fun x l v => ∀ f e, fmtOf (code x) = some f → e < 2 ^ width f →
    (∀ i, i < width f → e.testBit i = (x.a ((width f * l + i) / 32)).getLsbD ((width f * l + i) % 32)) →
    let sb := (x.a 31).toNat % 256
    (sb = 255 → v l = 0x7FC00000) ∧
    (∀ p r, sb ≠ 255 → exactVal f e = some p → p ≠ 0 → fp32.encodes r (p * (2 : Rat) ^ ((sb : Int) - 127)) → (v l).toNat = r)) ∧
  WritesSuch .fint 0x75 infoFint (fun x l v => (fp32.isNan (x.a l).toNat → v l = 0x7FC00000) ∧ (fp32.isInf (x.a l).toNat → v l = x.a l) ∧
    (∀ p, x.f.mod.testBit 0 = false → exactVal fp32 (x.a l).toNat = some p → ∃ n : Int, exactVal fp32 (v l).toNat = some n ∧
      |(n : Rat) - p| < 1 ∧ (bits x.f.mod 4 2 = 0 → |(n : Rat) - p| ≤ 1 / 2) ∧ (bits x.f.mod 4 2 = 1 → |(n : Rat)| ≤ |p|) ∧
      (bits x.f.mod 4 2 = 2 → (n : Rat) ≤ p) ∧ (bits x.f.mod 4 2 = 3 → p ≤ n))) ∧
  WritesSuch .trans 0x80 infoTrans (fun x l v => bits x.f.mod 4 2 = 0 →
    let a := (x.a l).toNat
    let u := ulp32 (v l).toNat
    (fp32.isNan a → v l = 0x7FC00000) ∧
    (code x ≤ 1 → a % 2 ^ 31 = 0 → (v l).toNat = a + 0x7F800000) ∧ (code x = 2 → a = 2 ^ 31 → v l = 0x80000000) ∧
    (code x = 4 → a % 2 ^ 31 = 0 → v l = 0xFF800000) ∧ ((code x = 5 ∨ code x = 6) → fp32.isInf a → v l = 0x7FC00000) ∧
    ((code x = 7 ∨ code x = 9) → fp32.isInf a → (v l).toNat = a - 0x7F800000 + 0x3F800000) ∧
    (code x = 8 → fp32.isInf a → v l = if a.testBit 31 then 0 else 0x3F800000) ∧
    (∀ p, exactVal fp32 a = some p → ((code x = 1 ∨ code x = 2 ∨ code x = 4) → p < 0 → v l = 0x7FC00000) ∧
      (code x = 0 → (2 : Rat) ^ (-126 : Int) ≤ |p| → ∃ q, exactVal fp32 (v l).toNat = some q ∧ |q * p - 1| ≤ u * |p|) ∧
      (code x = 1 → 0 < p → ∃ q, exactVal fp32 (v l).toNat = some q ∧ 0 < q ∧ (q - u) ^ 2 * p ≤ 1 ∧ 1 ≤ (q + u) ^ 2 * p) ∧
      (code x = 2 → 0 < p → ∃ q, exactVal fp32 (v l).toNat = some q ∧ 0 < q ∧ (q - u) ^ 2 ≤ p ∧ p ≤ (q + u) ^ 2)))

/-- R44, R47, R64, R112 to R115: control flow. A relative branch goes to its offset plus IMM24 × 8, an indirect one to the address in
A; the threads whose guard is false fall through. -/
def Obligations.ControlFlowResults : Prop :=
  (∀ g w s x, ReadyNow 0x01 (infoBr true false false) g w s x → ∃ t, exec (.brRel g w) s = .next t ∧
    Branched x false x.grp.sleep (fun _ => x.pc + BitVec.ofInt 32 (sext 24 x.f.imm24 * 8)) s t) ∧
  (∀ g w s x, ReadyNow 0x03 (infoBr true true false) g w s x → ∃ t, exec (.callRel g w) s = .next t ∧
    Branched x true x.grp.sleep (fun _ => x.pc + BitVec.ofInt 32 (sext 24 x.f.imm24 * 8)) s t) ∧
  (∀ g w s x, ReadyNow 0x02 (infoBr false false true) g w s x →
    (∀ l, x.runs l → (x.a l).toNat % 8 = 0 ∧ (x.a l).toNat < x.run.codeSize) →
    ∃ t, exec (.brReg g w) s = .next t ∧ Branched x false x.grp.sleep x.a s t) ∧
  (∀ g w s x, ReadyNow 0x04 (infoBr false true true) g w s x →
    (∀ l, x.runs l → (x.a l).toNat % 8 = 0 ∧ (x.a l).toNat < x.run.codeSize) →
    ∃ t, exec (.callReg g w) s = .next t ∧ Branched x true x.grp.sleep x.a s t) ∧
  (∀ g w s x, ReadyNow 0x05 (infoBr false false true) g w s x →
    (∀ l, x.runs l → (x.a l).toNat % 8 = 0 ∧ (x.a l).toNat < x.run.codeSize) →
    ∃ t, exec (.ret g w) s = .next t ∧ Branched x false x.grp.sleep x.a s t) ∧
  (∀ g w s x, ReadyNow 0x07 (infoPlainB false true fun _ => true) g w s x → ∃ t, exec (.yield g w) s = .next t ∧
    Branched { x with exec := 0 } false x.grp.sleep (fun _ => x.pc) s t) ∧
  (∀ g w s x, ReadyNow 0x0A (infoPlainB true true fun f => decide (f.imm24 < 2 ^ 16)) g w s x →
    ∃ t, exec (.sleep g w) s = .next t ∧
      Branched { x with exec := 0 } false (if x.f.imm24 = 0 then none else some x.f.imm24) (fun _ => x.pc) s t) ∧
  (∀ g w s x, ReadyNow 0x06 (infoPlainB false false fun _ => true) g w s x → ∃ t, exec (.exit g w) s = .next t ∧
    ((∀ l, l < x.grp.threads.length → (x.grp.thread l).exited = true ∨ (x.cur.toNat.testBit l = true ∧ x.exec.toNat.testBit l = true)) →
      t.group? g = none) ∧
    ((∃ l, l < x.grp.threads.length ∧ (x.grp.thread l).exited = false ∧ ¬(x.cur.toNat.testBit l = true ∧ x.exec.toNat.testBit l = true)) →
      ∃ grp, t.group? g = some grp ∧ ∀ l, l < x.grp.threads.length → grp.thread l =
        if x.cur.toNat.testBit l then
          if x.exec.toNat.testBit l then { x.grp.thread l with exited := true } else { x.grp.thread l with pc := x.pc + 8 }
        else x.grp.thread l)) ∧
  (∀ g w s x, ReadyNow 0x08 (infoPlainB true false fun f => decide (f.imm24 < 2 ^ 16)) g w s x → ∀ l, lowLane x.exec = some l →
    ∃ t, exec (.trap g w) s = .next t ∧ Faulted g x 0x05 l x.f.imm24 s t) ∧
  (∀ g w s x, ReadyNow 0x09 (infoPlainB false true fun _ => true) g w s x → x.run.debug = false →
    ∃ t, exec (.brkpt g w) s = .next t ∧ Branched { x with exec := 0 } false x.grp.sleep (fun _ => x.pc) s t) ∧
  (∀ g w s x, ReadyNow 0x09 (infoPlainB false true fun _ => true) g w s x → x.run.debug = true →
    ∃ t grp, exec (.brkpt g w) s = .next t ∧ t.group? g = some grp ∧ grp.held = true ∧ (t.tw g.b.t).sys.stopSeen = true)

/-- R82, R113, R133: where the same forms trap. A misaligned or outside target of an indirect branch is BRANCH_TARGET at the lowest
such lane; a memory instruction takes the first fault of R133, with the address of its lane. -/
def Obligations.IssueTimeFaults : Prop :=
  (∀ g w s x, ReadyNow 0x02 (infoBr false false true) g w s x → ∀ l, x.runs l →
    ((x.a l).toNat % 8 ≠ 0 ∨ x.run.codeSize ≤ (x.a l).toNat) →
    (∀ m, m < l → x.runs m → (x.a m).toNat % 8 = 0 ∧ (x.a m).toNat < x.run.codeSize) →
    ∃ t i, exec (.brReg g w) s = .next t ∧ Faulted g x 0x04 l i s t) ∧
  (∀ g w s x, prepare 0xA4 (fun _ => true) (infoMem .g .load) g w s = .go x → sfind x.br.l1in g.sched.val = none → x.grp.acq = none →
    x.f.mOrder.testBit 1 = false → ∀ c l, firstFault s x .g false = some (c, l) →
    ∃ t, exec (.ldG g w) s = .next t ∧ Faulted g x c l (wrapN 64 (laneAddr x .g l)) s t) ∧
  (∀ s x l, x.runs l → laneAddr x .g l % x.f.mBytes ≠ 0 → ∀ c l', firstFault s x .g false = some (c, l') → c = 0x10) ∧
  (∀ g w s grp c l pc i, prepare 0x10 (fun _ => true) infoIadd g w s = .fault grp c l pc i →
    ∃ t, exec (.iadd g w) s = .next t ∧ ∃ grp', t.group? g = some grp' ∧ grp'.fault = some ⟨c, l, pc, i⟩)

/-- R53, R126, R130, R146: a store to scratchpad writes the bytes of its lanes at their addresses, in lane order, and no other; an
atomic there gives each lane the value before it; a load reads the block's bytes. Nothing else of the block changes. -/
def Obligations.ScratchpadAccessResults : Prop :=
  (∀ g w s x, MemReady 0xA1 .sp .store g w s x → ∃ t blk, exec (.stSp g w) s = .next t ∧ MemIssued x .store t ∧
    sfind (t.brick g.b).blocks x.grp.block = some blk ∧ blk = { x.blk with sp := blk.sp } ∧
    (∀ o : Nat, (∀ l, x.runs l → ¬(laneAddr x .sp l ≤ o ∧ (o : Int) < laneAddr x .sp l + x.f.mBytes)) →
      blk.spByte (pbid g.b) o = x.blk.spByte (pbid g.b) o) ∧
    (∀ l, x.runs l → (∀ m, x.runs m → l < m → laneAddr x .sp l + x.f.mBytes ≤ laneAddr x .sp m ∨
        laneAddr x .sp m + x.f.mBytes ≤ laneAddr x .sp l) →
      blk.spRd (pbid g.b) (laneAddr x .sp l).toNat x.f.mBytes =
        regsVal (x.grp.thread l) x.f.d (mRegs x.f.mSize) % 2 ^ (8 * x.f.mBytes))) ∧
  (∀ g w s x, MemReady 0xA0 .sp .load g w s x → ∃ t o, exec (.ldSp g w) s = .next t ∧ MemIssued x .load t ∧
    sfind (t.brick g.b).blocks x.grp.block = some x.blk ∧ sfind (t.brick g.b).inflight x.br.nextId = some o ∧ o.dst = x.f.d ∧
    o.need = [] ∧ ∀ l, x.runs l → sget 0 o.olds l = x.blk.spRd (pbid g.b) (laneAddr x .sp l).toNat x.f.mBytes) ∧
  (∀ g w s x, MemReady 0xB0 .sp .atom g w s x → ∃ t o, exec (.atomSp g w) s = .next t ∧ MemIssued x .atom t ∧
    sfind (t.brick g.b).inflight x.br.nextId = some o ∧
    (∀ l, l < 32 → x.exec = 1#32 <<< l →
      let a := (laneAddr x .sp l).toNat
      let old := x.blk.spRd (pbid g.b) a x.f.mBytes
      sget 0 o.olds l = old ∧ ∃ blk, sfind (t.brick g.b).blocks x.grp.block = some blk ∧
        blk = x.blk.spWr x.f.mBytes a (atomNew x.f.mAop x.f.mAu x.f.mBytes old
          (regsVal (x.grp.thread l) x.f.b (mRegs x.f.mSize) % 2 ^ (8 * x.f.mBytes))
          (if x.f.mAop = 7 then regsVal (x.grp.thread l) x.f.c (mRegs x.f.mSize) % 2 ^ (8 * x.f.mBytes) else 0))))

/-- R126 to R134, R146, R148, R256, R268: the issue of cluster and global accesses. A cluster access to another rank leaves as one message
per rank; a global access waits at the L1 input of its scheduler, a load of constant windows is served by the constant cache or asks
for whole lines past the L1, and an atomic beyond the brick leaves as one message per address, awaited when it acquires. -/
def Obligations.GlobalAndClusterAccessIssue : Prop :=
  let away := fun (x : Ctx) (k : MemKind) => (x.opnd .csp k).filter fun a => decide (a.addr / 2 ^ 19 ≠ x.blk.rank)
  (∀ g w s x, MemReady 0xA2 .csp .load g w s x → ∃ t o, exec (.ldCsp g w) s = .next t ∧ MemIssued x .load t ∧
    sfind (t.brick g.b).inflight x.br.nextId = some o ∧ o.need.length = (uniq ((away x .load).map fun a => a.addr / 2 ^ 19)).length ∧
    (t.brick g.b).cspQ.length = x.br.cspQ.length + o.need.length) ∧
  (∀ g w s x, MemReady 0xA3 .csp .store g w s x → ∃ t, exec (.stCsp g w) s = .next t ∧ MemIssued x .store t ∧
    (t.brick g.b).cspQ.length = x.br.cspQ.length + (uniq ((away x .store).map fun a => a.addr / 2 ^ 19)).length ∧
    (t.brick g.b).outst.length = x.br.outst.length + (uniq ((away x .store).map fun a => a.addr / 2 ^ 19)).length) ∧
  (∀ g w s x, MemReady 0xB1 .csp .atom g w s x → ∃ t o, exec (.atomCsp g w) s = .next t ∧ MemIssued x .atom t ∧
    sfind (t.brick g.b).inflight x.br.nextId = some o ∧ o.need.length = (uniq ((away x .atom).map fun a => a.addr / 2 ^ 19)).length) ∧
  (∀ g w s x, MemReady 0xA4 .g .load g w s x → (∀ c ∈ x.run.wins, c.const = false) →
    ∃ t o, exec (.ldG g w) s = .next t ∧ MemIssued x .load t ∧ sfind (t.brick g.b).l1in g.sched.val = some o ∧
      o.kind = .load ∧ o.dst = x.f.d ∧ o.lanes.map LaneAcc.addr = (x.opnd .g .load).map LaneAcc.addr) ∧
  (∀ g w s x, MemReady 0xA4 .g .load g w s x → x.f.mSize ≤ 3 → x.f.mHint ≠ 4 → (x.f.mOrder.testBit 0 = true → x.f.mScope < 2) →
    let a := fun l => (laneAddr x .g l).toNat
    (∀ l, x.runs l → x.run.winConst (a l) x.f.mBytes = true) →
    ∃ t o, exec (.ldG g w) s = .next t ∧ MemIssued x .load t ∧ sfind (t.brick g.b).l1in g.sched.val = none ∧
      sfind (t.brick g.b).inflight x.br.nextId = some o ∧ o.kind = .load ∧ o.dst = x.f.d ∧ ∀ l, x.runs l →
        (∀ c, sfind x.br.ccache (a l / 128) = some c →
          sfind o.olds l = some (bits c.toNat (8 * (a l % 128 + x.f.mBytes) - 1) (8 * (a l % 128)))) ∧
        (sfind x.br.ccache (a l / 128) = none → ∃ rid, ∀ k, k < 4 → (rid, a l / 128 * 4 + k) ∈ o.need)) ∧
  (∀ g w s x, MemReady 0xA5 .g .store g w s x → ∃ t o, exec (.stG g w) s = .next t ∧ MemIssued x .store t ∧
    sfind (t.brick g.b).l1in g.sched.val = some o ∧ o.kind = .store ∧
    o.lanes.map (fun a => (a.addr, a.data)) = (x.opnd .g .store).map fun a => (a.addr, a.data)) ∧
  (∀ g w s x, MemReady 0xA6 .g .prefetch g w s x → ∃ t o, exec (.prefetchG g w) s = .next t ∧ MemIssued x .prefetch t ∧
    sfind (t.brick g.b).l1in g.sched.val = some o ∧ o.kind = .prefetch) ∧
  (∀ g w s x, MemReady 0xB2 .g .atom g w s x → 2 ≤ x.f.mScope → ∃ t, exec (.atomG g w) s = .next t ∧ MemIssued x .atom t ∧
    (t.brick g.b).atomQ.length = x.br.atomQ.length + (uniq ((x.opnd .g .atom).map LaneAcc.addr)).length) ∧
  (∀ g w s x, MemReady 0xB3 .g .red g w s x → 2 ≤ x.f.mScope → ∃ t, exec (.redG g w) s = .next t ∧ MemIssued x .red t ∧
    (t.brick g.b).atomQ.length = x.br.atomQ.length + (uniq ((x.opnd .g .red).map LaneAcc.addr)).length ∧
    (x.f.mOrder.testBit 0 = true → ∃ o, sfind (t.brick g.b).inflight x.br.nextId = some o ∧
      o.need.length = (uniq ((x.opnd .g .red).map LaneAcc.addr)).length)) ∧
  (∀ g w s x, MemReady 0xB2 .g .atom g w s x → x.f.mScope < 2 → (∀ l, x.runs l → s.targetB (laneAddr x .g l).toNat ≠ .host) →
    ∃ t o, exec (.atomG g w) s = .next t ∧ MemIssued x .atom t ∧ sfind (t.brick g.b).l1in g.sched.val = some o ∧ o.kind = .atom ∧
      o.lanes.map (fun a => (a.addr, a.data)) = (x.opnd .g .atom).map fun a => (a.addr, a.data)) ∧
  (∀ g w s x, MemReady 0xB3 .g .red g w s x → x.f.mScope < 2 → (∀ l, x.runs l → s.targetB (laneAddr x .g l).toNat ≠ .host) →
    ∃ t o, exec (.redG g w) s = .next t ∧ MemIssued x .red t ∧ sfind (t.brick g.b).l1in g.sched.val = some o ∧ o.kind = .red ∧
      o.lanes.map (fun a => (a.addr, a.data)) = (x.opnd .g .red).map fun a => (a.addr, a.data)) ∧
  (∀ g w s x, prepare 0xB4 (fun _ => true) infoFence g w s = .go x → sfind x.br.l1in g.sched.val = none → x.grp.acq = none →
    x.br.mxOut x.grp.gid = false → (x.f.mod.testBit 8 = true → x.br.released x.grp.gid (bits x.f.mod 6 4) = true) →
    ∃ t, exec (.fence g w) s = .next t ∧ MemIssued x .red t ∧
      (x.f.mod.testBit 7 = true → 2 ≤ bits x.f.mod 6 4 → (t.brick g.b).icache = [] ∧ (t.brick g.b).ccache = [] ∧ (t.brick g.b).dcache = []))

/-- R170 to R189: the issue of the matrix instructions. Each puts one entry at the end of the array queue while one is free, with the
image address taken at the lowest current lane, and the group moves on; `mx.mma` leaves D pending; `mx.batch` binds its group. -/
def Obligations.MatrixInstructionIssue : Prop :=
  let queued := fun (g : GroupRef) (x : Ctx) (t : State) (k : MxKind) => MemIssued x .store t ∧
    (t.brick g.b).mx.queue = x.br.mx.queue ++ [⟨x.br.nextId, x.grp.gid, x.grp.block, x.low, x.pc, .queued, k⟩]
  let free := fun (x : Ctx) => x.grp.acq = none ∧ x.grp.bound = none ∧ x.br.mx.queue.length < 16
  (∀ g w s x, prepare 0xC0 (fun _ => true) infoWload g w s = .go x → free x →
    imgFault s g.b.t x.run x.blk x.imgAddr (imgBytes x.f.xFmt 1 64 x.f.xSparse) false = none →
    ∃ t, exec (.mxWload g w) s = .next t ∧ queued g x t (.wload x.imgAddr x.f.xFmt x.f.xSparse) ∧
      (t.brick g.b).mx.batchTile = none) ∧
  (∀ g w s x, prepare 0xC1 (fun _ => true) infoSwap g w s = .go x → free x →
    ∃ t, exec (.mxSwap g w) s = .next t ∧ queued g x t .swap) ∧
  (∀ g w s x, prepare 0xC2 (fun _ => true) infoStream g w s = .go x → free x →
    let rows := (x.b x.low).toNat
    1 ≤ rows → rows ≤ 64 → imgFault s g.b.t x.run x.blk x.imgAddr (imgBytes x.f.xFmt 1 rows 0) false = none →
    ∃ t, exec (.mxStream g w) s = .next t ∧
      queued g x t (.stream x.imgAddr x.f.xFmt rows ((x.cPair x.low).toNat % 2 ^ rows) x.f.xBuf x.f.xZero)) ∧
  (∀ g w s x, prepare 0xC3 (fun _ => true) infoDrain g w s = .go x → free x →
    imgFault s g.b.t x.run x.blk x.imgAddr (imgBytes x.f.xFmt 1 (x.br.mx.extentAhead x.f.xBuf) 0) true = none →
    ∃ t, exec (.mxDrain g w) s = .next t ∧ queued g x t (.drain x.imgAddr x.f.xFmt x.f.xRm x.f.xBuf)) ∧
  (∀ g w s x, prepare 0xC4 (fun _ => true) infoMma g w s = .go x → free x →
    ∃ t, exec (.mxMma g w) s = .next t ∧ MemIssued x .load t ∧ ∃ e, (t.brick g.b).mx.queue = x.br.mx.queue ++ [e] ∧
      e.kind = .mma x.f.d x.cur (mmaResult x.f.xFmt (fun l j => rdG (x.grp.thread l) (x.f.a + j))
        (fun l j => rdG (x.grp.thread l) (x.f.b + j)) (fun l j => rdG (x.grp.thread l) (x.f.c + j)))) ∧
  (∀ g w s x, prepare 0xC5 (fun _ => true) infoBatch g w s = .go x → x.grp.acq = none → x.grp.bound = none →
    isSp x.imgAddr = false → imgFault s g.b.t x.run x.blk x.imgAddr 128 false = none →
    ∃ t, exec (.mxBatch g w) s = .next t ∧ MemIssued x .store t ∧
      ∃ grp, t.group? g = some grp ∧ grp.bound = some ⟨x.imgAddr, x.f.xTimeout, false, 0⟩)

/-- R173 to R189: the array executes and completes its entries. A load writes the back registers and makes them valid when it completes; a
swap exchanges front and back in one cycle; a stream adds its active rows into its half; a drain writes a record for each row of the extent and is
complete when they are performed; `mx.mma` delivers its D registers; a fired batch streams its rows, sends its drains and ends. -/
def Obligations.MatrixArrayExecution : Prop :=
  let live := fun (b : BrickRef) (s : State) => (s.tw b.t).frozen = false
  let others := fun (q : List MxEntry) => q.filter fun e => !e.kind.isBatch
  let into := fun (w : WTile) (width fmt : Nat) (int : Bool) (row0 rows mask : Nat) (recs scs : Nat → Nat) (h : Half) =>
    (activeRows rows mask).foldl (fun h i => rowInto w width fmt int (row0 + i) (recs i) (scs i) h) h
  (∀ b s e a f sp recs sc ix tile, live b s → (s.brick b).mx.next MxKind.isLoad = some e → e.kind = .wload a f sp →
    storesDone s b e.gid a = true → WeightsHave s b e.id e.block a f sp (s.width b) recs sc ix →
    parseWeights f sp (s.width b) recs sc ix = some tile →
    ∃ t, exec (.mxLoadExecute b) s = .next t ∧ (t.brick b).mx.back = { tile with valid := false } ∧
      (t.brick b).mx.front = (s.brick b).mx.front) ∧
  (∀ b s e, live b s → (s.brick b).mx.running MxKind.isLoad = some e →
    ∃ t, exec (.mxLoadComplete b) s = .next t ∧ (t.brick b).mx.back = { (s.brick b).mx.back with valid := true } ∧
      others (t.brick b).mx.queue = others ((s.brick b).mx.queue.filter fun q => decide (q.id ≠ e.id))) ∧
  (∀ b s e, live b s → (s.brick b).mx.next (fun k => decide (k = .swap)) = some e →
    ∃ t, exec (.mxSwapExecute b) s = .next t ∧ (t.brick b).mx.front = (s.brick b).mx.back ∧
      (t.brick b).mx.back = (s.brick b).mx.front ∧ (t.brick b).mx.h0 = (s.brick b).mx.h0 ∧ (t.brick b).mx.h1 = (s.brick b).mx.h1) ∧
  (∀ b s e a fmt rows mask hn zero run int recs scs, live b s → (s.tw b.t).withheld b.s.val = false → (s.brick b).mx.next MxKind.isStream = some e →
    e.kind = .stream a fmt rows mask hn zero → (s.brick b).run = some run → storesDone s b e.gid a = true →
    (s.brick b).mx.front.valid = true → mxPair (s.brick b).mx.front.fmt fmt = some int →
    (zero = true ∨ ((s.brick b).mx.half hn).int = int) →
    let w := (s.brick b).mx.front
    recordFault s b run e.block a fmt (sparseF w.sparse) rows = none →
    RowsHave s b e.id e.block a fmt (sparseF w.sparse) rows mask recs scs →
    ∃ t, exec (.mxStreamExecute b) s = .next t ∧ (t.brick b).mx.half hn = into w (s.width b) fmt int 0 rows mask recs scs
      (if zero then ⟨int, rows, []⟩ else { (s.brick b).mx.half hn with extent := max ((s.brick b).mx.half hn).extent rows })) ∧
  (∀ b s e, live b s → (s.brick b).mx.running MxKind.isStream = some e →
    ∃ t, exec (.mxStreamComplete b) s = .next t ∧
      others (t.brick b).mx.queue = others ((s.brick b).mx.queue.filter fun q => decide (q.id ≠ e.id))) ∧
  (∀ b s e a fmt rm hn, live b s → (s.brick b).mx.next MxKind.isDrain = some e → e.kind = .drain a fmt rm hn →
    ((s.brick b).mx.half hn).int = decide (fmt = 0xC) → s.width b ≤ 64 →
    let h := (s.brick b).mx.half hn
    let row := fun i n => sget 0 h.acc (i * 64 + n)
    let gen := drainGen fmt rm (s.width b) row (s.brick b).sr
    let d := fun i => drainRow fmt rm (s.width b) (row i) (gen i)
    let at' := fun i => a + i * mxRec fmt 1
    let sc := fun i => a + up128 (h.extent * mxRec fmt 1) + 2 * i
    (∀ i, i < h.extent → ImgFits s b e.block (at' i) (d i).1.2 ∧ (isMx fmt = true → ImgFits s b e.block (sc i) (d i).2.1.2)) →
    ∃ t, exec (.mxDrainExecute b) s = .next t ∧ (t.brick b).sr = gen h.extent ∧ (t.brick b).mx.running MxKind.isDrain ≠ none ∧
      ∀ i, i < h.extent → ImgPut t b e.id e.block (at' i) (d i).1.2 (d i).1.1 ∧ ImgPut t b e.id e.block (sc i) (d i).2.1.2 (d i).2.1.1) ∧
  (∀ b s e, live b s → (s.brick b).mx.running MxKind.isDrain = some e →
    (s.brick b).portDone e.id (drainScope s b e.kind.addr) = true → (s.brick b).portErr e.id = none →
    ∃ t, exec (.mxDrainComplete b) s = .next t ∧
      others (t.brick b).mx.queue = others ((s.brick b).mx.queue.filter fun q => decide (q.id ≠ e.id))) ∧
  (∀ b s e, live b s → (s.brick b).mx.running MxKind.isDrain = some e →
    (s.brick b).portDone e.id (drainScope s b e.kind.addr) = false → exec (.mxDrainComplete b) s = .next s) ∧
  (∀ b s e dst lanes d k grp, live b s → (s.brick b).mx.next MxKind.isMma = some e → e.kind = .mma dst lanes d →
    (s.brick b).group? k = some grp → grp.gid = e.gid →
    ∃ t grp', exec (.mxMmaResult b) s = .next t ∧ (t.brick b).group? k = some grp' ∧
      (∀ l j, l < grp.threads.length → lanes.toNat.testBit l = true → (grp.thread l).exited = false → j < 8 → dst + j < 255 →
        rdG (grp'.thread l) (dst + j) = (d.getD l []).getD j 0) ∧
      (∀ l, l < grp.threads.length → (grp.thread l).exited = true → grp'.thread l = grp.thread l) ∧
      ∀ p ∈ grp'.pend, ¬(p.cls = .m ∧ p.op = e.id)) ∧
  (∀ b s n u, live b s → u ∈ (s.brick b).mx.batches → u.id = n → u.fired = false →
    ∃ t, exec (.batchDeadline b n) s = .next t ∧ ∀ v ∈ (t.brick b).mx.batches, v.id = n → v.fired = true) ∧
  (∀ b s e run u w int (recs scs : Nat → Nat → Nat), live b s → (s.tw b.t).withheld b.s.val = false →
    ((s.brick b).mx.running MxKind.isBatch = some e ∨
      (s.brick b).mx.running MxKind.isBatch = none ∧ (s.brick b).mx.next MxKind.isBatch = some e) →
    (s.brick b).run = some run → (s.brick b).mx.batches.find? (fun v => decide (v.id = e.id)) = some u → u.sent = false →
    (u.reqs.all fun r => r.drain.isSome || (s.brick b).gone r.gid) = true →
    (u.reqs.all fun r => storesDone s b r.gid r.addr && storesDone s b r.gid u.addr) = true →
    ((s.brick b).mx.batchTile = some u.addr ∧ w = (s.brick b).mx.front ∨
      (s.brick b).mx.batchTile ≠ some u.addr ∧ ∃ hd rc sc ix, ImgHas s b u.id 0 u.addr 128 hd ∧ hd / 65536 = 0 ∧
        weightOk (hd % 256) (hd / 256 % 256) = true ∧
        imgFault s b.t run Block.init (u.addr + 128) (imgBytes (hd % 256) 1 64 (hd / 256 % 256)) false = none ∧
        WeightsHave s b u.id 0 (u.addr + 128) (hd % 256) (hd / 256 % 256) (s.width b) rc sc ix ∧
        parseWeights (hd % 256) (hd / 256 % 256) (s.width b) rc sc ix = some w) →
    mxPair w.fmt u.fmt = some int →
    (∀ r ∈ u.reqs, recordFault s b run r.block r.addr u.fmt (sparseF w.sparse) r.rows = none ∧
      RowsHave s b r.id r.block r.addr u.fmt (sparseF w.sparse) r.rows r.mask (recs r.id) (scs r.id)) →
    (∀ r ∈ u.reqs, ∀ a fmt rm pc, r.drain = some (a, fmt, rm, pc) → int = decide (fmt = 0xC) ∧ ∀ i n, i < r.rows →
      n ≤ mxRec fmt 1 → ImgFits s b r.block (a + i * mxRec fmt 1) n ∧
        (isMx fmt = true → n ≤ 2 → ImgFits s b r.block (a + up128 (r.rows * mxRec fmt 1) + 2 * i) n)) → s.width b ≤ 64 →
    ∃ t, exec (.batchEntryExecute b) s = .next t ∧ (t.brick b).mx.front = w ∧ (t.brick b).mx.back = WTile.empty ∧
      (t.brick b).mx.h1 = (u.reqs.foldl (fun (p : Half × Nat) r =>
        (into w (s.width b) u.fmt int p.2 r.rows r.mask (recs r.id) (scs r.id) p.1, p.2 + r.rows))
        (⟨int, u.reqs.foldl (fun n r => n + r.rows) 0, []⟩, 0)).1 ∧
      ∀ v ∈ (t.brick b).mx.batches, v.id = e.id → v.sent = true) ∧
  (∀ b s e run u, live b s → (s.tw b.t).withheld b.s.val = false → (s.brick b).mx.running MxKind.isBatch = some e → (s.brick b).run = some run →
    (s.brick b).mx.batches.find? (fun v => decide (v.id = e.id)) = some u → u.sent = true →
    (∀ r ∈ u.reqs, (s.brick b).portDone r.id (drainScope s b ((r.drain.map fun d => d.1).getD r.addr)) = true ∧
      (s.brick b).portErr r.id = none) →
    ∃ t, exec (.batchEntryExecute b) s = .next t ∧ ∀ v ∈ (t.brick b).mx.batches, v.id ≠ e.id)

/-- R120 to R122, R144, R193, R224, R316: engine work is issued with a handle of its kind and entry, written to D; `eng.wait` and
`eng.poll` return a completion word and free its entry, and `eng.poll` returns 0 while the work goes on. -/
def Obligations.EngineIssueAndWait : Prop :=
  let can := fun (x : Ctx) (k : Nat) => x.grp.acq = none ∧ x.br.released x.grp.gid 4 = true ∧ x.br.mxOut x.grp.gid = false ∧
    x.br.opSlot = some k
  let handle := fun (kind : Nat) (x : Ctx) (k : Nat) => BitVec.ofNat 32 (kind * 2 ^ 30 + k * 2 ^ 24 + x.br.issues % 2 ^ 24)
  let entered := fun (g : GroupRef) (x : Ctx) (t : State) (h : R32) (k : Nat) =>
    (∃ e, sfind (t.brick g.b).ops k = some e ∧ e.handle = h ∧ e.block = x.grp.block ∧ e.gid = x.grp.gid ∧ e.lane = x.low ∧ e.pc = x.pc ∧
      e.order = x.br.opOrder ∧ e.status = none) ∧
    (t.brick g.b).issues = x.br.issues + 1
  let wrote := fun (g : GroupRef) (x : Ctx) (t : State) (v : R32) => ∃ grp, t.group? g = some grp ∧
    ∀ l, l < x.grp.threads.length → x.cur.toNat.testBit l = true →
      (∀ n, rdG (grp.thread l) n = newG (x.grp.thread l) (setsD x.f.d v) n) ∧
      (grp.thread l).pc = (x.grp.thread l).pc + BitVec.ofNat 32 x.f.len
  (∀ g w s x k, prepare 0xD0 (fun _ => true) infoIssue g w s = .go x → can x k → x.br.mx.queue.length < 16 →
    ∃ t, exec (.tpIssue g w) s = .next t ∧ entered g x t (handle 1 x k) k ∧ wrote g x t (handle 1 x k) ∧
      (t.brick g.b).mx.queue.length = x.br.mx.queue.length + 1) ∧
  (∀ g w s x k, prepare 0xD1 (fun _ => true) infoIssue g w s = .go x → can x k →
    let u := (s.tw g.b.t).route (g.b.s.val / 24)
    u.load < 16 →
    ∃ t, exec (.rtIssue g w) s = .next t ∧ entered g x t (handle 2 x k) k ∧ wrote g x t (handle 2 x k) ∧
      ((t.tw g.b.t).route (g.b.s.val / 24)).q =
        u.q ++ [⟨(s.tw g.b.t).rtr.nextJob, handle 2 x k, g.b.s, x.grp.block, x.run.launch, x.grp.gid, x.blk.clusterId, x.imgAddr⟩]) ∧
  (∀ g w s x k, prepare 0xD2 (fun _ => true) infoIssue g w s = .go x → can x k → (s.tw g.b.t).nbu.cmds.length < 32 →
    ∃ t, exec (.nbuIssue g w) s = .next t ∧ entered g x t (handle 3 x k) k ∧ wrote g x t (handle 3 x k) ∧
      ∃ c, (t.tw g.b.t).nbu.cmds = (s.tw g.b.t).nbu.cmds ++ [c] ∧ c.src = .brick g.b.s x.run.launch (handle 3 x k) ∧ c.addr = x.imgAddr) ∧
  (∀ g w s x k e v, prepare 0xD3 (fun _ => true) infoWait g w s = .go x → x.grp.acq = none →
    x.br.opFind (x.a x.low) x.grp.block = some (k, e) → e.status = some v → statusResult v = 0 →
    ∃ t, exec (.engWait g w) s = .next t ∧ wrote g x t v ∧ sfind (t.brick g.b).ops k = none) ∧
  (∀ g w s x k e v, prepare 0xD4 (fun _ => true) infoWait g w s = .go x → x.grp.acq = none →
    x.br.opFind (x.a x.low) x.grp.block = some (k, e) → e.status = some v → statusResult v = 0 →
    ∃ t, exec (.engPoll g w) s = .next t ∧ wrote g x t v ∧ sfind (t.brick g.b).ops k = none) ∧
  (∀ g w s x k e, prepare 0xD4 (fun _ => true) infoWait g w s = .go x → x.grp.acq = none →
    x.br.opFind (x.a x.low) x.grp.block = some (k, e) → e.status = none →
    ∃ t, exec (.engPoll g w) s = .next t ∧ wrote g x t 0)

/-- R149 to R151: each thread's operation at a barrier, the acquire of a cluster barrier's wait that returns at once, and the completion of a
phase of a block or cluster barrier once every live thread has arrived. -/
def Obligations.BarrierResults : Prop :=
  let moved := fun (f : Thread → Nat → Nat → Thread) (g : GroupRef) (x : Ctx) (t : State) =>
    let key := x.f.imm24 + if x.f.mod.testBit 8 then 16 else 0
    ∃ grp, t.group? g = some grp ∧ ∀ l, l < x.grp.threads.length → grp.thread l =
      if x.cur.toNat.testBit l then f { x.grp.thread l with pc := (x.grp.thread l).pc + BitVec.ofNat 32 x.f.len } key (x.blk.curPhase key)
      else x.grp.thread l
  let rel := fun (x : Ctx) => x.br.released x.grp.gid (if x.f.mod.testBit 8 then 2 else 1) = true
  (∀ g w s x, prepare 0xB5 (fun y => decide (bits y.mod 7 6 = 0) || decide (bits y.mod 7 6 = 3)) infoBar g w s = .go x →
    sfind x.br.l1in g.sched.val = none → x.grp.acq = none → rel x →
    ∃ t, exec (.barSync g w) s = .next t ∧ moved Thread.barSync g x t) ∧
  (∀ g w s x, prepare 0xB5 (fun y => decide (bits y.mod 7 6 = 1) || decide (bits y.mod 7 6 = 3)) infoBar g w s = .go x →
    sfind x.br.l1in g.sched.val = none → x.grp.acq = none → rel x →
    ∃ t, exec (.barArrive g w) s = .next t ∧ moved Thread.barArrive g x t) ∧
  (∀ g w s x, prepare 0xB5 (fun y => decide (bits y.mod 7 6 = 2) || decide (bits y.mod 7 6 = 3)) infoBar g w s = .go x →
    sfind x.br.l1in g.sched.val = none → x.grp.acq = none →
    ∃ t, exec (.barWait g w) s = .next t ∧ moved Thread.barWaitOp g x t ∧
      (x.f.mod.testBit 8 = true → (∃ l, l < x.grp.threads.length ∧ l < 32 ∧ x.cur.toNat.testBit l = true ∧
        ((x.grp.thread l).barWaitOp (x.f.imm24 + 16) (x.blk.curPhase (x.f.imm24 + 16))).bar = none) →
        (t.brick g.b).icache = [] ∧ (t.brick g.b).ccache = [] ∧ (t.brick g.b).dcache = [])) ∧
  (∀ (b : BrickRef) (k : Nat) (key : Fin 32) s blk, (s.tw b.t).frozen = false → key.val < 16 → sfind (s.brick b).blocks k = some blk →
    (s.brick b).arrived k key.val (blk.curPhase key.val) = (true, true) →
    ∃ t blk', exec (.barrierPhaseComplete b k key) s = .next t ∧ sfind (t.brick b).blocks k = some blk' ∧
      blk'.curPhase key.val = blk.curPhase key.val + 1 ∧ (∀ j, j ≠ key.val → blk'.curPhase j = blk.curPhase j) ∧
      ∀ n grp, (s.brick b).group? n = some grp → grp.block = k → ∃ grp', (t.brick b).group? n = some grp' ∧
        ∀ l, l < grp.threads.length → grp'.thread l = (grp.thread l).phaseDone key.val (blk.curPhase key.val)) ∧
  (∀ (b : BrickRef) (k : Nat) (key : Fin 32) s blk, (s.tw b.t).frozen = false → 16 ≤ key.val → sfind (s.brick b).blocks k = some blk →
    let ms := s.clusterMembers b blk
    let arr := fun (p : Nat × Nat) => ((s.tw b.t).brick p.1).arrived p.2 key.val (blk.curPhase key.val)
    ms.Nodup → (∀ p ∈ ms, (arr p).1 = true) → (∃ p ∈ ms, (arr p).2 = true) →
    ∃ t, exec (.barrierPhaseComplete b k key) s = .next t ∧ ∀ p ∈ ms, ∃ m m', sfind ((s.tw b.t).brick p.1).blocks p.2 = some m ∧
      sfind ((t.tw b.t).brick p.1).blocks p.2 = some m' ∧ m'.curPhase key.val = m.curPhase key.val + 1)

/-- R43, R44, R99, R114: the oldest pending result of a class becomes readable and its flags enter FPSTAT; the branch gap and the sleep
count run out; the special-function lanes become free. -/
def Obligations.LatencyExpiryResults : Prop :=
  (∀ (g : GroupRef) s (grp : Group) (p : Pend), (s.tw g.b.t).frozen = false → s.group? g = some grp →
    (∀ c, c ∈ [(LatItem.i, LatClass.i), (.f, .f), (.s, .s), (.u, .u)] → grp.pend.find? (fun q => decide (q.cls = c.2)) = some p →
    ∃ t grp', exec (.latencyClassExpiry g c.1) s = .next t ∧ t.group? g = some grp' ∧ grp'.fpstat = grp.fpstat ||| p.flags ∧
      grp'.pend.length + 1 = grp.pend.length ∧ grp'.threads = grp.threads)) ∧
  (∀ (g : GroupRef) s, (s.tw g.b.t).frozen = false → ∃ t, exec (.latencyClassExpiry g .lanes) s = .next t ∧
    (sget Sched.init (t.brick g.b).scheds g.sched.val).sfu = false) ∧
  (∀ (g : GroupRef) s grp, (s.tw g.b.t).frozen = false → s.group? g = some grp →
    ∃ t, exec (.branchGapExpiry g) s = .next t ∧ t.group? g = some { grp with gap := false }) ∧
  (∀ (g : GroupRef) s grp, (s.tw g.b.t).frozen = false → s.group? g = some grp →
    ∃ t, exec (.sleepExpiry g) s = .next t ∧ t.group? g = some { grp with sleep := none })

/-- R676 to R685: markers and event packets. A push takes a number while the stack holds fewer than 15, a pop takes the newest; `ev.begin`
opens a packet, `ev.put` adds an item, `ev.end` closes it; the driver reads and skips entries. -/
def Obligations.EventAndMarkerResults : Prop :=
  let opening := fun (x : Ctx) => x.br.ev.opened = none
  let mine := fun (x : Ctx) => x.br.evMine x.grp.gid = true
  (∀ g w s x, prepare 0xE0 (fun _ => true) (infoMark true fun f => decide (f.imm24 < 2 ^ 16)) g w s = .go x → opening x →
    ∃ t grp, exec (.markPush g w) s = .next t ∧ t.group? g = some grp ∧ MemIssued x .store t ∧
      grp.marks = (if 15 ≤ x.grp.marks.length then x.grp.marks else x.f.imm24 :: x.grp.marks) ∧ (t.brick g.b).ev.opened = none) ∧
  (∀ g w s x, prepare 0xE1 (fun _ => true) (infoMark false fun _ => true) g w s = .go x → opening x →
    ∃ t grp, exec (.markPop g w) s = .next t ∧ t.group? g = some grp ∧ MemIssued x .store t ∧ grp.marks = x.grp.marks.tail ∧
      (t.brick g.b).ev.opened = none) ∧
  (∀ g w s x, prepare 0xE2 (fun _ => true) (infoMark true fun f => decide (f.imm24 < 0xF0)) g w s = .go x → opening x →
    ∃ t, exec (.evBegin g w) s = .next t ∧ MemIssued x .store t ∧ (t.brick g.b).evMine x.grp.gid = true) ∧
  (∀ g w s x, prepare 0xE3 (fun _ => true) infoEvPut g w s = .go x → mine x →
    ∃ t, exec (.evPut g w) s = .next t ∧ MemIssued x .store t ∧ (t.brick g.b).ev = evItem (pbid g.b)
      (if x.f.mod.testBit 0 then x.aPair x.low else (x.a x.low).setWidth 64) false x.br.ev) ∧
  (∀ g w s x, prepare 0xE4 (fun _ => true) (infoMark false fun _ => true) g w s = .go x → mine x →
    ∃ t, exec (.evEnd g w) s = .next t ∧ MemIssued x .store t ∧ (t.brick g.b).ev.opened = none) ∧
  (∀ (b : BrickRef) s, (s.tw b.t).fget Fld.dbgTraceCtl_EN = 0 → evAvail (s.brick b).ev = true →
    ∃ t, exec (.brkEvDataRead b) s = .next t ∧ (t.brick b).ev.q = (s.brick b).ev.q.tail) ∧
  (∀ (b : BrickRef) s e r, (s.brick b).ev.q = e :: r → e.drop = true →
    ∃ t, exec (.brkEvSkip b) s = .next t ∧ (t.brick b).ev.q = r)

/-- R248 to R254, R260, R261, R130, R132 to R135, R266 to R269: the L1 takes the operation that waits at a scheduler's input in its turn, and
then every sector of it has been delivered from a valid sector or an arrived read, or is being read; a store's lines leave with their bytes;
arriving sectors go to the operations that wait for them; a load whose sectors have all arrived writes its lanes' registers, and
an atomic of the L1 writes its new values through; a cluster access is performed in the target block. -/
def Obligations.BrickMemoryResults : Prop :=
  let lines := fun (o : MemOp) => uniq (o.l1Secs.map fun c => c / 4)
  let turn := fun (b : BrickRef) (sched : Fin 4) (s : State) (o : MemOp) => Live b.t s ∧ sfind (s.brick b).l1in sched.val = some o ∧
    (∀ i, i < (sched.val + 3 - (s.brick b).l1last) % 4 → sfind (s.brick b).l1in (((s.brick b).l1last + 1 + i) % 4) = none) ∧
    (∀ p ∈ (s.brick b).inflight, p.2.kind.isAtomic = true → ∀ c ∈ p.2.l1Secs, c ∉ o.l1Secs) ∧
    ∀ l ∈ lines o, hostHeld s b (decide (o.kind = .store)) l = false
  let room := fun (b : BrickRef) (s : State) (n : Nat) => (s.brick b).mregs.length + n ≤ 64 ∧
    (s.brick b).mregs.foldl (fun (a : Nat) m => a + m.waiters.length) 0 + n ≤ 256
  let past := fun (o : MemOp) => o.kind = .load ∧ (o.hint = 4 ∨ o.acquire = true ∧ 2 ≤ o.scope)
  let sent := fun (b : BrickRef) (t : State) => (t.brick b).sendWr ++ (t.brick b).writeQ ++ (t.brick b).mortarWr
  (∀ b (sched : Fin 4) victims s o, turn b sched s o → o.kind ≠ .store → ¬(o.kind = .prefetch ∧ o.hint = 4) → ¬past o →
    room b s (lines o).length →
    (o.kind = .load ∧ o.hint = 1 ∨ ∀ l ∈ lines o, (sfind (s.brick b).l1 l).isSome = true ∨
      ((skeys (s.brick b).l1).filter fun k => decide (k % 512 = l % 512)).length + (lines o).length ≤ (s.brick b).ways) →
    ∃ t o', exec (.l1InputAccept b sched victims) s = .next t ∧ sfind (t.brick b).l1in sched.val = none ∧
      sfind (t.brick b).inflight o.id = some o' ∧ ∀ c ∈ o.l1Secs,
        (((s.brick b).l1State c).st = .v ∧ ∃ r ∈ o'.got, r.sector = c ∧ r.data = ((s.brick b).l1State c).data ∧ r.err = none) ∨
        (∃ m ∈ (s.brick b).mregs, ∃ q ∈ m.reads, q.sector = c ∧ ∃ r, q.ret = some r ∧ r ∈ o'.got) ∨ ∃ rid, (rid, c) ∈ o'.need) ∧
  (∀ b (sched : Fin 4) victims s o, turn b sched s o → past o → room b s 0 →
    ∃ t o', exec (.l1InputAccept b sched victims) s = .next t ∧ sfind (t.brick b).l1in sched.val = none ∧
      sfind (t.brick b).inflight o.id = some o' ∧ ∀ c ∈ o.l1Secs, ∃ rid, (rid, c) ∈ o'.need) ∧
  (∀ b (sched : Fin 4) victims s o, turn b sched s o → o.kind = .prefetch → o.hint = 4 →
    ∃ t, exec (.l1InputAccept b sched victims) s = .next t ∧ sfind (t.brick b).l1in sched.val = none ∧
      ∀ c ∈ o.l1Secs, ((t.brick b).l1State c).st ≠ .v) ∧
  (∀ b (sched : Fin 4) victims s o, turn b sched s o → o.kind = .store →
    ∃ t, exec (.l1InputAccept b sched victims) s = .next t ∧ sfind (t.brick b).l1in sched.val = none ∧
      (t.brick b).outst.length = (s.brick b).outst.length + (lineWrites o.bytes o.lanes).length ∧
      ∀ p ∈ lineWrites o.bytes o.lanes,
        (s.targetB (p.1 * 128) ≠ .host → ∃ w ∈ sent b t, w.line = p.1 ∧ w.data = BitVec.ofNat 1024 p.2.1 ∧ w.mask = BitVec.ofNat 128 p.2.2) ∧
        (s.targetB (p.1 * 128) = .host → s.hostDown = false → .cxlWrite (p.1 * 128 - 2 ^ 47) p.2.1 p.2.2 ∈ t.out)) ∧
  (∀ b i s u, Live b.t s → (s.brick b).upQ[i]? = some u → (u.rets.map Ret.sector).Nodup →
    (∀ r ∈ u.rets, r.err = none ∧ (eccDecode r.data r.chk).1 = .clean) →
    ∃ t, exec (.l1FillArrival b (.up i)) s = .next t ∧ (t.brick b).upQ = ldel (s.brick b).upQ i ∧
      ∀ op o r, sfind (s.brick b).inflight op = some o → r ∈ u.rets → (u.rid, r.sector) ∈ o.need →
        ∃ o', sfind (t.brick b).inflight op = some o' ∧ (u.rid, r.sector) ∉ o'.need ∧
          ∃ q ∈ o'.got, q.sector = r.sector ∧ q.data = (eccDecode r.data r.chk).2 ∧ q.err = none) ∧
  (∀ b i d s m, Live b.t s → (s.brick b).mortarRd[i]? = some m → s.targetB (m.line * 128) = .host → s.hostDown = false →
    (s.brick b).firstOf m.rid m.line = true → m.sectors.Nodup → (∀ k ∈ m.sectors, k < 4) →
    ∃ t, exec (.l1FillArrival b (.host i d false)) s = .next t ∧ (t.brick b).mortarRd = ldel (s.brick b).mortarRd i ∧
      ∀ op o k, sfind (s.brick b).inflight op = some o → k ∈ m.sectors → (m.rid, m.line * 4 + k) ∈ o.need →
        ∃ o', sfind (t.brick b).inflight op = some o' ∧ (m.rid, m.line * 4 + k) ∉ o'.need ∧
          ∃ q ∈ o'.got, q.sector = m.line * 4 + k ∧ q.data = lineSector d k ∧ q.err = none) ∧
  (∀ b op victims s o k grp, Live b.t s → sfind (s.brick b).inflight op = some o → o.need = [] → o.firstErr = none →
    (o.kind = .load ∨ o.kind = .atom) → (o.lanes.map LaneAcc.lane).Nodup → (s.brick b).group? k = some grp → grp.gid = o.gid →
    let v := fun a => (if o.kind = .load then o else (l1AtomDo o).1).laneVal a
    ∃ t grp', exec (.loadResponse b op victims) s = .next t ∧ (t.brick b).group? k = some grp' ∧
      sfind (t.brick b).inflight op = none ∧ (∀ p ∈ grp'.pend, ¬(p.cls = .m ∧ p.op = op)) ∧
      ∀ a ∈ o.lanes, a.lane < 32 → a.lane < grp.threads.length →
        ((grp.thread a.lane).exited = true → grp'.thread a.lane = grp.thread a.lane) ∧
        ((grp.thread a.lane).exited = false → ∀ j, j < (if o.bytes ≤ 4 then 1 else if o.bytes = 8 then 2 else 4) → o.dst + j < 255 →
          rdG (grp'.thread a.lane) (o.dst + j) = BitVec.ofNat 32 (v a >>> (32 * j)))) ∧
  (∀ b op victims s o, Live b.t s → sfind (s.brick b).inflight op = some o → o.need = [] → o.firstErr = none →
    o.kind.isAtomic = true → 0 < o.bytes → 128 % o.bytes = 0 →
    (∀ a ∈ o.lanes, a.via = .l1 ∧ a.addr % o.bytes = 0 ∧ s.targetB (a.addr / 128 * 128) ≠ .host) →
    ∃ t, exec (.loadResponse b op victims) s = .next t ∧ sfind (t.brick b).inflight op = none ∧ ∀ a ∈ o.lanes,
      ∃ w ∈ sent b t, w.line = a.addr / 128 ∧ w.ord = o.acc ∧ ∀ j, j < o.bytes → w.mask.getLsbD (a.addr % 128 + j) = true ∧
        nbyte w.data.toNat (a.addr % 128 + j) =
          nbyte (atomLanes o.aop o.unsig o.bytes (o.bytesAt a.addr) (o.lanes.filter fun z => decide (z.addr = a.addr))).2 j) ∧
  (∀ b i s m sl key blk, Live b.t s → (s.brick b).cspQ[i]? = some m →
    (∀ o ∈ (s.brick b).cspQ.take i, ¬(o.dest.isSome = true ∧ o.dest = m.dest) ∧
      ¬(o.rank = m.rank ∧ o.clusterId = m.clusterId ∧ o.launch = m.launch)) →
    s.cspTarget b m.launch m.clusterId m.rank = some (sl, key) → sfind ((s.tw b.t).brick sl).blocks key = some blk →
    let r := blk.access (b.t.nat * 576 + sl) m.kind m.bytes m.aop m.unsig (m.rank * 2 ^ 19) m.lanes
    ∃ t, exec (.cspAccessAtTarget b i) s = .next t ∧ (t.brick b).cspQ = ldel (s.brick b).cspQ i ∧
      sfind ((t.tw b.t).brick sl).blocks key = some r.2 ∧
      (m.op = none → (t.brick b).ackIn = (s.brick b).ackIn ++ [(m.id, .tower)]) ∧
      ∀ op o, m.op = some op → sfind (s.brick b).inflight op = some o →
        ∃ o', sfind (t.brick b).inflight op = some o' ∧ o'.olds = r.1.foldl (fun v p => sset v p.1 p.2) o.olds ∧
          ∀ p ∈ o'.need, p.1 ≠ m.id)

/-- R140, R255, R263: an acknowledgement of the vertical port ends its store; an acknowledgement at a level raises the store's own, and
the system acknowledgement, or that of a cluster store, ends it; a line of the code window is asked for once and reaches the instruction cache. -/
def Obligations.AcknowledgementResults : Prop :=
  (∀ b i s wid, Live b.t s → (s.brick b).ackQ[i]? = some wid → ∃ t, exec (.vportWriteAck b i) s = .next t ∧
    (t.brick b).ackQ = ldel (s.brick b).ackQ i ∧ (t.brick b).outst = (s.brick b).outst.filter fun o => decide (o.wid ≠ wid)) ∧
  (∀ b wid (lvl : AckScope) s, Live b.t s → (wid, AckScope.lvl lvl) ∈ (s.brick b).ackIn →
    ∃ t, exec (.writeAcknowledgement b wid lvl) s = .next t ∧ (wid, AckScope.lvl lvl) ∉ (t.brick b).ackIn ∧
      ((lvl = .system ∨ ∃ o ∈ (s.brick b).outst, o.wid = wid ∧ o.csp = true) →
        (t.brick b).outst = (s.brick b).outst.filter fun o => decide (o.wid ≠ wid)) ∧
      (lvl ≠ .system → (∀ o ∈ (s.brick b).outst, o.wid = wid → o.csp = false) →
        (t.brick b).outst = (s.brick b).outst.map fun o =>
          if o.wid = wid then { o with ack := if o.ack.rank < (AckScope.lvl lvl).rank then AckScope.lvl lvl else o.ack } else o)) ∧
  (∀ (g : GroupRef) victims host poison s grp run ln ic v, Live g.b.t s → s.group? g = some grp → (s.brick g.b).run = some run →
    grp.fetchLine (s.brick g.b) run.codeSize = some ln →
    roRoom (s.brick g.b).icache 64 4 (sget 0 (s.brick g.b).romru (ln % 64)) ln victims = some ic →
    let dev := run.codeBase / 128 + ln
    (s.tw g.b.t).kwinOk (dev * 128) 128 = true → PortHas s g.b fetchUnit (dev * 128) 128 v →
    ∃ t, exec (.instructionCacheFill g victims host poison) s = .next t ∧
      sfind (t.brick g.b).icache ln = some (BitVec.ofNat 1024 v)) ∧
  (∀ (g : GroupRef) victims host poison s grp run ln ic k, Live g.b.t s → s.group? g = some grp → (s.brick g.b).run = some run →
    grp.fetchLine (s.brick g.b) run.codeSize = some ln →
    roRoom (s.brick g.b).icache 64 4 (sget 0 (s.brick g.b).romru (ln % 64)) ln victims = some ic →
    let dev := run.codeBase / 128 + ln
    (s.tw g.b.t).kwinOk (dev * 128) 128 = true → (s.targetB (dev * 128)).home? = some k →
    (∀ e ∈ (s.brick g.b).ebuf, e.who ≠ fetchUnit) →
    ∃ t, exec (.instructionCacheFill g victims host poison) s = .next t ∧ (t.brick g.b).icache = (s.brick g.b).icache ∧
      ∃ e, (t.brick g.b).ebuf = (s.brick g.b).ebuf ++ [e] ∧ e.who = fetchUnit ∧ e.line = dev ∧ e.sectors = [0, 1, 2, 3] ∧
        ∃ r ∈ (t.brick g.b).sendRd ++ (t.brick g.b).downQ ++ (t.brick g.b).mortarRd, r.rid = e.rid ∧ r.line = dev ∧ r.sectors = [0, 1, 2, 3]) ∧
  (∀ (g : GroupRef) victims host s grp run ln ic, Live g.b.t s → s.group? g = some grp → (s.brick g.b).run = some run →
    grp.fetchLine (s.brick g.b) run.codeSize = some ln →
    roRoom (s.brick g.b).icache 64 4 (sget 0 (s.brick g.b).romru (ln % 64)) ln victims = some ic →
    let dev := run.codeBase / 128 + ln
    (s.tw g.b.t).kwinOk (dev * 128) 128 = true → s.targetB (dev * 128) = .host → s.hostDown = false →
    (g.b.t = .t0 ∨ s.t0.serving = true) →
    ∃ t, exec (.instructionCacheFill g victims host false) s = .next t ∧ sfind (t.brick g.b).icache ln = some host ∧
      t.out = s.out ++ [.cxlRead (dev * 128 - 2 ^ 47) 128])

/-- R260 to R264, R283, R284, R291, R292: a brick's read of a line that its home holds, or of which the brick's tower has a visitor copy,
returns the sectors as they stand there, and a fill installs what has arrived and serves every requester. -/
def Obligations.HomeReadResults : Prop :=
  let ready := fun (b : BrickRef) (s : State) (r : RdMsg) (h : TowerId) => (s.targetB (r.line * 128)).home? = some h ∧
    (s.brick b).firstOf r.rid r.line = true ∧ HomeFree s b.t h (s.targetB (r.line * 128)) r.line ∧
    LlcHolds s h (s.targetB (r.line * 128)) r.line r.sectors ∧ (h = b.t ∨ sfind (s.tw b.t).mem.vis r.line = none)
  let copy := fun (v : VisCopy) (r : RdMsg) => r.sectors.map fun k =>
    (⟨r.line * 4 + k, lineSector v.data k, BitVec.ofNat 32 (v.chk.toNat >>> (32 * k)), true, true, none⟩ : Ret)
  (∀ b i s r h, Live b.t s → (s.brick b).downQ[i]? = some r → ready b s r h →
    ∃ t, exec (.vportReadPerform b i) s = .next t ∧
      (t.brick b).upQ = (s.brick b).upQ ++ [⟨r.rid, true, (s.tw h).mem.retsOf r.line r.sectors⟩] ∧
      ∃ l, l <+: (s.brick b).sendRd ∧ (t.brick b).downQ = ((s.brick b).downQ.filter fun m => decide (m.rid ≠ r.rid)) ++ l) ∧
  (∀ b i s r h, Live b.t s → (s.brick b).mortarRd[i]? = some r → ready b s r h →
    ∃ t, exec (.llcDeviceRead b i) s = .next t ∧
      (t.brick b).upQ = (s.brick b).upQ ++ [⟨r.rid, false, (s.tw h).mem.retsOf r.line r.sectors⟩] ∧
      (t.brick b).mortarRd = (s.brick b).mortarRd.filter fun m => decide (m.rid ≠ r.rid)) ∧
  (∀ b i s r v, Live b.t s → (s.brick b).mortarRd[i]? = some r → (s.brick b).firstOf r.rid r.line = true →
    (s.targetB (r.line * 128)).home? = some b.t.other → sfind (s.tw b.t).mem.vis r.line = some v →
    (∀ k ∈ r.sectors, v.valid.testBit k = true) →
    ∃ t, exec (.llcDeviceRead b i) s = .next t ∧ (t.brick b).upQ = (s.brick b).upQ ++ [⟨r.rid, false, copy v r⟩]) ∧
  (∀ h line s f, Live h s → (s.tw h).mem.fills.find? (fun f => decide (f.line = line)) = some f → f.got = f.want →
    f.got < 16 → s.target (line * 128) = .hbm h → ∃ t, exec (.llcFillInstall h line) s = .next t ∧ (∀ g ∈ (t.tw h).mem.fills, g.line ≠ line) ∧
      (∀ k, k < 4 → f.got.testBit k = true → f.bad.testBit k = false →
        (∀ e, sfind (s.tw h).mem.dir line = some e → e.valid.testBit k = false) →
        ((t.tw h).mem.now (line * 4 + k)) = ((lineSector f.data k, BitVec.ofNat 32 (f.chk.toNat >>> (32 * k))), true)) ∧
      (∀ bt sl rid port secs held, Requester.brick bt sl rid port secs held ∈ f.reqs →
        ∃ u ∈ ((t.tw bt).brick sl).upQ, u.rid = rid ∧ u.port = port ∧ u.rets.map Ret.sector = (secs.map fun k => line * 4 + k) ∧
          ∀ r ∈ u.rets, ∀ k ∈ secs, r.sector = line * 4 + k → k ∉ held → f.got.testBit k = true →
            (f.bad.testBit k = false → r.data = lineSector f.data k ∧ r.err = none) ∧
            (f.bad.testBit k = true → r.err = some .uncorrectable)) ∧
      (f.bad ≠ 0 → ∀ a, Requester.agent a ∈ f.reqs → (a, line, f.bad) ∈ (t.tw h).mem.lost))

/-- R261 to R263, R286 to R288, R291: a brick's write is performed at its home and acknowledged; what is narrower than a sector enters the
merge buffer, and a merge entry is written whole with fresh check bits when it is flushed. -/
def Obligations.HomeWriteResults : Prop :=
  let ready := fun (b : BrickRef) (s : State) (w : WrMsg) (h : TowerId) => (s.targetB (w.line * 128)).home? = some h ∧
    (s.brick b).firstWr w.ord w.line = true ∧ HomeFree s b.t h (s.targetB (w.line * 128)) w.line ∧
    LlcRoom s h (s.targetB (w.line * 128)) w.line ∧
    ((s.tw h).mem.merge.filter fun e => decide (e.slice = (s.tw h).sliceOf (s.targetB (w.line * 128)) w.line)).length ≤ 12
  let acked := fun (b : BrickRef) (s t : State) (w : WrMsg) =>
    (t.brick b).mortarWr = ((s.brick b).mortarWr.filter fun m => decide (m.wid ≠ w.wid)) ∧
    (t.brick b).ackIn = (s.brick b).ackIn ++ [(w.wid, .tower), (w.wid, .device), (w.wid, .system)]
  (∀ b i s w h, Live b.t s → (s.brick b).writeQ[i]? = some w → ready b s w h →
    ∃ t, exec (.vportWritePerform b i) s = .next t ∧ LineWritten h w.line w.data w.mask s t ∧
      (t.brick b).ackQ = (s.brick b).ackQ ++ [w.wid] ∧
      ∃ l, l <+: (s.brick b).sendWr ∧ (t.brick b).writeQ = ((s.brick b).writeQ.filter fun m => decide (m.wid ≠ w.wid)) ++ l) ∧
  (∀ b i s w h, Live b.t s → (s.brick b).mortarWr[i]? = some w → ready b s w h → w.hasWhole = true →
    ∃ t, exec (.llcDeviceWrite b i) s = .next t ∧ LineWritten h w.line w.data w.mask s t ∧ acked b s t w) ∧
  (∀ b i s w h, Live b.t s → (s.brick b).mortarWr[i]? = some w → ready b s w h → w.hasWhole = false →
    ∃ t, exec (.llcNarrowWrite b i) s = .next t ∧ LineWritten h w.line w.data w.mask s t ∧ acked b s t w) ∧
  (∀ h i s e, Live h s → (s.tw h).mem.merge[i]? = some e → (s.target (e.sector * 32)).home? = some h →
    ((s.target (e.sector * 32)).isHbm = false → ∀ d, sfind (s.tw h).mem.dir (e.sector / 4) = some d → d.valid = 0) →
    let c := eccDecode ((s.tw h).mem.now e.sector).1.1 ((s.tw h).mem.now e.sector).1.2
    let v : Sector := BitVec.ofNat 256 (mergeBytes 32 (if c.1 = .dead then 0 else c.2.toNat) e.data.toNat e.mask.toNat)
    c.1 ≠ .uncorrectable → ∃ t, exec (.mergeEntryTimeout h i) s = .next t ∧
      ((t.tw h).mem.now e.sector).1 = (v, eccEncode v) ∧ ∀ x ∈ (t.tw h).mem.merge, x.sector ≠ e.sector)

/-- R135, R136, R289 to R295, R303 to R305, R486, R489: the messages that keep copies in step. A visitor copy is dropped and acknowledged, the
acknowledgement frees the line, the reduction lock clears, a line declared dead loses its copies, and a snoop ends with the
host's answer or, unanswered, with the port viral. -/
def Obligations.CoherenceMessageResults : Prop :=
  (∀ h i s line, Live h s → (s.tw h).mem.visIn[i]? = some (.inv line) →
    ∃ t, exec (.visitorInvalidationReceipt h i) s = .next t ∧ sfind (t.tw h).mem.vis line = none ∧
      (∀ m, m ≠ line → sfind (t.tw h).mem.vis m = sfind (s.tw h).mem.vis m) ∧
      (t.tw h.other).mem.visIn = (s.tw h.other).mem.visIn ++ [.ack line] ∧ (t.tw h).mem.visIn = ldel (s.tw h).mem.visIn i) ∧
  (∀ h i s line e, Live h s → (s.tw h).mem.visIn[i]? = some (.ack line) → sfind (s.tw h).mem.dir line = some e →
    ∃ t, exec (.visitorInvalidationAck h i) s = .next t ∧
      sfind (t.tw h).mem.dir line = some { e with v := false, visWait := false }) ∧
  (∀ h line s e, Live h s → sfind (s.tw h).mem.dir line = some e →
    ∃ t, exec (.reductionLockClear h line) s = .next t ∧ sfind (t.tw h).mem.dir line = some { e with red := false }) ∧
  (∀ h i s d, Live h s → (s.tw h).mem.dead[i]? = some d → (∀ f ∈ (s.tw h).mem.fills, f.line ≠ d.line) →
    (∀ e, sfind (s.tw h).mem.dir d.line = some e → e.h = .hi ∧ e.locked = false ∧ e.v = false) →
    (d.strict = true → (s.tw h).hbmRoom d.line = true ∧ (s.tw h).levelNow ((s.tw h).place d.line).1 d.master = 16) →
    ∃ t, exec (.deadLineDrop h i) s = .next t ∧ (t.tw h).mem.dead = ldel (s.tw h).mem.dead i ∧
      sfind (t.tw h).mem.dir d.line = none ∧ sfind (t.tw h.other).mem.vis d.line = none ∧
      (∀ e ∈ (t.tw h).mem.merge, e.sector / 4 ≠ d.line) ∧
      (d.strict = true → ∀ k, k < 4 → (t.tw h).mem.stored (d.line * 4 + k) = (0, deadChk)) ∧
      (d.strict = false → (t.tw h).mem.cells = (s.tw h).mem.cells ∧ (t.tw h).mem.chks = (s.tw h).mem.chks)) ∧
  (∀ h line shared lo hi s q e, (s.tw h).gstopped = false →
    (s.tw h).mem.snoops.find? (fun q => decide (q.line = line)) = some q → sfind (s.tw h).mem.dir line = some e →
    line ∉ (s.tw h).mem.retired → ((s.target (line * 128)).isHbm = false → e.valid = 0) →
    let rest := (s.tw h).mem.snoops.erase q
    ∃ t e', exec (.bisnpResponse h line shared lo hi) s = .next t ∧ (t.tw h).mem.snoops = rest ∧
      sfind (t.tw h).mem.dir line = some e' ∧ e'.h = (if shared = true ∧ q.inv = false then .hs else .hi) ∧
      e'.biWait = (rest.any fun r => decide (r.line = line)) ∧
      ∀ (v : BitVec 512) k, k < 2 → q.discard = false →
        let d : Sector := BitVec.ofNat 256 (v.toNat >>> (256 * k))
        (lo = some v → ((t.tw h).mem.now (line * 4 + k)).1 = (d, eccEncode d)) ∧
        (hi = some v → ((t.tw h).mem.now (line * 4 + 2 + k)).1 = (d, eccEncode d))) ∧
  (∀ h line s q, (s.tw h).gstopped = false → (s.tw h).mem.snoops.find? (fun q => decide (q.line = line)) = some q →
    ∃ t, exec (.bisnpTimeout h line) s = .next t ∧ (t.tw h).mem.snoops = (s.tw h).mem.snoops.erase q ∧ t.host.viral = true ∧
      t.host.internalErr = true ∧ 16 ∈ t.t0.irq)

/-- R146, R148, R291, R300 to R303: an atomic reads the old value at its address, gives each of its lanes the value before it in lane
order, and stores the last; a reduction combines its elements into the line and locks it. -/
def Obligations.HomeAtomicResults : Prop :=
  let after := fun (a : AtomMsg) (l : Line) =>
    let lo := 8 * (a.addr % 128)
    let r := atomLanes a.aop a.unsig a.bytes (bits l.toNat (lo + 8 * a.bytes - 1) lo) a.lanes
    (r.1, putBits l.toNat (lo + 8 * a.bytes - 1) lo r.2)
  (∀ b i host poison s a h l, Live b.t s → (s.brick b).atomQ[i]? = some a → (s.brick b).firstWr a.id (a.addr / 128) = true →
    0 < a.bytes → a.addr % 32 + a.bytes ≤ 32 → (s.targetB a.addr).home? = some h →
    HomeLine s b.t h (s.targetB a.addr) (a.addr / 128) l →
    ∃ t, exec (.llcAtomic b i host poison) s = .next t ∧
      (t.brick b).atomQ = ((s.brick b).atomQ.filter fun m => decide (m.id ≠ a.id)) ∧
      (t.brick b).ackIn = (s.brick b).ackIn ++ [(a.id, .tower), (a.id, .device), (a.id, .system)] ∧
      (let k := a.addr / 32 % 4
       let v := lineSector (BitVec.ofNat 1024 (after a l).2) k
       ((t.tw h).mem.now (a.addr / 32)).1 = (v, eccEncode v)) ∧
      ∀ op o, a.op = some op → sfind (s.brick b).inflight op = some o → ∃ o', sfind (t.brick b).inflight op = some o' ∧
        o'.olds = (after a l).1.foldl (fun m p => sset m p.1 p.2) o.olds ∧ ∀ p ∈ o'.need, p.1 ≠ a.id) ∧
  (∀ b i host s a, Live b.t s → (s.brick b).atomQ[i]? = some a → (s.brick b).firstWr a.id (a.addr / 128) = true →
    (∀ m ∈ (s.brick b).atomQ, m.id ≠ a.id → m.addr / 128 ≠ a.addr / 128) →
    s.targetB a.addr = .host → s.hostDown = false →
    ∃ t, exec (.llcAtomic b i host false) s = .next t ∧
      t.out = s.out ++ [.cxlWrite (a.addr / 128 * 128 - 2 ^ 47) (after a host).2 (2 ^ 128 - 1)] ∧
      t.host.gos = s.host.gos ++ [.evict b.t b.s.val a.id (a.addr / 128 * 128 - 2 ^ 47) (after a host).2] ∧
      (t.brick b).ackIn = (s.brick b).ackIn ++ [(a.id, .tower), (a.id, .device)] ∧
      ∀ op o, a.op = some op → sfind (s.brick b).inflight op = some o → ∃ o', sfind (t.brick b).inflight op = some o' ∧
        o'.olds = (after a host).1.foldl (fun m p => sset m p.1 p.2) o.olds) ∧
  (∀ h i s r tw sl hd l, Live h s → (s.tw h).mem.redQ[i]? = some r → r.src = .tile tw sl hd →
    s.targetB (r.line * 128) = .hbm h → HomeLine s tw h (.hbm h) r.line l →
    ∃ t, exec (.llcReduction h i) s = .next t ∧ (t.tw h).mem.redQ = ldel (s.tw h).mem.redQ i ∧
      (t.tw h).mem.redErr = (s.tw h).mem.redErr ∧
      (let z := reduceLine r ((s.tw h).sliceSr ((s.tw h).homeSlice r.line)) l
       (∀ k, k < 4 → ((t.tw h).mem.now (r.line * 4 + k)).1 = (lineSector z.1 k, eccEncode (lineSector z.1 k))) ∧
       (r.sr = true → (t.tw h).sliceSr ((s.tw h).homeSlice r.line) = z.2)) ∧
      ∃ e, sfind (t.tw h).mem.dir r.line = some e ∧ e.red = true) ∧
  (∀ h i s r, Live h s → (s.tw h).mem.redQ[i]? = some r → (s.targetB (r.line * 128)).isHbm = false →
    ∃ t, exec (.llcReduction h i) s = .next t ∧ (t.tw h).mem.redQ = ldel (s.tw h).mem.redQ i ∧
      (t.tw h).mem.redErr = (s.tw h).mem.redErr ++ [(r.src, 0x20)] ∧ (t.tw h).mem.dir = (s.tw h).mem.dir)

/-- R296, R302, R308, R311, R312: watch operations and the seed of the slice generators. An operation is BUSY until it ends; it then adds
the line to its home's table, or removes it, or answers FULL, NOT_HERE, ALREADY or NOT_FOUND and changes nothing. -/
def Obligations.WatchAndSeedResults : Prop :=
  let ends := fun (h : TowerId) (s t : State) (code : Nat) => exec (.watchOperationResult h) s = .next t ∧
    (t.tw h).fget Fld.llcWatchRes_BUSY = 0 ∧ (t.tw h).fget Fld.llcWatchRes_RESULT = code ∧ (t.tw h).mem.watchOp = none
  let used := fun (h : TowerId) (s : State) (sl : Nat) =>
    ((s.tw h).mem.watch.filter fun w => decide (s.watchSlice h w.line = some sl)).length
  (∀ h v s, (s.tw h).fget Fld.llcWatchRes_BUSY = 0 → ∃ t, exec (.llcWatchAdd h v) s = .next t ∧
    (t.tw h).fget Fld.llcWatchRes_BUSY = 1 ∧ (t.tw h).mem.watchOp = some ⟨true, bits v.toNat 47 7⟩) ∧
  (∀ h v s, (s.tw h).fget Fld.llcWatchRes_BUSY = 0 → ∃ t, exec (.llcWatchDel h v) s = .next t ∧
    (t.tw h).fget Fld.llcWatchRes_BUSY = 1 ∧ (t.tw h).mem.watchOp = some ⟨false, bits v.toNat 47 7⟩) ∧
  (∀ h v s, (s.tw h).fget Fld.llcWatchRes_BUSY = 1 → exec (.llcWatchAdd h v) s = .next s ∧ exec (.llcWatchDel h v) s = .next s) ∧
  (∀ h s add line sl, Live h s → (s.tw h).mem.watchOp = some ⟨add, line⟩ → s.watchSlice h line = some sl →
    ((∃ w ∈ (s.tw h).mem.watch, w.line = line) →
      ∃ t, ends h s t (if add then 5 else 2) ∧ (add = false → ∀ w ∈ (t.tw h).mem.watch, w.line ≠ line)) ∧
    ((∀ w ∈ (s.tw h).mem.watch, w.line ≠ line) → add = true → used h s sl < 4 →
      ∃ t, ends h s t 1 ∧ (t.tw h).mem.watch = (s.tw h).mem.watch ++ [⟨line, false⟩]) ∧
    ((∀ w ∈ (s.tw h).mem.watch, w.line ≠ line) → (add = true → 4 ≤ used h s sl) →
      ∃ t, ends h s t (if add then 3 else 6) ∧ (t.tw h).mem.watch = (s.tw h).mem.watch)) ∧
  (∀ h s add line, Live h s → (s.tw h).mem.watchOp = some ⟨add, line⟩ → s.watchSlice h line = none →
    ∃ t, ends h s t 4 ∧ (t.tw h).mem.watch = (s.tw h).mem.watch) ∧
  (∀ h v s (k : Fin 576), ∃ t, exec (.llcSrSeed h v) s = .next t ∧ (t.tw h).reg .llcSrSeed = v.toNat % 2 ^ 32 ∧
    (t.tw h).sliceSr k.val = srSeed (v.setWidth 32 ^^^ BitVec.ofNat 32 k.val))

/-- R345, R347, R352 to R369: the channel controllers. A granted request leaves its queue and uses its sectors of the round; a parity error
leaves it there; levels fall by one under a hot channel and rise by one when every channel is calm; `HBM_REG` and `HBM_MASTER`
take settings within their limits and refuse others with ERR. -/
def Obligations.HbmControllerResults : Prop :=
  let state := fun (h : TowerId) (k : Fin 96) (s : State) =>
    let c := sget Chan.init (s.tw h).mem.chans k.val
    (s.tw h).markPast c.started
  let ok := fun (c : Chan) (cands : List Nat) => cands.filter fun i => match c.q[i]? with
    | some r => (c.q.take i).all fun o => !(decide (o.master = r.master) && decide (o.line = r.line))
    | none => false
  (∀ h k cands rows s i c r, Live h s → chooseGrant (s.tw h) (state h k s) (ok (state h k s) cands) rows = some (i, c) → c.q[i]? = some r →
    ∃ t, exec (.hbmGrant h k cands rows false) s = .next t ∧
      (sget Chan.init (t.tw h).mem.chans k.val).q = ldel (state h k s).q i ∧
      (sget Chan.init (t.tw h).mem.chans k.val).pos =
        (let p := (state h k s).pos + popN 4 r.mask; if p < 256 then p else p - 256) ∧
      (r.fill = true → r.mask < 16 → ∀ f ∈ (s.tw h).mem.fills, f.line = r.line →
        ∃ f' ∈ (t.tw h).mem.fills, f'.line = r.line ∧ f'.got = f.got ||| r.mask ∧ f'.bad = f.bad) ∧
      (r.fill = false → ∀ a, r.who = some a → (a, r.line, r.mask) ∈ (t.tw h).mem.direct)) ∧
  (∀ h k rows s i r, Live h s → (state h k s).q[i]? = some r → r.master < 32 → ok (state h k s) [i] = [i] →
    ∃ t, exec (.hbmGrant h k [i] rows false) s = .next t ∧ (sget Chan.init (t.tw h).mem.chans k.val).q = ldel (state h k s).q i) ∧
  (∀ h k cands rows s i c r, Live h s → chooseGrant (s.tw h) (state h k s) (ok (state h k s) cands) rows = some (i, c) → c.q[i]? = some r →
    r.parity < 3 → ∃ t, exec (.hbmGrant h k cands rows true) s = .next t ∧
      (sget Chan.init (t.tw h).mem.chans k.val).q = lmod (state h k s).q i fun r => { r with parity := r.parity + 1 }) ∧
  (∀ h s st m, Live h s → (s.tw h).fget Fld.hbmReg_THR_EN = 1 → st < (s.tw h).stackN → st < 6 → m < 32 →
    let len := fun j => (sget Chan.init (s.tw h).mem.chans (16 * st + j)).q.length
    let lv := (s.tw h).fget Fld.hbmTl_LEVEL st m
    ∃ t, exec (.hbmThrottleUpdate h) s = .next t ∧
      ((∃ j, j < 16 ∧ (s.tw h).fget Fld.hbmReg_HWM ≤ len j ∧ (s.tw h).fget Fld.hbmChGrant_OVER (16 * st + j) m = 1) →
        (t.tw h).fget Fld.hbmTl_LEVEL st m = max 1 (lv - 1)) ∧
      ((∀ j, j < 16 → len j < (s.tw h).fget Fld.hbmReg_LWM ∧ len j < (s.tw h).fget Fld.hbmReg_HWM) →
        (t.tw h).fget Fld.hbmTl_LEVEL st m = min 16 (lv + 1))) ∧
  (∀ h (k : Fin 96) s, ∃ t, exec (.hbmRefresh h k) s = .next t ∧ ∀ j,
    (sget Chan.init (t.tw h).mem.chans j).q = (sget Chan.init (s.tw h).mem.chans j).q ∧ (t.tw h).mem.cells = (s.tw h).mem.cells) ∧
  (∀ h (v : Word) s, let n := v.toNat
    let bad := bits n 39 32 = 0 ∨ 128 < bits n 39 32 ∨ bits n 39 32 ≤ bits n 31 24 ∨ bits n 23 16 = 0 ∨ bits n 15 8 = 0 ∨ 250 < bits n 15 8
    ∃ t, exec (.hbmRegWrite h v) s = .next t ∧
      (bad → (t.tw h).fget Fld.hbmReg_ERR = 1 ∧ bits ((t.tw h).reg .hbmReg) 62 0 = bits ((s.tw h).reg .hbmReg) 62 0) ∧
      (¬bad → (t.tw h).fget Fld.hbmReg_HWM = bits n 39 32 ∧ (t.tw h).fget Fld.hbmReg_LWM = bits n 31 24 ∧
        (t.tw h).fget Fld.hbmReg_HORIZON = bits n 15 8 ∧ (t.tw h).fget Fld.hbmReg_THR_EN = n % 2 ∧
        (n.testBit 63 = true → (s.tw h).setNow = [] → (t.tw h).fget Fld.hbmReg_ERR = 0))) ∧
  (∀ h (m : Fin 32) (v : Word) s, let n := v.toNat
    let bad := 256 < ((List.range 32).foldl (fun a k => a + if k = m.val then bits n 23 16 else (s.tw h).fget Fld.hbmMaster_GUAR k) 0) ∨
      ((s.tw h).fget Fld.hbmMaster_RT m.val = 1 ∧ (bits n 47 32 = 0 ∨ 32767 < bits n 47 32))
    ∃ t, exec (.hbmMasterWrite h m v) s = .next t ∧
      (bad → (t.tw h).fget Fld.hbmReg_ERR = 1 ∧ (t.tw h).reg .hbmMaster m.val = (s.tw h).reg .hbmMaster m.val) ∧
      (¬bad → (t.tw h).fget Fld.hbmMaster_GUAR m.val = bits n 23 16 ∧ (t.tw h).fget Fld.hbmMaster_WEIGHT m.val = bits n 7 0 ∧
        ((s.tw h).fget Fld.hbmMaster_RT m.val = 1 → (t.tw h).fget Fld.hbmMaster_DL_DEFAULT m.val = bits n 47 32)))

/-- R382, R383, R387 to R396, R400, R402, R405, R406: the ECC block. Buckets leak and take settings, a queued write-back stores the corrected
code word, the management controller alone frees a retired line, the scrubber counts what it reads, raw operations store and
read a code word exactly as it is. -/
def Obligations.EccUnitResults : Prop :=
  let cls := fun (p : Sector × R32) => (eccDecode p.1 p.2).1
  -- the channel of a line has room for n requests of a master, which are not throttled
  let open' := fun (h : TowerId) (line m n : Nat) (s : State) =>
    (sget Chan.init (s.tw h).mem.chans ((s.tw h).place line).2).q.length + n ≤ 128 ∧ (s.tw h).levelNow ((s.tw h).place line).1 m = 16
  (∀ h (b : Fin 8) s, ∃ t, exec (.ceLeak h b) s = .next t ∧
    (t.tw h).fget Fld.eccCeBucket_LEVEL b = (s.tw h).fget Fld.eccCeBucket_LEVEL b - 1) ∧
  (∀ h (b : Fin 8) (v : Word) s, ∃ t, exec (.eccCeBucketWrite h b v) s = .next t ∧
    (bits v.toNat 63 48 ≠ 0 → bits v.toNat 47 32 ≠ 0 → (t.tw h).fget Fld.eccCeBucket_THRESH b = bits v.toNat 63 48 ∧
      (t.tw h).fget Fld.eccCeBucket_LEAK_MS b = bits v.toNat 47 32 ∧
      (t.tw h).fget Fld.eccCeBucket_LEVEL b = (s.tw h).fget Fld.eccCeBucket_LEVEL b) ∧
    (bits v.toNat 63 48 = 0 ∨ bits v.toNat 47 32 = 0 → (t.tw h).reg .eccCeBucket b = (s.tw h).reg .eccCeBucket b)) ∧
  (∀ h i s w, Live h s → (s.tw h).mem.wbq[i]? = some w → w.sec < 2 ^ 45 →
    let a : Agent := ⟨h, 30, 2 + w.sec⟩
    let home := (s.tw (s.homeOr (w.sec / 4) h)).mem
    let here := fun (m : MemSys) => if w.bank = true then m.bankSec w.sec else m.stored w.sec
    let c := eccDecode (here (s.tw h).mem).1 (here (s.tw h).mem).2
    let gone := (s.tw h).mem.wbq.filter fun v => !(decide (v.sec = w.sec) && v.bank == w.bank)
    let read := (a, w.sec / 4, 2 ^ (w.sec % 4)) ∈ (s.tw h).mem.direct
    (w.run = true ∨ home.engHeld (w.sec / 4) = false ∧ (∀ e ∈ home.merge, e.sector ≠ w.sec) ∧
      ∀ e, sfind home.dir (w.sec / 4) = some e → e.locked = false ∧ e.h ≠ .ha) → (∀ p ∈ (s.tw h).mem.lost, p.1 ≠ a) →
    open' h (w.sec / 4) 30 1 s →
    ∃ t, exec (.eccWriteBack h i) s = .next t ∧
      (w.bank = true ∨ read → c.1 = .correctable → here (t.tw h).mem = (c.2, eccEncode c.2) ∧ (t.tw h).mem.wbq = gone) ∧
      (w.bank = true ∨ read → c.1 = .clean → here (t.tw h).mem = here (s.tw h).mem ∧ (t.tw h).mem.wbq = gone) ∧
      (w.bank = false → ¬read → (t.tw h).mem.wbq = lmod (s.tw h).mem.wbq i (fun w => { w with run := true }) ∧
        here (t.tw h).mem = here (s.tw h).mem)) ∧
  (∀ h (v : Word) s, (s.tw h).mem.retired.Nodup → ∃ t, exec (.eccRetireDel h .mgmt v) s = .next t ∧
    ∀ l, l ∈ (t.tw h).mem.retired ↔ l ∈ (s.tw h).mem.retired ∧ l ≠ bits v.toNat 47 7) ∧
  (∀ h (v : Word) s, exec (.eccRetireDel h .driver v) s = .next s) ∧
  (∀ h (v : Word) s, (s.tw h).mem.scrub = none → v.getLsbD 62 = false → bits v.toNat 11 0 ≠ 0 →
    let x := s.tw h
    let b := x.fget Fld.eccScrubBase_LINE
    let l := x.fget Fld.eccScrubLimit_LINE
    b ≤ l → (x.regionOf b).isSome = true → x.regionOf b = x.regionOf l →
    ∃ t, exec (.eccScrubGo h v) s = .next t ∧
      (t.tw h).mem.scrub = some ⟨b, l, x.fget Fld.eccScrubRec_LINE, 0, 0, 0, 0, 0, x.timeNs, 0, 0⟩) ∧
  (∀ h (v : Word) s c, (s.tw h).mem.scrub = some c → c.status = 0 → ∃ t, exec (.eccScrubAbort h v) s = .next t ∧
    ((t.tw h).mem.scrub = none ∨ ∃ c', (t.tw h).mem.scrub = some c' ∧ c'.status = 1)) ∧
  (∀ h s c, Live h s → (s.tw h).mem.scrub = some c → c.status = 0 → c.next < c.last →
    let tg := s.target (c.next * 128)
    let copies := (List.range 4).filter fun k => tg.isHbm && ((s.tw h).mem.now (c.next * 4 + k)).2
    let bad := ((List.range 4).filter fun k => decide (cls ((s.tw h).mem.stored (c.next * 4 + k)) = .correctable)).length +
      (copies.filter fun k => decide (cls ((s.tw h).mem.now (c.next * 4 + k)).1 = .correctable)).length
    ∃ t, exec (.scrubLine h) s = .next t ∧
      ((tg.home? = none ∨ c.next ∈ (s.tw h).mem.retired) →
        (t.tw h).mem.scrub = some { c with next := c.next + 1, skipped := c.skipped + 1 }) ∧
      (tg.home? ≠ none → c.next ∉ (s.tw h).mem.retired → (∀ e ∈ (s.tw h).mem.merge, e.sector / 4 ≠ c.next) →
        (s.tw h).mem.engHeld c.next = false → (∀ e, sfind (s.tw h).mem.dir c.next = some e → e.locked = false) →
        (tg.isHbm = true → (scrubAgent h, c.next, 15) ∈ (s.tw h).mem.direct) → (∀ p ∈ (s.tw h).mem.lost, p.1 ≠ scrubAgent h) →
        (∀ k, k < 4 → cls ((s.tw h).mem.stored (c.next * 4 + k)) ≠ .uncorrectable ∧
          cls ((s.tw h).mem.now (c.next * 4 + k)).1 ≠ .uncorrectable) →
        ∃ c', (t.tw h).mem.scrub = some c' ∧ c'.next = c.next + 1 ∧ c'.lines = c.lines + 1 ∧ c'.ce = c.ce + bad ∧ c'.ue = c.ue)) ∧
  (∀ h (wr : Bool) (v : Word) s, let x := s.tw h
    let sec := bits v.toNat 49 48
    let line := bits v.toNat 47 7
    let cmd := fun (who : RegBy) => if wr then Instr.eccTestRawWrite h who v else .eccTestRawRead h who v
    let own := (s.targetB (line * 128)).home? = some h
    (∃ t, exec (cmd .driver) s = .next t ∧ (t.tw h).fget Fld.eccTestCtl_RESULT = 4 ∧ (t.tw h).mem = x.mem) ∧
    (x.mem.raw = none → ∃ t, exec (cmd .mgmt) s = .next t ∧
      (¬own → (t.tw h).fget Fld.eccTestCtl_RESULT = 2 ∧ (t.tw h).mem.raw = none) ∧
      (own → line ∈ x.mem.retired → (t.tw h).fget Fld.eccTestCtl_RESULT = 3 ∧ (t.tw h).mem.raw = none) ∧
      (own → line ∉ x.mem.retired → ∃ o, (t.tw h).mem.raw = some o ∧ o.write = wr ∧ o.line = line ∧ o.sector = sec ∧
        o.chk = BitVec.ofNat 32 (x.fget Fld.eccTestChk_CHK) ∧
        ∀ i, i < 4 → bits o.data.toNat (64 * i + 63) (64 * i) = x.fget Fld.eccTestData_DATA i))) ∧
  (∀ h s r, (s.tw h).mem.raw = some r → r.sector < 4 → open' h r.line 30 2 s →
    let k := r.line * 4 + r.sector
    let hbm := (s.targetB (r.line * 128)).isHbm
    let free := (s.tw h).mem.engHeld r.line = false ∧ (∀ f ∈ (s.tw h).mem.fills, f.line ≠ r.line) ∧
      (∀ e ∈ (s.tw h).mem.merge, e.sector / 4 ≠ r.line) ∧
      ∀ e, sfind (s.tw h).mem.dir r.line = some e → e.locked = false ∧ e.h = .hi ∧ e.v = false
    let got := match sfind (s.tw h).mem.dir r.line with
      | some e => if r.run = false ∧ hbm = true ∧ e.dirty.testBit r.sector = true then e.sec r.sector else (s.tw h).mem.stored k
      | none => (s.tw h).mem.stored k
    let read := (rawAgent h, r.line, 2 ^ r.sector) ∈ (s.tw h).mem.direct
    (r.run = true ∨ free) → ∃ t, exec (.eccTestComplete h) s = .next t ∧
      (hbm = false ∨ r.write = true ∨ read → (t.tw h).mem.raw = none ∧ (t.tw h).fget Fld.eccTestCtl_RESULT = 1 ∧
        (t.tw h).fget Fld.eccInt_TEST_DONE = 1 ∧ (r.write = true → (t.tw h).mem.stored k = (r.data, r.chk)) ∧
        (r.write = false → (t.tw h).mem.stored k = got ∧ (t.tw h).fget Fld.eccTestChk_CHK = got.2.toNat ∧
          ∀ i, i < 4 → (t.tw h).fget Fld.eccTestData_DATA i = bits got.1.toNat (64 * i + 63) (64 * i))) ∧
      (hbm = true → r.write = false → ¬read → (t.tw h).mem.raw = some { r with run := true } ∧ (t.tw h).mem.stored k = got))

/-- R291, R295, R376, R388, R483 to R485, R488, R489: the host's reads and writes of device memory. A read of a half line that the home holds
returns its sectors and records the state the host takes; a write stores whole sectors, merges narrower ones, and stores the dead
marker for poison; a viral port and a tower not serving answer with poison. -/
def Obligations.HostMemoryResults : Prop :=
  let open' := fun (hpa a : Nat) (s : State) => s.hdm (hpa / 64 * 64) = some a ∧ (s.tw (devTower a)).gstopped = false ∧ s.host.up = true
  let at' := fun (a : Nat) (s : State) => s.host.viral = false ∧ (s.tw (devTower a)).serving = true ∧
    (s.target a).home? = some (devTower a) ∧ HomeFree s (devTower a) (devTower a) (s.target a) (a / 128)
  (∀ hpa mv s a l, open' hpa a s → at' a s → LlcHolds s (devTower a) (s.target a) (a / 128) [0, 1, 2, 3] →
    CleanLine (s.tw (devTower a)).mem (a / 128) l → (∀ p ∈ (s.tw (devTower a)).mem.lost, p.2.1 ≠ a / 128) →
    ∃ t, exec (.hostMemrd hpa mv) s = .next t ∧
      t.out = s.out ++ [.memData hpa (l.toNat >>> (512 * (a / 64 % 2)) % 2 ^ 512) false] ∧
      (mv = .any → ∃ e, sfind (t.tw (devTower a)).mem.dir (a / 128) = some e ∧ e.h = .ha) ∧
      (mv = .shared → ∃ e, sfind (t.tw (devTower a)).mem.dir (a / 128) = some e ∧ e.h = .hs)) ∧
  (∀ hpa mv s a, open' hpa a s → (s.host.viral = true ∨ (s.tw (devTower a)).serving = false ∨ (s.target a).home? = none ∨
      a / 128 ∈ (s.tw (devTower a)).mem.retired) →
    ∃ t, exec (.hostMemrd hpa mv) s = .next t ∧ t.out = s.out ++ [.memData hpa 0 true] ∧
      (t.tw (devTower a)).mem.cells = (s.tw (devTower a)).mem.cells ∧ (t.tw (devTower a)).mem.chks = (s.tw (devTower a)).mem.chks ∧
      (a / 128 ∉ (s.tw (devTower a)).mem.retired → (t.tw (devTower a)).mem = (s.tw (devTower a)).mem)) ∧
  (∀ hpa mv data mask poison s a, open' hpa a s → at' a s →
    ((s.target a).isHbm = true → sfind (s.tw (devTower a)).mem.dir (a / 128) = none →
      (mv ≠ .invalid → LlcRoom s (devTower a) (s.target a) (a / 128)) ∧
      (s.tw (devTower a)).hbmRoom (a / 128) = true ∧ (s.tw (devTower a)).levelNow ((s.tw (devTower a)).place (a / 128)).1
        ((hostAgent (a / 64 % 2)).charged (devTower a)) = 16) →
    let d := fun (k : Nat) => BitVec.ofNat 256 (data.toNat >>> (256 * k))
    let m := fun (k : Nat) => BitVec.ofNat 32 (mask.toNat >>> (32 * k))
    let sec := fun (k : Nat) => a / 128 * 4 + 2 * (a / 64 % 2) + k
    let dec := fun (k : Nat) => eccDecode ((s.tw (devTower a)).mem.now (sec k)).1.1 ((s.tw (devTower a)).mem.now (sec k)).1.2
    (poison = true ∨ ∀ j, j < 2 → m j = 0 ∨ m j = BitVec.allOnes 32 ∨ (dec j).1 ≠ .uncorrectable) →
    ∃ t, exec (.hostMemwr hpa mv data mask poison) s = .next t ∧ (poison = true → t.host.poisonRx = true) ∧
      (mv ≠ .invalid → ∃ e, sfind (t.tw (devTower a)).mem.dir (a / 128) = some e ∧ e.h = if mv = .any then .ha else .hs) ∧
      ∀ k, k < 2 →
        let new := ((t.tw (devTower a)).mem.now (sec k)).1
        let v : Sector := BitVec.ofNat 256 (mergeBytes 32 (if (dec k).1 = .dead then 0 else (dec k).2.toNat) (d k).toNat (m k).toNat)
        (m k = 0 → new = ((s.tw (devTower a)).mem.now (sec k)).1) ∧ (m k ≠ 0 → poison = true → new = (0, deadChk)) ∧
        (m k = BitVec.allOnes 32 → poison = false → new = (d k, eccEncode (d k))) ∧
        (m k ≠ 0 → m k ≠ BitVec.allOnes 32 → poison = false → new = (v, eccEncode v))) ∧
  (∀ hpa mv data mask poison s a, open' hpa a s → s.host.viral = false →
    ((s.tw (devTower a)).serving = false ∨ (s.target a).home? = none) →
    ∃ t, exec (.hostMemwr hpa mv data mask poison) s = .next t ∧ t.out = s.out ∧ (t.tw (devTower a)).mem = (s.tw (devTower a)).mem ∧
      t.t0.fget Fld.cpHostStat_REFUSED = satAdd 32 (s.t0.fget Fld.cpHostStat_REFUSED) 1)

/-- R18, R484, R487, R489 to R491, R526, R527, R699: the host port. Decoders are committed within their limits; viral is entered for its three causes
and ends with a reset of the partition, which completes the writes awaiting GO; the link trains while nothing holds the partition. -/
def Obligations.HostPortResults : Prop :=
  let reset := fun (s t : State) (perst : Bool) => t.host = { HostPort.init with perst := perst, railBad := s.host.railBad } ∧
    t.t0.reg .cpHostStat = Reg.reset t.t0.id .cpHostStat 0 ∧ t.t0.reg .cpHostCfg = Reg.reset t.t0.id .cpHostCfg 0 ∧
    ∀ tw sl wid, HostWr.store tw sl wid ∈ s.host.gos → (wid, AckLvl.system) ∈ ((t.tw tw).brick sl).ackIn
  let viral := fun (s t : State) => t.host.viral = true ∧
    (s.host.viral = false → t.t0.fget Fld.cpHostStat_VIRAL = 1 ∧ 16 ∈ t.t0.irq)
  (∀ (i : Fin 2) base size s, let limit := if i = 0 then 2 * s.hbmSize else 4608 * 2 ^ 20
    size ≤ limit → size % 2 ^ 28 = 0 → ∃ t, exec (.hdmDecoderCommit i base size 1) s = .next t ∧
      (if i = 0 then t.host.dec0 else t.host.dec1) = some (base, size) ∧
      (if i = 0 then t.host.dec1 else t.host.dec0) = (if i = 0 then s.host.dec1 else s.host.dec0) ∧ i.val ∉ t.host.decErr) ∧
  (∀ (i : Fin 2) base size ways s, (ways ≠ 1 ∨ (if i = 0 then 2 * s.hbmSize else 4608 * 2 ^ 20) < size ∨ size % 2 ^ 28 ≠ 0) →
    exec (.hdmDecoderCommit i base size ways) s = .next { s with host := { s.host with
      decErr := (s.host.decErr.filter fun k => decide (k ≠ i.val)) ++ [i.val] } }) ∧
  (∀ s, s.host.up = true → ∃ t, exec .hostViralSignal s = .next t ∧ viral s t) ∧
  (∀ s, s.host.up = true → s.host.ideOn = true → ∃ t, exec .ideIntegrityFailure s = .next t ∧ viral s t ∧ t.host.ideErr = true) ∧
  (∀ s, ∃ t, exec .hostPortInternalError s = .next t ∧ viral s t ∧ t.host.internalErr = true) ∧
  (∀ s, ∃ t, exec .cxlLinkReset s = .next t ∧ reset s t s.host.perst) ∧
  (∀ s, ∃ t, exec (.perstN true) s = .next t ∧ reset s t true) ∧
  (∀ s, ∃ t, exec (.perstN false) s = .next t ∧ t = { s with host := { s.host with perst := false } }) ∧
  (∀ (w r : BitVec 2) s, s.host.perst = false → s.host.railBad = false → w ≠ 0 → r ≠ 0 →
    ∃ t, exec (.hostLinkTrained w r) s = .next t ∧ t.host = { s.host with up := true } ∧
      t.t0.fget Fld.cpHostStat_WIDTH = w.toNat ∧ t.t0.fget Fld.cpHostStat_RATE = r.toNat) ∧
  (∀ i s tw sl wid, s.host.gos[i]? = some (.store tw sl wid) → ∃ t, exec (.cxlGo i) s = .next t ∧
    t.host = { s.host with gos := ldel s.host.gos i } ∧
    ((t.tw tw).brick sl).ackIn = ((s.tw tw).brick sl).ackIn ++ [(wid, .system)]) ∧
  (∀ addr s, s.hostDown = false → (∀ w ∈ s.host.gos, ∀ tw sl wid a d, w = .evict tw sl wid a d → a / 128 ≠ addr / 128) →
    ∃ t, exec (.cxlSnoop addr) s = .next t ∧ t = { s with out := s.out ++ [.snoopRsp addr none] }) ∧
  (∀ addr s tw sl wid a d gs, s.hostDown = false → s.host.gos = .evict tw sl wid a d :: gs → a / 128 = addr / 128 →
    ∃ t, exec (.cxlSnoop addr) s = .next t ∧ t.out = s.out ++ [.snoopRsp addr (some d)] ∧ t.host.gos = gs ∧
      ((t.tw tw).brick sl).ackIn = ((s.tw tw).brick sl).ackIn ++ [(wid, .system)])

/-- R8, R9, R30, R481 to R483, R659: accesses to the control space. A read of 4 or 8 bytes returns the register's value or half; reads that
the port or a window refuses return all ones, zero or nothing; a write reaches the register's own rule with the bits it carries. Writing 1
to a W1C bit clears it, unless hardware sets it in the same cycle (the cycle is the model's: log entry 2). -/
def Obligations.ControlSpaceResults : Prop :=
  let mine := fun (off : BitVec 28) (bytes : Nat) (s : State) => s.host.up = true ∧ off.toNat < 0x8000000 ∧ sizeOk off.toNat bytes = true
  (∀ (off : BitVec 28) bytes s, mine off bytes s → (s.tw (barTower off.toNat)).barGone = false →
    (s.tw (barTower off.toNat)).hwinOk off.toNat false = true →
    ∃ t, exec (.hostBarRead off bytes) s = .next t ∧
      t.out = s.out ++ [.barData off.toNat (some (halfOf (barOff off.toNat) bytes
        (s.readOff (barTower off.toNat) (barOff off.toNat / 8 * 8))))]) ∧
  (∀ (off : BitVec 28) bytes s, mine off bytes s → (s.tw (barTower off.toNat)).barGone = true →
    ∃ t, exec (.hostBarRead off bytes) s = .next t ∧ t.out = s.out ++ [.barData off.toNat (some (2 ^ (8 * bytes) - 1))]) ∧
  (∀ (off : BitVec 28) bytes s, s.host.up = true → off.toNat < 0x8000000 → sizeOk off.toNat bytes = false →
    ∃ t, exec (.hostBarRead off bytes) s = .next t ∧ t.out = s.out ++ [.barData off.toNat none] ∧
      t.t0.fget Fld.cpHostStat_REFUSED = satAdd 32 (s.t0.fget Fld.cpHostStat_REFUSED) 1) ∧
  (∀ h (off : BitVec 28) (v : Word) s r i j, s.host.up = true → off.toNat < 0x4000000 → off.toNat % 8 = 0 → (s.tw h).barGone = false →
    (s.tw h).hwinOk (off.toNat + h.nat * 0x4000000) true = true → regAt off.toNat = some (r, i, j) →
    ∃ t, exec (.registerWrite h .driver off 8 v) s = .next t ∧ t = s.writeReg h .driver r i j v.toNat (2 ^ 64 - 1)) ∧
  (∀ h (off : BitVec 28) (v : Word) s r i j, off.toNat < 0x4000000 → off.toNat % 8 = 0 → (s.tw h).mgmtAlive = true →
    regAt off.toNat = some (r, i, j) →
    ∃ t, exec (.registerWrite h .mgmt off 8 v) s = .next t ∧ t = s.writeReg h .mgmt r i j v.toNat (2 ^ 64 - 1)) ∧
  (∀ h (off : BitVec 28) (v : Word) s, s.host.up = true → off.toNat < 0x4000000 → off.toNat % 8 = 0 → (s.tw h).barGone = false →
    (s.tw h).hwinOk (off.toNat + h.nat * 0x4000000) true = false →
    ∃ t, exec (.registerWrite h .driver off 8 v) s = .next t ∧ t = s.deny h) ∧
  (∀ (x : Tower) r i b, b < 64 → ((x.setW1c r i (2 ^ b)).clearBits r i (2 ^ b)).reg r i = x.reg r i ||| 2 ^ b) ∧
  (∀ (x : Tower) r i b n, b < 64 → n < 64 → x.setNow = [] →
    ((x.clearBits r i (2 ^ b)).reg r i).testBit n = ((x.reg r i).testBit n && decide (n ≠ b))) ∧
  (∀ x : Tower, x.cyc % 2 = 0 → x.tickMgmt.setNow = []) ∧
  (∀ h (off : BitVec 28) (v : Word) s, off.toNat < 0x4000000 → (s.tw h).mgmtAlive = true → off.toNat % 8 = 0 →
    off.toNat = 0x600008 → ∃ t, exec (.registerWrite h .mgmt off 8 v) s = .next t ∧ (t.tw h).reg .llcSrSeed = v.toNat % 2 ^ 32)

/-- R297, R298, R493 to R497, R502 to R505, R523: launch tables and the kiln. Enabling a table watches its state lines or fails and leaves
the watches as they were; disabling removes them; a signal has the lines read; submitted entries are taken from HEAD on; a
record and its descriptors are checked, and the launch is rejected with the code found or runs. -/
def Obligations.LaunchTableResults : Prop :=
  let st := fun (h : TowerId) (n : Nat) (s : State) => (s.tw h).fget Fld.cpLtStat_STATE n
  -- what the checks of R503 say of an entry of the list
  let verdict := fun (h : TowerId) (s : State) (l : Launch) (e : Nat) (bad : Option (Nat × Nat)) =>
    let run := runOf l.num l.rcd 0
    let typ := bits e 63 62
    let a := bits e 47 0
    let of := fun (c : Option Nat) => c.map fun c => (0x0D, c)
    if typ = 0 ∨ bits e 61 48 ≠ 0 ∨ a % 128 ≠ 0 ∨ run.outside a (if typ = 1 then 256 else 128) = true then bad = some (0x0C, 0)
    else if s.targetB a = .host then bad = some (0x0D, if typ = 3 then 0x54 else 0x20)
    else if typ = 1 then ∃ d, EngHas s h a 256 d ∧
      let x := tdesc d
      bad = match startCheck s run ⟨0, 0, 0, 0, 0, 0, run.spBytes, 0, [], [], false, false⟩ x with
        | some c => some (0x0D, c)
        | none => if 0x7FFFFF < x.mt * cdiv x.n 8 * (x.x0 * x.x1 * x.x2) then some (0x0E, 0) else none
    else if typ = 2 then ∃ d, EngHas s h a 128 d ∧ bad = of (rtCheck s run run.spBytes d)
    else ∃ hd, (l.head = some hd ∨ l.head = none ∧ EngHas s h a 128 hd) ∧
      let k := nSteps hd
      if k = 0 ∨ 16 < k then bad = of (nbuCheck s h (some run) hd)
      else if run.outside a (128 + 32 * k) = true then bad = some (0x0C, 0)
      else ∃ v, EngHas s h (a + 128) (32 * k) v ∧ bad = of (nbuCheck s h (some run) (hd + v <<< 1024))
  (∀ h (n : Fin 8) (v : Word) s, v.toNat.testBit 63 = true → st h n s ≠ 1 →
    ∃ t, exec (.cpLtEnable h n v) s = .next t ∧ (t.tw h).fget Fld.cpLtCfg_ENABLE n = 1 ∧
      (st h n s ≠ 4 → (t.tw h).fget Fld.cpLtCfg_BASE n = bits v.toNat 47 7) ∧
      (st h n t = 1 ∨ ((st h n t = 2 ∨ st h n t = 3) ∧ (t.tw h).mem.watch = (s.tw h).mem.watch)) ∧
      (t.inOwn h ((t.tw h).ltBase n) (2048 + 256 * (t.tw h).ltEntries n) = false → st h n t = 3) ∧
      (st h n t = 1 → (t.tw h).fget Fld.cpLtStat_HEAD n = 0 ∧
        (∀ l ∈ (t.tw h).ltLines n, ∃ w ∈ (t.tw h).mem.watch, w.line = l) ∧ ∀ p ∈ (t.tw h).scanOf n, p ∈ (t.tw h).cp.scan)) ∧
  (∀ h (n : Fin 8) (v : Word) s, v.toNat.testBit 63 = false → st h n s ≠ 0 →
    ∃ t, exec (.cpLtDisable h n v) s = .next t ∧ st h n t = (if (s.tw h).ltLive n then 4 else 0) ∧
      (t.tw h).fget Fld.cpLtCfg_ENABLE n = 0 ∧ (∀ p ∈ (t.tw h).cp.scan, p.1 ≠ n.val) ∧
      sget [] (t.tw h).cp.watched n.val = []) ∧
  (∀ h s l r, Live h s → (s.tw h).cp.sigs = l :: r → ∃ t, exec (.cpWatchNotify h) s = .next t ∧ (t.tw h).cp.sigs = r ∧
    ∀ n, n < 8 → st h n s = 1 → l ∈ (s.tw h).ltLines n → ∀ p ∈ (s.tw h).scanOf n, p ∈ (t.tw h).cp.scan) ∧
  (∀ h (n : Fin 8) s k l, Live h s → (s.tw h).cpRuns = true → (s.tw h).cp.scan.find? (fun p => decide (p.1 = n.val)) = some (n.val, k, none) →
    let line := (s.tw h).ltBase n / 128 + k
    let head := (s.tw h).fget Fld.cpLtStat_HEAD n
    let w := dbytes l.toNat (8 * (head % 16)) 8
    (s.targetB (line * 128)).home? = some h → HomeFree s h h (s.targetB (line * 128)) line →
    LlcHolds s h (s.targetB (line * 128)) line [0, 1, 2, 3] → CleanLine (s.tw h).mem line l → (∀ p ∈ (s.tw h).mem.lost, p.2.1 ≠ line) →
    ∃ t, exec (.stateLineArrival h n) s = .next t ∧
      (∀ e ∈ (t.tw h).mem.watch, e.line = line → e.pending = false) ∧
      (head / 16 ≠ k ∨ w % 256 ≠ 1 → (t.tw h).cp.launches = (s.tw h).cp.launches ∧ (t.tw h).fget Fld.cpLtStat_HEAD n = head) ∧
      (head / 16 = k → w % 256 = 1 → ∃ a r, (t.tw h).cp.launches = (s.tw h).cp.launches ++ a :: r ∧ a.table = n.val ∧ a.entry = head ∧
        a.serial = w / 2 ^ 32 ∧ a.phase = .taken ∧ a.num = (s.tw h).cp.lastNum + 1)) ∧
  (∀ h s l r, Live h s → (s.tw h).cpRuns = true → (∀ k ∈ (s.tw h).cp.launches, k.phase ≠ .kiln) →
    (s.tw h).cp.launches.find? (fun l => decide (l.phase = LPhase.taken)) = some l → (s.tw h).launch? l.num = some l →
    (l.rcd = r ∨ (l.rcd = 0 ∧ EngHas s h (l.base + 2048 + 256 * l.entry) 256 r)) → r ≠ 0 →
    let k : Launch := { l with rcd := r, phase := .kiln, desc := 0, bad := none, ent := none, head := none }
    ∃ t l', exec (.launchRecordArrival h) s = .next t ∧ (t.tw h).launch? l.num = some l' ∧
      (∀ c i, kilnRecord s h r = some (c, i) →
        l' = { l with rcd := r, phase := .ending, status := 1, reason := c, index := i, detail := 0 }) ∧
      (kilnRecord s h r = none → lDescs r ≠ 0 → l' = k) ∧
      (kilnRecord s h r = none → lDescs r = 0 → l.accepted = true → l'.phase = .running ∧ l'.issues = min 255 (l.issues + 1) ∧
        l'.start = l.start) ∧
      (kilnRecord s h r = none → lDescs r = 0 → l.accepted = false →
        EngFits s h (l.base + 8 * l.entry) 8 →
        l'.phase = .running ∧ l'.accepted = true ∧ l'.next = 0 ∧ l'.start = (s.tw h).timeNs)) ∧
  (∀ h (entry : Word) poison s l e bad, Live h s → (s.tw h).cpRuns = true →
    (s.tw h).cp.launches.find? (fun l => decide (l.phase = LPhase.kiln)) = some l → (s.tw h).launch? l.num = some l →
    l.desc < lDescs l.rcd →
    (let a := lList l.rcd + 8 * l.desc
     l.ent = some e ∨ l.ent = none ∧ (s.targetB a ≠ .host ∧ EngHas s h a 8 e ∨
       s.targetB a = .host ∧ s.hostDown = false ∧ poison = false ∧ e = entry.toNat)) →
    verdict h s l e bad →
    let l1 := { l with desc := l.desc + 1, ent := none, head := none }
    ∃ t l', exec (.kilnDescriptorArrival h entry poison) s = .next t ∧ (t.tw h).launch? l.num = some l' ∧
      (∀ d, bad = some (0x0C, d) →
        l' = { l with phase := .ending, status := 1, reason := 0x0C, index := l.desc, detail := d }) ∧
      (bad = none → l.desc + 1 < lDescs l.rcd → l' = l1) ∧
      (∀ c d, bad = some (c, d) → c ≠ 0x0C → l.desc + 1 < lDescs l.rcd → l.bad = none → l' = { l1 with bad := some (c, l.desc, d) }) ∧
      (bad = none → l.desc + 1 = lDescs l.rcd → l.bad = none → (l.accepted = true ∨ EngFits s h (l.base + 8 * l.entry) 8) →
        l'.phase = .running ∧ l'.accepted = true) ∧
      (bad = none → l.desc + 1 = lDescs l.rcd → ∀ c i d, l.bad = some (c, i, d) →
        l'.phase = .ending ∧ l'.status = 1 ∧ l'.reason = c ∧ l'.index = i ∧ l'.detail = d))

/-- R51 to R59, R105, R145, R505, R506: free bricks go to the launch that wants them, blocks are delivered in order of their index, and a
block or cluster is placed with all its groups as soon as it fits. -/
def Obligations.BlockSchedulingResults : Prop :=
  (∀ h s l, Live h s → (s.tw h).cpRuns = true → (s.tw h).cp.launches = [l] → l.phase = .running → l.next < lNblock l.rcd →
    l.bricks = [] → l.held = false → l.prev = none → lCluster l.rcd ≤ 1 → lMax l.rcd = 0 → (s.tw h).cp.resv = none →
    let free := (s.tw h).liveBricks.filter (s.tw h).canTake
    (∀ k ∈ free, k < 576) → free ≠ [] → lMin l.rcd ≤ free.length →
    ∃ t l', exec (.brickGrant h) s = .next t ∧ (t.tw h).cp.launches = [l'] ∧ (∀ k, k ∈ l'.bricks ↔ k ∈ free) ∧ l'.held = true ∧
      ∀ k ∈ free, ((t.tw h).brick k).run = some (runOf l.num l.rcd ((s.tw h).lidOf k)) ∧
        ((t.tw h).brick k).sr = srSeed (BitVec.ofNat 32 (lSeed l.rcd)) ∧ ((t.tw h).brick k).issues = 0) ∧
  (∀ h num s l k r, Live h s → (s.tw h).cpRuns = true → (s.tw h).launch? num = some l → l.phase = .running →
    l.next < lNblock l.rcd → lCluster l.rcd ≤ 1 →
    nextAfter (s.tw h).lidOf l.rot (((s.tw h).lmap.filter fun p => l.bricks.contains p.2 && (s.tw h).hasRoom p.2).map Prod.snd) = k :: r →
    ∃ t l', exec (.blockDelivery h num) s = .next t ∧
      ((t.tw h).brick k).delivered = ((s.tw h).brick k).delivered ++ [⟨num, l.next, 0, l.next⟩] ∧
      (∀ j, j ≠ k → (t.tw h).brick j = (s.tw h).brick j) ∧ (t.tw h).launch? num = some l' ∧ l'.next = l.next + 1) ∧
  (∀ b s r d k, Live b.t s → (s.tw b.t).cpRuns = true → (s.tw b.t).placeable b.s.val = some (r, d, k) → r.cluster ≤ 1 →
    ∃ t, exec (.blockPlacement b) s = .next t ∧ (t.brick b).delivered = (s.brick b).delivered.tail ∧
      (t.brick b).groups.length = (s.brick b).groups.length + cdiv r.threads 32 ∧
      (∃ n blk, sfind (t.brick b).blocks n = some blk ∧ blk.launch = d.launch ∧ blk.index = d.index ∧ blk.threads = r.threads) ∧
      ∀ n grp, (s.brick b).group? n = some grp → (t.brick b).group? n = some grp) ∧
  (∀ h (c : Fin 24) launch id s ok n, Live h s → (s.tw h).cpRuns = true →
    ((List.range 24).filterMap fun p => match ((s.tw h).brick (c.val * 24 + p)).delivered with
      | d :: _ => if d.launch = launch ∧ d.clusterId = id then
          ((s.tw h).placeable (c.val * 24 + p)).map fun z => (c.val * 24 + p, z) else none
      | [] => none) = ok →
    (∀ p d r, p < 24 → ((s.tw h).brick (c.val * 24 + p)).delivered.head? = some d → d.launch = launch → d.clusterId = id →
      ((s.tw h).brick (c.val * 24 + p)).run = some r → r.cluster = n) → 2 ≤ n → ok.length = n →
    ∃ t, exec (.clusterPlacement h c launch id) s = .next t ∧
      ∀ z ∈ ok, (t.tw h).brick z.1 = ((s.tw h).brick z.1).place z.2.1 z.2.2.1 z.2.2.2 ∧
        ((t.tw h).brick z.1).delivered = ((s.tw h).brick z.1).delivered.tail) ∧
  (∀ h (c : Fin 24) launch id s n, Live h s → (s.tw h).cpRuns = true →
    let mine := fun (p : Nat) => p < 24 ∧ ∃ d, ((s.tw h).brick (c.val * 24 + p)).delivered.head? = some d ∧ d.launch = launch ∧ d.clusterId = id
    (∀ p, mine p → ∃ r, ((s.tw h).brick (c.val * 24 + p)).run = some r ∧ r.cluster = n) → 2 ≤ n →
    (∃ p, mine p ∧ (s.tw h).placeable (c.val * 24 + p) = none) → ((List.range 24).filter fun p =>
      ((s.tw h).brick (c.val * 24 + p)).delivered.head?.any fun d => decide (d.launch = launch) && decide (d.clusterId = id)).length = n →
    ∃ t, exec (.clusterPlacement h c launch id) s = .next t ∧ ∀ p, mine p → (t.tw h).brick (c.val * 24 + p) =
      { (s.tw h).brick (c.val * 24 + p) with headWait := true })

/-- R145, R494, R507 to R513, R522: how a launch ends. A fault, a timeout or an abort ends it on all its bricks with its status; lost groups
have it issued again or aborted; and it completes when its record is observed, with DONE, the count and the interrupt. -/
def Obligations.LaunchEndingResults : Prop :=
  let gone := fun (h : TowerId) (l : Launch) (t : State) => ∀ k ∈ l.bricks, ((t.tw h).brick k).groups = [] ∧ ((t.tw h).brick k).blocks = []
  (∀ h s f r l, Live h s → (s.tw h).faultIn = f :: r → (s.tw h).cp.launches.find? (fun l => l.is f.launch) = some l →
    l.num = f.launch → l.phase = .running →
    ∃ t l', exec (.launchFault h) s = .next t ∧ (t.tw h).faultIn = r ∧ (t.tw h).launch? l.num = some l' ∧ l'.phase = .ending ∧
      l'.status = 2 ∧ l'.reason = f.code ∧ l'.index = gidBlock f.gid ∧ l'.faults = satAdd 32 l.faults 1 ∧ l'.bricks = [] ∧ gone h l t) ∧
  (∀ h num s l, Live h s → (s.tw h).launch? num = some l → l.phase = .running →
    ∃ t, exec (.launchTimeout h num) s = .next t ∧
      (t.tw h).launch? num = some { l with bricks := [], phase := .ending, status := 3 } ∧ gone h l t) ∧
  (∀ h (v : Word) s l, (s.tw h).cp.launches.find? (fun l => decide (l.table = bits v.toNat 10 8) && decide (l.entry = bits v.toNat 7 0) &&
      [LPhase.taken, LPhase.kiln, LPhase.running, LPhase.lost].contains l.phase) = some l →
    (s.tw h).launch? l.num = some l → (s.tw h).fget Fld.cpLtStat_STATE (bits v.toNat 10 8) ≠ 0 →
    ∃ t, exec (.cpAbort h v) s = .next t ∧
      (t.tw h).launch? l.num = some { l with bricks := [], phase := .ending, status := 5 } ∧ gone h l t) ∧
  (∀ h num s l, Live h s → (s.tw h).cpRuns = true → (s.tw h).launch? num = some l → l.phase = .lost →
    ∃ t, exec (.launchReissue h num) s = .next t ∧
      (lRestart l.rcd = true → l.issues ≤ (s.tw h).fget Fld.cpCfg_MAX_REISSUE →
        { l with phase := .taken, num := (s.tw h).cp.lastNum + 1, old := num :: l.old } ∈ (t.tw h).cp.launches) ∧
      (¬(lRestart l.rcd = true ∧ l.issues ≤ (s.tw h).fget Fld.cpCfg_MAX_REISSUE) →
        (t.tw h).launch? num = some { l with phase := .ending, status := 4 })) ∧
  (∀ h num s l, Live h s → (s.tw h).cpRuns = true → (s.tw h).launch? num = some l → l.phase = .ending → (s.tw h).launchAcked l = true →
    l.rcd ≠ 0 → s.hostDown = false →
    let a := (s.tw h).fget Fld.cpLtCpl_CPL l.table * 64 + 64 * l.entry
    s.targetB a = .host →
    ∃ t l', exec (.launchComplete h num) s = .next t ∧ (t.tw h).launch? num = some l' ∧ l'.phase = .written ∧
      HostWr.cpl h num ∈ t.host.gos ∧ t.out = s.out ++ [.cxlWrite (a / 128 * 128 - 2 ^ 47)
        (l.record l.rcd (s.tw h).timeNs <<< (8 * (a % 128))) ((2 ^ 64 - 1) <<< (a % 128))]) ∧
  (∀ h num s l, Live h s → (s.tw h).cpRuns = true → (s.tw h).launch? num = some l → l.phase = .ending → (s.tw h).launchAcked l = true →
    l.rcd ≠ 0 →
    let a := (s.tw h).fget Fld.cpLtCpl_CPL l.table * 64 + 64 * l.entry
    s.targetB a ≠ .host → EngFits s h a 64 →
    ∃ t, exec (.launchComplete h num) s = .next t ∧
      ∀ l', (t.tw h).launch? num = some l' → l'.phase = .written) ∧
  (∀ h num s l, Live h s → (s.tw h).cpRuns = true → (s.tw h).launch? num = some l → l.phase = .written →
    (HostWr.cpl h num) ∉ s.host.gos →
    (∀ q ∈ s.t0.mem.snoops ++ s.t1.mem.snoops, q.line ≠ ((s.tw h).fget Fld.cpLtCpl_CPL l.table * 64 + 64 * l.entry) / 128) →
    EngFits s h (l.base + 8 * l.entry) 8 → l.table < 8 →
    ∃ t, exec (.launchComplete h num) s = .next t ∧ EngWrote t (l.base + 8 * l.entry) 8 (l.serial * 2 ^ 32 + 4) ∧ (∀ k ∈ (t.tw h).cp.launches, k.num ≠ num) ∧
      (t.tw h).fget Fld.cpLtStat_COMPLETED l.table = ((s.tw h).fget Fld.cpLtStat_COMPLETED l.table + 1) % 2 ^ 32 ∧
      (lMsi l.rcd = true → l.table ∈ (t.tw h).irq))

/-- R514 to R520, R528, R529: the data movers. A submission is accepted with its number while fewer than 64 wait; a descriptor that is read starts
or ends with the code of its fault; a block moves and, under a channel, is checked; completion counts the number. -/
def Obligations.DataMoverResults : Prop :=
  (∀ h (v : Word) s, (s.tw h).dm.cmds.length < 64 → ∃ t, exec (.dmSubmit h v) s = .next t ∧
    (t.tw h).dm.cmds = (s.tw h).dm.cmds ++ [⟨seqNext (s.tw h).dm.lastSeq, bits v.toNat 47 7 * 128, false, 0, 0, 0, false, false, none, none, false⟩] ∧
    (t.tw h).fget Fld.dmSubmitRes_STATE = 1 ∧ (t.tw h).fget Fld.dmSubmitRes_HANDLE = seqNext (s.tw h).dm.lastSeq) ∧
  (∀ h (v : Word) s, 64 ≤ (s.tw h).dm.cmds.length → ∃ t, exec (.dmSubmit h v) s = .next t ∧ (t.tw h).dm = (s.tw h).dm ∧
    (t.tw h).fget Fld.dmSubmitRes_STATE = 2) ∧
  (∀ h s c r d, Live h s → ((s.tw h).dm.cmds.filter DmCmd.started).length < 8 →
    (s.tw h).dm.cmds.filter (fun c => !c.started) = c :: r → c.desc = 0 → s.targetB c.addr ≠ .host →
    EngHas s h c.addr 64 d → ((mBad d).isSome = true ∨ mUses d = false ∨ (s.tw h).dm.busy (mChan d) = false) →
    ∃ t, exec (.dmDescriptorStart h) s = .next t ∧ ∃ c' ∈ (t.tw h).dm.cmds, c'.seq = c.seq ∧ c'.started = true ∧ c'.desc = d ∧
      c'.ended = (mBad d).isSome ∧ c'.result = (mBad d).getD 0) ∧
  (∀ h seq host (chk : Word) poison s v c, Live h s → (s.tw h).dm.cmds.find? (fun c => decide (c.seq = seq)) = some c →
    c.started = true → c.ended = false → c.block < mBlocks c.desc → (s.tw h).dmRemFail seq = none → mBad c.desc = none →
    mOp c.desc = 0 → mRemote c.desc = false → mCmode c.desc = 0 → c.put = false →
    let off := c.block * mBlock c.desc
    let n := min (mBlock c.desc) (mLen c.desc - off)
    let src := mSrc c.desc + off
    let dst := mDst c.desc + off
    let reads := decide (c.got = none) && decide (s.targetB src = .host)
    let writes := (List.range (n / 128)).map fun i => Out.cxlWrite (dst + 128 * i - 2 ^ 47) (v >>> (1024 * i) % 2 ^ 1024) (2 ^ 128 - 1)
    v < 2 ^ (8 * n) → (c.got = some v ∨ c.got = none ∧
      if s.targetB src = .host then s.hostDown = false ∧ poison = false ∧ src + n ≤ 2 ^ 48 ∧
        v = (host.zipIdx.foldl (fun (a : Nat) p => a + p.1.toNat <<< (1024 * p.2)) 0) % 2 ^ (8 * n)
      else EngHas s h src n v) →
    (if s.targetB dst = .host then s.hostDown = false ∧ dst + n ≤ 2 ^ 48 else EngFits s h dst n) →
    ∃ t, exec (.dmBlock h seq host chk poison) s = .next t ∧ (s.targetB dst ≠ .host → EngWrote t dst n v) ∧
      t.out = s.out ++ (if reads then [.cxlRead (src - 2 ^ 47) n] else []) ++ (if s.targetB dst = .host then writes else []) ∧
      (t.tw h).dm.cmds.find? (fun c => decide (c.seq = seq)) =
        some { c with block := c.block + 1, got := none, want := none, put := false }) ∧
  (∀ h seq s c, Live h s → (s.tw h).dm.cmds.find? (fun c => decide (c.seq = seq)) = some c → c.started = true →
    (c.ended = true ∨ mBlocks c.desc ≤ c.block) → s.dmOpen h c = false → c.cplOk = false → (s.tw h).dmRemFail seq = none →
    ∃ t, exec (.dmComplete h seq) s = .next t ∧ (∀ k ∈ (t.tw h).dm.cmds, k.seq ≠ seq) ∧ (t.tw h).dm.lastResult = c.result ∧
      (t.tw h).dm.doneSeq = (seqAdvance ((s.tw h).dm.doneAhead.length + 1) (s.tw h).dm.doneSeq ((s.tw h).dm.doneAhead ++ [c.seq])).1 ∧
      (mMsi c.desc = true → 12 ∈ (t.tw h).irq)) ∧
  (∀ h seq s c, Live h s → (s.tw h).dm.cmds.find? (fun c => decide (c.seq = seq)) = some c → c.started = true →
    (c.ended = true ∨ mBlocks c.desc ≤ c.block) → s.dmOpen h c = false → c.cplOk = true → (s.tw h).dmRemFail seq = none →
    s.targetB (mCpl c.desc) ≠ .host → EngFits s h (mCpl c.desc) 4 →
    ∃ t, exec (.dmComplete h seq) s = .next t ∧ (∀ k ∈ (t.tw h).dm.cmds, k.seq ≠ seq) ∧ EngWrote t (mCpl c.desc) 4 c.word)

/-- R413 to R429, R432, R438: flits and control flits. A flit with an error in it asks for a retry, one in sequence is taken and raises
the expected sequence, a control flit waits to be acted on; a slot sends a control flit, a replayed flit, new data that is
kept for replay, or an idle flit; RETRY, IDENT and VC_RESET act as they are defined. -/
def Obligations.LinkFlitResults : Prop :=
  let P := fun (h : TowerId) (p : Fin 8) (s : State) => (s.tw h).port p.val
  let good := fun (f : Flit) => f.toNat / 2 ^ 1984 = flitCheck (f.toNat % 2 ^ 1984)
  let hdr := fun (f : Flit) => f.toNat % 2 ^ 32
  let pay := fun (f : Flit) => f.toNat / 2 ^ 32 % 2 ^ 1952
  let acks := fun (h : TowerId) (p : Fin 8) (f : Flit) corr (s : State) =>
    (((s.tw h).fecCount p.val false corr).takeAck p.val (hdr f)).2 = false
  let err := fun (h : TowerId) (p : Fin 8) (n : Nat) (t : State) => ((t.tw h).fget Fld.lnkErr_ERR p.val).testBit n = true
  (∀ h (p : Fin 8) f uncorr corr s, (s.tw h).locked p.val = true → (uncorr = true ∨ ¬good f) → (P h p s).retryWait = false →
    ∃ t, exec (.flitReceive h p f uncorr corr) s = .next t ∧ err h p 0 t ∧ (P h p t).retryWait = true ∧
      (P h p t).ctlOut = ⟨1, (P h p s).eseq⟩ :: (P h p s).ctlOut ∧ (P h p t).eseq = (P h p s).eseq ∧ (P h p t).rx = (P h p s).rx) ∧
  (∀ h (p : Fin 8) f corr s, (s.tw h).locked p.val = true → good f → acks h p f corr s → bits (hdr f) 31 30 = 2 →
    1 ≤ pay f % 256 → pay f % 256 ≤ 9 → ∃ t, exec (.flitReceive h p f false corr) s = .next t ∧
      (P h p t).ctlIn = (P h p s).ctlIn ++ [⟨pay f % 256, pay f / 256⟩]) ∧
  (∀ h (p : Fin 8) f corr s, (s.tw h).carries p.val = true → good f → acks h p f corr s → bits (hdr f) 31 30 = 0 →
    let vc := bits (hdr f) 29 28
    let d := (bits (hdr f) 27 16 + 4096 - (P h p s).eseq) % 4096
    let o := vcAccept vc ((s.tw h).time17 / 17) p.val (pay f) ((P h p s).vrx vc)
    ∃ t, exec (.flitReceive h p f false corr) s = .next t ∧
      (d = 0 → (P h p t).eseq = ((P h p s).eseq + 1) % 4096 ∧ (P h p t).retryWait = false) ∧
      (d = 0 → ¬((s.tw h).lstate p.val = 7 ∧ vc ≤ 2) → ((P h p s).vrx vc).resetting = false → ((P h p s).vrx vc).occ < vcBuffer vc →
        o.reset = false → (P h p t).vrx vc = o.rx) ∧
      (d ≠ 0 → (P h p t).eseq = (P h p s).eseq ∧ (P h p t).rx = (P h p s).rx) ∧
      (d ≠ 0 → d < 2048 → err h p 1 t)) ∧
  (∀ h (p : Fin 8) s, (s.tw h).locked p.val = true → (s.tw h).gstopped = false →
    let c := (P h p s).creditReturn
    let q := c.2.2
    let hd := fun kind vc seq => flitHeader q kind vc seq c.1 c.2.1
    ∃ t f, exec (.flitTransmit h p) s = .next t ∧ t.out = s.out ++ [.flit h p.val f] ∧
      (∀ k r, (P h p s).ctlOut = k :: r →
        f = mkFlit (hd 2 0 q.nseq) (k.op + k.arg * 256) ∧ (P h p t).ctlOut = r ∧ (P h p t).nseq = q.nseq) ∧
      (∀ i n e, (P h p s).ctlOut = [] → (P h p s).replayAt = some (i, n) →
        (P h p s).replay.find? (fun e => decide (e.seq = i)) = some e →
        f = mkFlit (hd 0 e.vc e.seq) e.payload ∧ (P h p t).replay = (P h p s).replay) ∧
      (∀ v, (P h p s).ctlOut = [] → (P h p s).replayAt = none → (s.tw h).carries p.val = true → (P h p s).replay.length < 1024 →
        (((List.range 4).map fun i => ((P h p s).rot + i) % 4).find? fun v => (s.tw h).vcReady p.val v) = some v →
        ((s.tw h).vcReady p.val 3 = false ∨ ((P h p s).vtx 3).waited < 64) →
        ∃ d, f = mkFlit (hd 0 v q.nseq) d ∧ (P h p t).replay = (P h p s).replay ++ [⟨(P h p s).nseq, v, d⟩] ∧
          (P h p t).nseq = ((P h p s).nseq + 1) % 4096) ∧
      ((P h p s).ctlOut = [] → (P h p s).replayAt = none → (∀ v, v < 4 → (s.tw h).vcReady p.val v = false) →
        f = mkFlit (hd 1 0 q.nseq) 0)) ∧
  (∀ h (p : Fin 8) s c r, CtlFirst h p.val 1 s c r → ∃ t, exec (.retry h p) s = .next t ∧
    (c.arg % 4096 = (P h p s).nseq → (P h p t).replayAt = none ∧ (P h p t).ctlIn = r) ∧
    (c.arg % 4096 ≠ (P h p s).nseq → (∃ e ∈ (P h p s).replay, e.seq = c.arg % 4096) → (P h p s).replayAt = none →
      (P h p t).replayAt = some (c.arg % 4096, c.arg % 4096) ∧ (P h p t).ctlIn = r) ∧
    (c.arg % 4096 ≠ (P h p s).nseq → (∀ e ∈ (P h p s).replay, e.seq ≠ c.arg % 4096) → Retrained h p.val s t)) ∧
  (∀ h (p : Fin 8) s, (P h p s).retryWait = true → ∃ t, exec (.retryTimerExpiry h p) s = .next t ∧
    ((P h p s).retries + 1 < (s.tw h).fget Fld.lnkCfg_RETRY_LIMIT p.val →
      (P h p t).retries = (P h p s).retries + 1 ∧ (P h p t).ctlOut = (P h p s).ctlOut ++ [⟨1, (P h p s).eseq⟩]) ∧
    ((s.tw h).fget Fld.lnkCfg_RETRY_LIMIT p.val ≤ (P h p s).retries + 1 → Retrained h p.val s t ∧ err h p 14 t)) ∧
  (∀ h (p : Fin 8) s c n r, (P h p s).ctlWait = (c, n) :: r → ∃ t, exec (.controlResendTimeout h p) s = .next t ∧
    (n + 1 < (s.tw h).fget Fld.lnkCfg_RETRY_LIMIT p.val →
      (P h p t).ctlOut = (P h p s).ctlOut ++ [c] ∧ (P h p t).ctlWait = r ++ [(c, n + 1)]) ∧
    ((s.tw h).fget Fld.lnkCfg_RETRY_LIMIT p.val ≤ n + 1 → Retrained h p.val s t ∧ err h p 14 t)) ∧
  (∀ h (p : Fin 8) s c r, CtlFirst h p.val 2 s c r → ∃ t, exec (.ident h p) s = .next t ∧
    ((s.tw h).lstate p.val = 4 → identBad c.arg = false → identField c.arg 23 1 ≤ 1 →
      (t.tw h).lstate p.val = 5 ∧ (t.tw h).fget Fld.lnkPartner_VALID p.val = 1 ∧ (P h p t).ident = some c.arg ∧
      ∀ v, v < 4 → ((P h p t).vtx v).credits = identField c.arg (24 + 2 * v) 2) ∧
    (identBad c.arg = true → (t.tw h).lstate p.val = 7 ∧ (t.tw h).fget Fld.lnkStat_MGMT_REASON p.val = 1 ∧ err h p 10 t) ∧
    ((s.tw h).lstate p.val ≠ 4 → identBad c.arg = false → (P h p s).ident = some c.arg →
      (t.tw h).lstate p.val = (s.tw h).lstate p.val) ∧
    ((s.tw h).lstate p.val = 5 ∨ (s.tw h).lstate p.val = 6 → identBad c.arg = false → (P h p s).ident ≠ some c.arg →
      (t.tw h).lstate p.val = 7 ∧ (t.tw h).fget Fld.lnkStat_MGMT_REASON p.val = 2 ∧ err h p 11 t) ∧
    ((s.tw h).lstate p.val = 7 → identBad c.arg = false → (t.tw h).lstate p.val = 7 ∧
      ((P h p s).ident ≠ some c.arg → (P h p t).ident = some c.arg ∧ (t.tw h).fget Fld.lnkPartner_VALID p.val = 1))) ∧
  (∀ h (p : Fin 8) s c r, CtlFirst h p.val 3 s c r → ∃ t, exec (.vcReset h p) s = .next t ∧
    (P h p t).ctlOut = (P h p s).ctlOut ++ [⟨4, c.arg % 4⟩] ∧
    (P h p t).vrx (c.arg % 4) = { VcRx.init with resetting := ((P h p s).vrx (c.arg % 4)).resetting } ∧
    ((P h p t).vtx (c.arg % 4)).credits = ((P h p s).vtx (c.arg % 4)).adv ∧
    ∀ v, v ≠ c.arg % 4 → (P h p t).vrx v = (P h p s).vrx v ∧ (P h p t).vtx v = (P h p s).vtx v) ∧
  (∀ h (p : Fin 8) s c r, CtlFirst h p.val 4 s c r → ∃ t, exec (.vcResetAck h p) s = .next t ∧
    (P h p t).vrx (c.arg % 4) = VcRx.init ∧ (∀ k ∈ (P h p t).ctlWait, ¬(k.1.op = 3 ∧ k.1.arg % 4 = c.arg % 4)) ∧
    ∀ v, v ≠ c.arg % 4 → (P h p t).vrx v = (P h p s).vrx v)

/-- R408, R412, R424, R428, R430 to R432, R435, R438 to R441: training and the lanes of a port. Detection, training, lock and loss of
signal move the port between its states; lanes leave and return by request, acknowledgement and switch codeword. -/
def Obligations.LinkTrainingResults : Prop :=
  let P := fun (h : TowerId) (p : Fin 8) (s : State) => (s.tw h).port p.val
  let L := fun (h : TowerId) (p : Fin 8) (s : State) => (s.tw h).lstate p.val
  let busy := fun (h : TowerId) (p : Fin 8) (s : State) => (s.tw h).laneBusy p.val
  (∀ h (p : Fin 8) s, (s.tw h).hasPort p.val = true → ∃ t, exec (.signalDetect h p) s = .next t ∧ (P h p t).signal = true ∧
    L h p t = if L h p s = 1 ∧ (s.tw h).linksRun = true then 2 else L h p s) ∧
  (∀ h (p : Fin 8) s, 2 ≤ L h p s → L h p s ≤ 7 → ∃ t, exec (.signalLoss h p) s = .next t ∧ (P h p t).signal = false ∧
    L h p t = 1 ∧ (P h p t).fails = (P h p s).fails) ∧
  (∀ h (p : Fin 8) perm margins s, laneOrderWf perm margins = true → L h p s = 2 →
    ∃ t, exec (.trainComplete h p true perm margins) s = .next t ∧ L h p t = 3 ∧ (P h p t).perm = perm) ∧
  (∀ h (p : Fin 8) perm margins s, L h p s = 2 → ∃ t, exec (.trainComplete h p false perm margins) s = .next t ∧
    let fs := (P h p s).fails.filter (fun a => decide ((s.tw h).time17 / 17 < a + 60000000000)) ++ [(s.tw h).time17 / 17]
    (P h p t).fails = fs ∧ L h p t = if 3 ≤ fs.length then 8 else 2) ∧
  (∀ h (p : Fin 8) s, L h p s = 3 → ∃ t, exec (.lockAcquire h p true) s = .next t ∧ L h p t = 4 ∧
    (t.tw h).fget Fld.lnkStat_LANES p.val = 15 ∧ (P h p t).ctlOut = (P h p s).ctlOut ++ [⟨2, (s.tw h).identArg p.val⟩]) ∧
  (∀ h (p : Fin 8) s, L h p s = 3 → ∃ t, exec (.lockAcquire h p false) s = .next t ∧ (L h p t = 2 ∨ L h p t = 8)) ∧
  (∀ h (p : Fin 8) s, (s.tw h).locked p.val = true → ∃ t, exec (.silenceTimeout h p) s = .next t ∧ Retrained h p.val s t ∧
    ((t.tw h).fget Fld.lnkErr_ERR p.val).testBit 13 = true) ∧
  (∀ h (p : Fin 8) s c r, CtlFirst h p.val 9 s c r → ∃ t, exec (.retrain h p) s = .next t ∧ Retrained h p.val s t) ∧
  (∀ h (p : Fin 8) s, (s.tw h).hasPort p.val = true → L h p s ≠ 0 → ∃ t, exec (.lnkCtlRetrain h p) s = .next t ∧
    L h p t = (if (P h p s).signal = true ∧ (s.tw h).linksRun = true then 2 else 1)) ∧
  (∀ h (p : Fin 8) s, (s.tw h).hasPort p.val = true → ∃ t, exec (.lnkCtlEnable h p true) s = .next t ∧
    (t.tw h).fget Fld.lnkCtl_ENABLE p.val = 1 ∧ (L h p s = 0 → Retrained h p.val s t) ∧ (L h p s ≠ 0 → L h p t = L h p s)) ∧
  (∀ h (p : Fin 8) s, (s.tw h).hasPort p.val = true → ∃ t, exec (.lnkCtlEnable h p false) s = .next t ∧
    (t.tw h).fget Fld.lnkCtl_ENABLE p.val = 0 ∧ L h p t = 0) ∧
  (∀ h (p : Fin 8) (l : Fin 4) defer s, (s.tw h).hasPort p.val = true → ∃ t, exec (.lnkCtlRecal h p l defer) s = .next t ∧
    ((L h p s = 5 ∨ L h p s = 6) → busy h p s = false → (P h p s).asked = none →
      (P h p t).asked = some l.val ∧ (P h p t).ctlOut = (P h p s).ctlOut ++ [⟨5, l.val⟩]) ∧
    ((L h p s = 5 ∨ L h p s = 6) → busy h p s = true → defer = true → (P h p s).want = none →
      (P h p t).want = some l.val ∧ (t.tw h).fget Fld.lnkStat_RECAL_RESULT p.val = 3) ∧
    ((L h p s = 5 ∨ L h p s = 6) → busy h p s = true → defer = false → (t.tw h).fget Fld.lnkStat_RECAL_RESULT p.val = 2) ∧
    (L h p s ≠ 5 → L h p s ≠ 6 → (t.tw h).fget Fld.lnkStat_RECAL_RESULT p.val = 2)) ∧
  (∀ h (p : Fin 8) s c r, CtlFirst h p.val 5 s c r → ∃ t, exec (.laneDrop h p) s = .next t ∧
    (3 < c.arg % 256 → (P h p t).ctlOut = (P h p s).ctlOut ++ [⟨8, c.arg % 256 + 512⟩]) ∧
    (c.arg % 256 ≤ 3 → busy h p s = true → (P h p t).ctlOut = (P h p s).ctlOut ++ [⟨8, c.arg % 256 + 256⟩]) ∧
    (c.arg % 256 ≤ 3 → busy h p s = false → (P h p s).asked = none →
      (P h p t).sw = some ⟨(P h p s).lane (c.arg % 256), true, false⟩ ∧
      (P h p t).ctlOut = (P h p s).ctlOut ++ [⟨7, c.arg % 256 + (P h p s).switchCw * 256⟩])) ∧
  (∀ h (p : Fin 8) s c r k, CtlFirst h p.val 6 s c r → (P h p s).recal = some k → c.arg % 256 ≤ 3 →
    k.lane = (P h p s).lane (c.arg % 256) → k.mine = false → (P h p s).sw = none →
    ∃ t, exec (.laneAdd h p) s = .next t ∧ (P h p t).sw = some ⟨k.lane, false, false⟩ ∧
      (P h p t).ctlOut = (P h p s).ctlOut ++ [⟨7, c.arg % 256 + (P h p s).switchCw * 256⟩]) ∧
  (∀ h (p : Fin 8) s c r, CtlFirst h p.val 7 s c r → ∃ t, exec (.laneAck h p) s = .next t ∧
    (∀ l, (P h p s).asked = some l → (P h p t).asked = none ∧ (P h p t).sw = some ⟨l, true, true⟩) ∧
    (∀ k, (P h p s).asked = none → (P h p s).recal = some k → k.mine = true → k.ready = true →
      (P h p t).sw = some ⟨k.lane, false, true⟩)) ∧
  (∀ h (p : Fin 8) s c r, CtlFirst h p.val 8 s c r → ∃ t, exec (.laneNak h p) s = .next t ∧
    ((P h p s).want = none → (P h p t).asked = none ∧ ∀ k ∈ (P h p t).ctlWait, k.1.op ≠ 5 ∧ k.1.op ≠ 6) ∧
    (∀ l, (P h p s).want = some l → (busy h p s = true → (P h p t).asked = none ∧ (P h p t).want = some l) ∧
      (busy h p s = false → (P h p t).asked = some l ∧ (P h p t).want = none ∧
        (P h p t).ctlOut = (P h p s).ctlOut ++ [⟨5, l⟩])) ∧
    ((P h p s).asked.isSome = true → (t.tw h).fget Fld.lnkStat_RECAL_RESULT p.val = 2)) ∧
  (∀ h (p : Fin 8) s w, (P h p s).sw = some w → w.lane < 4 → ∃ t, exec (.laneSwitchCodeword h p) s = .next t ∧
    (t.tw h).fget Fld.lnkLane_OUT p.val w.lane = (if w.drop then 1 else 0) ∧
    (∀ i, i < 4 → ((t.tw h).fget Fld.lnkStat_LANES p.val).testBit i =
      if i = w.lane then !w.drop else ((s.tw h).fget Fld.lnkStat_LANES p.val).testBit i) ∧
    (P h p t).sw = none ∧ (P h p t).recal = (if w.drop then some ⟨w.lane, w.mine, false⟩ else none) ∧
    ((L h p s = 5 ∨ L h p s = 6) → L h p t = if w.drop then 6 else 5)) ∧
  (∀ h (p : Fin 8) (m : BitVec 8) s k, (P h p s).recal = some k → k.ready = false →
    ∃ t, exec (.laneRecalComplete h p m) s = .next t ∧ (P h p t).recal = some { k with ready := true } ∧
      (t.tw h).fget Fld.lnkLane_MARGIN p.val k.lane = m.toNat ∧
      (P h p t).ctlOut = (P h p s).ctlOut ++ (if k.mine then [⟨6, k.lane⟩] else [])) ∧
  (∀ h (p : Fin 8) s, let now := (List.range 4).map fun l => (s.tw h).fget Fld.lnkLane_CORR_SYM p.val l
    let th := (s.tw h).fget Fld.lnkCfg_RECAL_THRESH p.val
    ∃ t, exec (.autoRecalCheck h p) s = .next t ∧ (P h p t).base = now ∧
      (th = 0 → (P h p t).ctlOut = (P h p s).ctlOut) ∧
      (∀ l, th ≠ 0 → (List.range 4).find? (fun l => decide (th < now.getD l 0 - (P h p s).base.getD l 0)) = some l →
        (L h p s = 5 ∨ L h p s = 6) → busy h p s = false → (P h p s).asked = none →
        (P h p t).asked = some l ∧ (P h p t).ctlOut = (P h p s).ctlOut ++ [⟨5, l⟩]))

/-- R433, R442, R445 to R454: the router takes the first message of a source and sends it on: to this tower, across the hinge, to a port,
or along a detour; a message that has made 64 hops or has no way is discarded and counted, and the source of a request hears a NAK. -/
def Obligations.RouterResults : Prop :=
  let out := fun (m : FMsg) (p v : Nat) (x y : Tower) => ((y.port p).vtx v).q = ((x.port p).vtx v).q ++ [m] ∧
    ∀ q u, q ≠ p ∨ u ≠ v → ((y.port q).vtx u).q = ((x.port q).vtx u).q
  let counted := fun (m : FMsg) (x y : Tower) =>
    y.fget Fld.rtrPortStat_DISCARDS (if m.via < 8 then m.via else 0) =
      min (2 ^ (Fld.rtrPortStat_DISCARDS.hi + 1 - Fld.rtrPortStat_DISCARDS.lo) - 1)
        (x.fget Fld.rtrPortStat_DISCARDS (if m.via < 8 then m.via else 0) + 1)
  let lost := fun (m : FMsg) (reason : Nat) (x y : Tower) =>
    y.rtr = { x.rtr with own := if m.typ = 0x01 ∨ m.typ = 0x02 ∨ m.typ = 0x20
      then x.rtr.own ++ [x.msg 0x1E 0 32 m.src 0 m.tag (reason + m.typ * 256)] else x.rtr.own }
  (∀ h src s m x, Live h s → (s.tw h).takeMsg src = some (m, x) →
    ∃ t, exec (.messageRoute h src) s = .next t ∧
      (64 ≤ m.hops → (8 ≤ m.via ∨ vcOf m.typ = 3 ∨ x.why m.via ≠ 2) → counted m x (t.tw h) ∧ lost m 3 x (t.tw h)) ∧
      (m.hops < 64 → (8 ≤ m.via ∨ vcOf m.typ = 3 ∨ x.why m.via ≠ 2) →
        let hop := x.nextHop m (s.tw h.other).serving
        (hop = .here → (t.tw h).rtr = { x.rtr with inbox := x.rtr.inbox ++ [m] } ∧ (t.tw h).ports = x.ports) ∧
        (hop = .hinge → (s.tw h.other).serving = true → (t.tw h).rtr = x.rtr ∧ (t.tw h).ports = x.ports ∧
          ∃ m', (t.tw h.other).rtr = { (s.tw h.other).rtr with hinge := (s.tw h.other).rtr.hinge ++ [m'] } ∧
            m' = { m with via := 8, body := m'.body, stamp := (s.tw h.other).time17 / 17 } ∧ (m.typ ≠ 0x30 → m'.body = m.body)) ∧
        (hop = .hinge → (s.tw h.other).serving = false → lost m 5 x (t.tw h)) ∧
        (∀ p, hop = .port p → out m p (vcOf m.typ) x (t.tw h) ∧ (t.tw h).rtr = x.rtr) ∧
        (∀ p, hop = .detour p → out { m with flags := m.flags ||| 32 } p (vcOf m.typ) x (t.tw h) ∧ (t.tw h).rtr = x.rtr) ∧
        (hop = .none → counted m x (t.tw h) ∧ lost m 2 x (t.tw h)))) ∧
  (∀ (x : Tower) (m : FMsg) o, m.dst % 1024 = x.node → x.nextHop m o = if m.dst / 1024 % 2 = x.id.nat then .here else .hinge) ∧
  (∀ (x : Tower) (m : FMsg), m.dst % 1024 ≠ x.node → m.dst / 1024 % 2 ≠ x.id.nat → m.via = 9 → x.nextHop m true = .hinge) ∧
  (∀ (x : Tower) (m : FMsg) o p, x.nextHop m o = .port p → x.eligible (vcOf m.typ) p = true ∧
    (m.flags.testBit 0 = false → p ∈ x.productive m ∧ ∀ q ∈ x.productive m, x.eligible (vcOf m.typ) q = true →
      (((x.port q).vtx (vcOf m.typ)).credits : Int) - m.need q ≤ ((x.port p).vtx (vcOf m.typ)).credits - m.need p)) ∧
  (∀ h s m x, Live h s → (s.tw h).takeInbox 0x1F = some (m, x) → ∃ t, exec (.error h) s = .next t ∧ t.tw h = x ∧
    t.tw h.other = s.tw h.other)

/-- R140, R456 to R458, R475: remote reads and writes. A request is checked against the windows of its destination, performed there and
answered; its source holds it until the answer, sends it again after each timeout, three times, and then reports failure. -/
def Obligations.RemoteRequestResults : Prop :=
  let own := fun (h : TowerId) (s : State) => (s.tw h).rtr.own
  let nak := fun (x : Tower) (m : FMsg) (reason : Nat) => x.msg 0x1E 0 32 m.src 0 m.tag (reason + m.typ * 256)
  let wrBad := fun (x : Tower) (m : FMsg) => x.admits true (m.field 16 8) (m.len - 32) = false
  let wrFit := fun (x : Tower) (m : FMsg) =>
    x.admits true (m.field 16 8) (m.len - 32) = true ∧ m.field 16 8 % 16 = 0 ∧ 48 ≤ m.len
  let rdFit := fun (x : Tower) (m : FMsg) => x.admits false (m.field 16 8) (m.field 24 4) = true ∧ m.field 24 4 % 16 = 0 ∧
    m.field 24 4 ≠ 0 ∧ m.field 24 4 ≤ 4080
  -- the answers kept are those for which someone still waits (R243)
  let done := fun (x : Tower) (q : RemReq) (ok : Bool) (reason data : Nat) => { x.rtr with
    rem := x.rtr.rem.filter (fun e => decide (e.msg.tag ≠ q.msg.tag))
    remDone := (x.rtr.remDone.filter fun d => x.remWanted d.src) ++ if x.remWanted q.src = true then [⟨q.src, ok, reason, data⟩] else [] }
  -- a line that cannot be accessed, and the reason of the NAK
  let refused := fun (h : TowerId) (s : State) (a n reason : Nat) => 0 < n ∧ a % 128 + n ≤ 128 ∧
    let home := (s.targetB (a / 128 * 128)).home?
    (reason = 4 ∧ home = none) ∨ ∃ k, home = some k ∧ sfind (s.tw h).mem.vis (a / 128) = none ∧
      (∀ p ∈ (s.tw k).mem.lost, p.2.1 ≠ a / 128) ∧
      if h ≠ k ∧ (s.tw k).serving = false then reason = 5 else reason = 4 ∧ a / 128 ∈ (s.tw k).mem.retired
  let held := fun (r : Rtr) (tag : Nat) (q : RemReq) => r.rem.find? (fun q => decide (q.msg.tag = tag)) = some q
  (∀ (x : Tower) wr a n, x.admits wr a n = true → a + n ≤ 2 ^ 47 ∧ ∃ w, w < 8 ∧
    x.fget Fld.rtrAdmitBase_LINE w * 128 ≤ a ∧ a + n ≤ x.fget Fld.rtrAdmitLimit_LINE w * 128 + 128 ∧
    (wr = true → x.fget Fld.rtrAdmitBase_WR w = 1) ∧ (wr = false → x.fget Fld.rtrAdmitBase_RD w = 1)) ∧
  (∀ h s m x, Live h s → (s.tw h).takeInbox 0x01 = some (m, x) → wrBad x m →
    ∃ t, exec (.wr h) s = .next t ∧ own h t = x.rtr.own ++ [nak x m 1] ∧ (t.tw h).mem = (s.tw h).mem) ∧
  (∀ h s m x, Live h s → (s.tw h).takeInbox 0x01 = some (m, x) → wrFit x m → EngFits s h (m.field 16 8) (m.len - 32) →
    ∃ t, exec (.wr h) s = .next t ∧ own h t = x.rtr.own ++ [x.msg 0x10 0 16 m.src 0 m.tag 0] ∧
      EngWrote t (m.field 16 8) (m.len - 32) (m.body >>> 128)) ∧
  (∀ h s m x reason, Live h s → (s.tw h).takeInbox 0x01 = some (m, x) → wrFit x m →
    refused h s (m.field 16 8) (m.len - 32) reason →
    ∃ t, exec (.wr h) s = .next t ∧ own h t = x.rtr.own ++ [nak x m reason] ∧ (t.tw h).mem = (s.tw h).mem) ∧
  (∀ h s m x, Live h s → (s.tw h).takeInbox 0x02 = some (m, x) → x.admits false (m.field 16 8) (m.field 24 4) = false →
    ∃ t, exec (.rd h) s = .next t ∧ own h t = x.rtr.own ++ [nak x m 1] ∧ (t.tw h).mem = (s.tw h).mem) ∧
  (∀ h s m x v, Live h s → (s.tw h).takeInbox 0x02 = some (m, x) → rdFit x m → EngHas s h (m.field 16 8) (m.field 24 4) v →
    ∃ t, exec (.rd h) s = .next t ∧ own h t = x.rtr.own ++ [x.msg 0x11 0 (16 + m.field 24 4) m.src 0 m.tag v]) ∧
  (∀ h s m x reason, Live h s → (s.tw h).takeInbox 0x02 = some (m, x) → rdFit x m →
    refused h s (m.field 16 8) (m.field 24 4) reason →
    ∃ t, exec (.rd h) s = .next t ∧ own h t = x.rtr.own ++ [nak x m reason] ∧ (t.tw h).mem = (s.tw h).mem) ∧
  (∀ h s m x q, Live h s → (s.tw h).takeInbox 0x10 = some (m, x) → held x.rtr m.tag q →
    ∃ t, exec (.wrAck h) s = .next t ∧ t.tw h = { x with rtr := done x q true 0 0 }) ∧
  (∀ h s m x q, Live h s → (s.tw h).takeInbox 0x11 = some (m, x) → held x.rtr m.tag q →
    ∃ t, exec (.rdData h) s = .next t ∧ t.tw h = { x with rtr := done x q true 0 m.body }) ∧
  (∀ h s m x q, Live h s → (s.tw h).takeInbox 0x1E = some (m, x) → held x.rtr m.tag q →
    ∃ t, exec (.nak h) s = .next t ∧ (t.tw h).rtr.rem = (done x q false 0 0).rem ∧
      (t.tw h).rtr.remDone = (done x q false (m.field 16 1) 0).remDone ∧ own h t = x.rtr.own) ∧
  (∀ h s m x, Live h s → (s.tw h).takeInbox 0x1E = some (m, x) → ∃ t, exec (.nak h) s = .next t ∧
    ∀ e c, sfind x.rtr.coll e = some c → (∃ o ∈ c.out, o.msg.tag = m.tag) → c.ended = false →
      sfind (t.tw h).rtr.coll e = some { c with result := 0x64, ended := true, out := [] }) ∧
  (∀ h tag s q, Live h s → held (s.tw h).rtr tag q → ∃ t, exec (.e2eTimeout h tag) s = .next t ∧
    (q.sends < 4 → own h t = own h s ++ [q.msg] ∧
      held (t.tw h).rtr tag { q with sends := q.sends + 1 }) ∧
    (4 ≤ q.sends → (t.tw h).rtr = done (s.tw h) q false 0 0))

/-- R459 to R464, R470, R492: collectives. Descriptors queue and start on a free engine; chunks leave in ring order with a bound of 16
unacknowledged; an arriving chunk is matched, checked, applied once and answered with its status; lost chunks are sent again; the
engine ends with the result it formed. -/
def Obligations.CollectiveResults : Prop :=
  let R := fun (h : TowerId) (s : State) => (s.tw h).rtr
  let run := fun (h : TowerId) (e : Nat) (s : State) => sfind (s.tw h).rtr.coll e
  let sent := fun (h : TowerId) (tag : Nat) (s : State) =>
    (R h s).coll.findSome? fun p => p.2.out.find? fun o => decide (o.msg.tag = tag)
  let ack := fun (x : Tower) (m : FMsg) (st : Nat) => x.msg 0x12 0 32 m.src 0 m.tag st
  let of := fun (x : Tower) (m : FMsg) => x.rtr.collOf (m.field 16 4) (m.field 20 4)
  let at' := fun (d : Nat) (m : FMsg) => cBuf d + m.field 26 2 * cSeg d + m.field 28 4
  let arrives := fun (h : TowerId) (s : State) (m : FMsg) (x : Tower) => Live h s ∧ (s.tw h).takeInbox 0x20 = some (m, x) ∧
    (m.field 16 4, m.field 20 4) ∉ x.rtr.collFailed
  let fits := fun (d : Nat) (m : FMsg) => wireStep d (m.field 24 2) < cSteps d ∧
    (m.field 24 2 < 2 ^ 15 ↔ wireStep d (m.field 24 2) < cRs d) ∧
    m.field 26 2 = cSegOf d ((cRank d + cG d - 1) % cG d) (wireStep d (m.field 24 2)) ∧ m.field 28 4 % 3968 = 0 ∧
    m.len - 48 = min 3968 (cSeg d - m.field 28 4) ∧ 0 < m.len - 48 ∧ (m.len - 48) % 128 = 0
  (∀ h (v : Word) s, ∃ t, exec (.rtrCollSubmit h v) s = .next t ∧
    ((R h s).collQ.length + (R h s).coll.length < 16 → (R h t).collQ = (R h s).collQ ++ [bits v.toNat 47 7 * 128] ∧
      (t.tw h).fget Fld.rtrCollStat_STATE = 1) ∧
    (16 ≤ (R h s).collQ.length + (R h s).coll.length → R h t = R h s ∧ (t.tw h).fget Fld.rtrCollStat_STATE = 2)) ∧
  (∀ h (e : Fin 4) s a q d, Live h s → (R h s).collQ = a :: q → run h e.val s = none → s.inHbm h a 128 = true →
    EngHas s h a 128 d → collCheck s h d ≠ 0 →
    ∃ t, exec (.collDescriptorStart h e) s = .next t ∧ (R h t).collQ = q ∧
      run h e.val t = some ⟨d, [], 0, 0, [], 0, [], collCheck s h d, true⟩) ∧
  (∀ h (e : Fin 4) s a q d v, Live h s → (R h s).collQ = a :: q → run h e.val s = none → s.inHbm h a 128 = true →
    EngHas s h a 128 d → collCheck s h d = 0 → EngHas s h (cMlist d) (2 * cG d) v →
    let ms := (List.range (cG d)).map fun i => bits v (16 * i + 15) (16 * i)
    ms.getD (cRank d) 0 = (s.tw h).faddr → (∀ k ∈ ms, k < 2 ^ 11) → (uniq ms).length = ms.length →
    ∃ t, exec (.collDescriptorStart h e) s = .next t ∧ (R h t).collQ = q ∧ run h e.val t = some ⟨d, ms, 0, 0, [], 0, [], 0, false⟩) ∧
  (∀ h (e : Fin 4) s c v, Live h s → run h e.val s = some c → c.ended = false → c.members ≠ [] → c.step < cSteps c.desc → c.out.length < 16 →
    0 < cSeg c.desc → (c.step = 0 ∨ c.stepDone (c.step - 1) = true) →
    let d := c.desc
    let seg := cSegOf d (cRank d) c.step
    let n := min 3968 (cSeg d - c.off)
    EngHas s h (cBuf d + seg * cSeg d + c.off) n v →
    ∃ t m, exec (.collChunkSend h e) s = .next t ∧ (R h t).own = (R h s).own ++ [m] ∧
      m.typ = 0x20 ∧ m.flags.testBit 1 = true ∧ m.len = 48 + n ∧ m.dst = c.members.getD ((cRank d + 1) % cG d) 0 ∧
      m.dl = ((s.tw h).timeNs / 8 + cDl d) % 2 ^ 16 ∧ m.tag = (R h s).nextTag ∧
      m.body = cGroup d + cSeq d * 2 ^ 32 + (if c.step < cRs d then c.step else 2 ^ 15 + (c.step - cRs d)) * 2 ^ 64 +
        seg * 2 ^ 80 + c.off * 2 ^ 96 + cFcl d * 2 ^ 128 + v * 2 ^ 256 ∧
      run h e.val t = some { c with
        out := c.out ++ [⟨m, 1, false⟩]
        step := if cSeg d ≤ c.off + n then c.step + 1 else c.step
        off := if cSeg d ≤ c.off + n then 0 else c.off + n }) ∧
  (∀ h s m x, arrives h s m x → ∃ t, exec (.collData h) s = .next t ∧
    (of x m = none → (R h t).own = x.rtr.own ++ [ack x m 1] ∧ (t.tw h).mem = x.mem) ∧
    (∀ e c, of x m = some (e, c) → c.ended = false → m.field 32 1 ≠ cFcl c.desc →
      (R h t).own = x.rtr.own ++ [ack x m 2] ∧ run h e t = some { c with result := 0x62, ended := true, out := [] } ∧
      (t.tw h).mem = x.mem) ∧
    (∀ e c, of x m = some (e, c) → c.ended = false → m.field 32 1 = cFcl c.desc → ¬fits c.desc m →
      (R h t).own = x.rtr.own ++ [ack x m 3] ∧ (t.tw h).mem = x.mem) ∧
    (∀ e c, of x m = some (e, c) → c.ended = false → m.field 32 1 = cFcl c.desc → fits c.desc m →
      (wireStep c.desc (m.field 24 2), m.field 28 4) ∈ c.applied →
      (R h t).own = x.rtr.own ++ [ack x m 0] ∧ (t.tw h).mem = x.mem ∧ (R h t).coll = x.rtr.coll) ∧
    (∀ e c, of x m = some (e, c) → c.ended = false → m.field 32 1 = cFcl c.desc → fits c.desc m →
      let d := c.desc
      let n := m.len - 48
      (wireStep d (m.field 24 2), m.field 28 4) ∉ c.applied → c.lines = 0 → cBuf d % 128 = 0 → cSeg d % 128 = 0 →
      let applied := (R h t).own = x.rtr.own ++ [ack x m 0] ∧
        run h e t = some { c with applied := c.applied ++ [(wireStep d (m.field 24 2), m.field 28 4)], lines := 0 }
      (2 ^ 15 ≤ m.field 24 2 → EngFits s h (at' d m) n → applied ∧ EngWrote t (at' d m) n (m.body >>> 256)) ∧
      (∀ l : Nat → Line, m.field 24 2 < 2 ^ 15 → cRm d ≠ 4 →
        (∀ i, i < n / 128 → s.targetB ((at' d m / 128 + i) * 128) = .hbm h ∧ HomeLine s h h (.hbm h) (at' d m / 128 + i) (l i)) →
        applied ∧ ∀ i k, i < n / 128 → k < 4 →
          let line := at' d m / 128 + i
          let z := reduceLine (chunkRed h d line (m.body >>> 256 >>> (1024 * i) % 2 ^ 1024) m.due)
            ((s.tw h).sliceSr ((s.tw h).homeSlice line)) (l i)
          ((t.tw h).mem.now (line * 4 + k)).1 = (lineSector z.1 k, eccEncode (lineSector z.1 k))))) ∧
  (∀ h s m x, Live h s → (s.tw h).takeInbox 0x12 = some (m, x) → ∃ t, exec (.collAck h) s = .next t ∧ (R h t).own = x.rtr.own ∧
    ∀ e c o, sfind x.rtr.coll e = some c → c.ended = false → c.out.find? (fun o => decide (o.msg.tag = m.tag)) = some o →
      (m.field 16 1 = 0 → run h e t = some { c with out := c.out.filter fun o => decide (o.msg.tag ≠ m.tag) }) ∧
      (m.field 16 1 = 1 → run h e t = some (c.modOut m.tag fun o => { o with noMatch := true })) ∧
      (m.field 16 1 = 2 → run h e t = some { c with result := 0x62, ended := true, out := [] }) ∧
      (3 ≤ m.field 16 1 → run h e t = some { c with result := 0x64, ended := true, out := [] })) ∧
  (∀ h tag s o, Live h s → sent h tag s = some o → o.noMatch = false → ∃ t, exec (.collResendTimeout h tag) s = .next t ∧
    (o.sends < 4 → ∃ dl, (R h t).own = (R h s).own ++ [{ o.msg with dl := dl }]) ∧
    (4 ≤ o.sends → (R h t).own = (R h s).own ∧ ∀ e c, run h e s = some c → (∃ o ∈ c.out, o.msg.tag = tag) → c.ended = false →
      run h e t = some { c with result := 0x63, ended := true, out := [] })) ∧
  (∀ h tag s o, Live h s → sent h tag s = some o → o.noMatch = true → ∃ t, exec (.collNoMatchResend h tag) s = .next t ∧
    ∃ dl, (R h t).own = (R h s).own ++ [{ o.msg with dl := dl }]) ∧
  (∀ h (e : Fin 4) s c, Live h s → run h e.val s = some c →
    (c.ended = true ∨ (c.members ≠ [] ∧ (cSteps c.desc ≤ c.step ∨ cSeg c.desc = 0) ∧ c.out = [] ∧
      ∀ k, k < cSteps c.desc → c.stepDone k = true)) →
    let w := 2 ^ 31 + c.result % 128 * 2 ^ 24 +
      min ((List.range (cSteps c.desc)).filter c.stepDone).length (2 ^ 24 - 1)
    let fin := fun (t : State) => run h e.val t = none ∧ (t.tw h).fget Fld.rtrCollStat_RESULT = c.result % 128 ∧ 13 ∈ (t.tw h).irq
    (cCplEn c.desc = false → ∃ t, exec (.collComplete h e) s = .next t ∧ fin t ∧ (t.tw h).mem = (s.tw h).mem) ∧
    (cCplEn c.desc = true → c.desc ≠ 0 → cCpl c.desc % 4 = 0 → EngFits s h (cCpl c.desc) 4 →
      ∃ t, exec (.collComplete h e) s = .next t ∧ fin t ∧ EngWrote t (cCpl c.desc) 4 w))

/-- R465: device time across the fabric. A follower asks its parent each interval and gives up after four without an answer; a parent answers
with its times; an answer steps time forward when it lies more than 1,000 ns behind, and otherwise sets a rate of at most 200 ppm. Neither
moves time back. -/
def Obligations.DeviceTimeResults : Prop :=
  let q3 := fun (h : TowerId) (p : Nat) (s : State) => (((s.tw h).port p).vtx 3).q
  let askedOn := fun (h : TowerId) (s t : State) (req : Nat) (p : Nat) => ∃ m, q3 h p t = q3 h p s ++ [m] ∧ m.typ = 0x30 ∧
    m.len = 48 ∧ m.field 16 1 = req ∧ m.dst = (s.tw h).fget Fld.lnkPartner_TOWER p * 1024 + (s.tw h).fget Fld.lnkPartner_NODE p
  (∀ h s, (s.tw h).fget Fld.rtrTimeCfg_MASTER = 0 → ∃ t, exec (.timeInterval h) s = .next t ∧
    (t.tw h).rtr.timeWait = (s.tw h).rtr.timeWait + 1 ∧ (t.tw h).rtr.rate = (s.tw h).rtr.rate ∧ (t.tw h).time17 = (s.tw h).time17 ∧
    (4 ≤ (s.tw h).rtr.timeWait → (t.tw h).fget Fld.rtrStat_TIME_HOLD = 1) ∧
    ((s.tw h).rtr.timeWait < 4 → (t.tw h).fget Fld.rtrStat_TIME_HOLD = (s.tw h).fget Fld.rtrStat_TIME_HOLD) ∧
    ((s.tw h).fget Fld.rtrTimeCfg_PARENT ≠ 8 → (s.tw h).eligible 3 ((s.tw h).fget Fld.rtrTimeCfg_PARENT) = true →
      askedOn h s t 1 ((s.tw h).fget Fld.rtrTimeCfg_PARENT)) ∧
    ((s.tw h).fget Fld.rtrTimeCfg_PARENT = 8 → (s.tw h.other).serving = true →
      ∃ m, (t.tw h.other).rtr.hinge = (s.tw h.other).rtr.hinge ++ [m] ∧ m.typ = 0x30 ∧ m.field 16 1 = 1 ∧
        m.field 24 8 = (s.tw h).time17 / 17 % 2 ^ 64 ∧ m.stamp = (s.tw h.other).time17 / 17)) ∧
  (∀ h s m x, (s.tw h).takeInbox 0x30 = some (m, x) → m.field 16 1 = 1 → m.via < 8 → x.eligible 3 m.via = true →
    ∃ t a, exec (.time h) s = .next t ∧ q3 h m.via t = q3 h m.via s ++ [a] ∧ a.typ = 0x30 ∧ a.len = 48 ∧ a.field 16 1 = 2 ∧
      a.field 24 8 = m.field 24 8 ∧ a.field 32 8 = m.stamp % 2 ^ 64 ∧ (t.tw h).time17 = (s.tw h).time17) ∧
  (∀ h s m x, (s.tw h).takeInbox 0x30 = some (m, x) → m.field 16 1 = 2 → x.fget Fld.rtrTimeCfg_MASTER = 0 → x.rtr.timeWait ≠ 0 →
    let θ : Int := (((m.field 32 8 : Int) - m.field 24 8) - ((m.stamp : Int) - m.field 40 8)) / 2
    ∃ t, exec (.time h) s = .next t ∧ (t.tw h).fget Fld.rtrStat_TIME_HOLD = 0 ∧ (t.tw h).rtr.timeWait = 0 ∧
      (1000 < θ → ((t.tw h).time17 : Int) = (s.tw h).time17 + 17 * θ ∧ (t.tw h).rtr.rate = (s.tw h).rtr.rate) ∧
      (θ ≤ 1000 → (t.tw h).time17 = (s.tw h).time17 ∧ -200000 ≤ (t.tw h).rtr.rate ∧ (t.tw h).rtr.rate ≤ 200000 ∧
        (0 < θ → 0 ≤ (t.tw h).rtr.rate) ∧ (θ < 0 → (t.tw h).rtr.rate < 0))) ∧
  (∀ (x : Tower) n, x.time17 ≤ (x.advanceTime n).time17)

/-- R11, R12, R471, R473, R615, R619 to R621, R650 to R652, R467, R469: the steps of bring-up. Each step that passes starts the next one; a failure ends
bring-up in HOLD with the reason and detail of R636, and the fill leaves every store at zero. -/
def Obligations.BringUpResults : Prop :=
  let step := fun (h : TowerId) (s : State) => (s.tw h).sys.boot.step
  let held := fun (h : TowerId) (reason detail : Nat) (t : State) => (t.tw h).fget Fld.glbTower_STATE = 1 ∧ step h t = 0 ∧
    (t.tw h).fget Fld.fusHold_REASON = reason ∧ (t.tw h).fget Fld.fusHold_DETAIL = detail % 2 ^ (Fld.fusHold_DETAIL.hi + 1 - Fld.fusHold_DETAIL.lo) ∧
    (t.tw h).sys.rails.testBit 0 = false
  let went := fun (h : TowerId) (n : Nat) (t : State) => step h t = n ∧ (t.tw h).sys.boot.sub = 0 ∧ (t.tw h).fget Fld.fusHold_STEP = n
  (∀ h s, (s.tw h).mgmtAlive = true → (s.tw h).sys.mgmt.up = false → step h s = 2 → (s.tw h).sys.boot.restored = true →
    (s.tw h).fget Fld.mgtStat_TRIAL = 0 →
    let a := (s.tw h).fget Fld.mgtStat_ACTIVE_BANK
    ∃ t, exec (.imageVerify h) s = .next t ∧
      ((s.tw h).bankValid a = true → went h 3 t ∧ (t.tw h).sys.mgmt.up = true ∧ (t.tw h).fget Fld.mgtStat_ACTIVE_BANK = a) ∧
      ((s.tw h).bankValid a = false → (s.tw h).bankValid (1 - a) = true →
        went h 3 t ∧ (t.tw h).sys.mgmt.up = true ∧ (t.tw h).fget Fld.mgtStat_ACTIVE_BANK = 1 - a) ∧
      ((s.tw h).bankValid a = false → (s.tw h).bankValid (1 - a) = false → held h 2 0 t)) ∧
  (∀ h s, step h s = 3 → ∃ t, exec (.fuseRestore h) s = .next t ∧
    (t.tw h).enabled = (s.tw h).sys.fuses.enabled ∧ (t.tw h).fget Fld.fusSerial_SERIAL = (s.tw h).sys.fuses.serial % 2 ^ 64 ∧
    (fusesAgree (s.tw h).sys.fuses = false → held h 3 0 t) ∧
    (∀ c, fusesAgree (s.tw h).sys.fuses = true → (s.tw h).restoring 6 = some (.config c) →
      went h 4 t ∧ (t.tw h).sys.cfg = some c ∧ (t.tw h).fget Fld.llcCfg_LOCK = 1 ∧ (t.tw h).fget Fld.clkStat_MODE = 0) ∧
    (fusesAgree (s.tw h).sys.fuses = true → (∀ c, (s.tw h).restoring 6 ≠ some (.config c)) → held h 4 0 t)) ∧
  (∀ h base failed groups s, step h s = 4 → ∃ t, exec (.logicSelftestComplete h base failed groups) s = .next t ∧
    (base = true → held h 5 0 t) ∧
    (base = false → went h 5 t ∧ (∀ k ∈ failed, (sfind (t.tw h).sys.boot.bad k.val).isSome = true))) ∧
  (∀ h s, step h s = 5 → ∃ t, exec (.sramSelftestComplete h [] []) s = .next t ∧
    ((s.tw h).lock = [] → (s.tw h).sys.boot.bad = [] → went h 6 t ∧ (t.tw h).enabled = (s.tw h).enabled ∧ (t.tw h).lock = [])) ∧
  (∀ h (k : Fin 576) s, step h s = 5 → (∀ j, (s.tw h).sys.fuses.spare.getLsbD j = false) → (s.tw h).enabled.getLsbD k.val = true →
    (s.tw h).sys.boot.bad = [] → ∃ t, exec (.sramSelftestComplete h [] [k]) s = .next t ∧ held h 6 k.val t) ∧
  (∀ h f s, step h s = 6 → (s.tw h).sys.boot.sub = 0 → ∃ t, exec (.hbmTrainingComplete h f) s = .next t ∧
    (∀ k, f = some k → held h 7 k.val t) ∧
    (f = none → step h t = 6 ∧ (t.tw h).sys.boot.sub = 1 ∧ (t.tw h).sys.boot.pattern = 0 ∧ (t.tw h).sys.boot.full = (s.tw h).fullTest)) ∧
  (∀ h s, step h s = 6 → (s.tw h).sys.boot.sub = 1 → ∃ t, exec (.memoryTestPattern h) s = .next t ∧ (t.tw h).sys.boot.sub = 2 ∧
    (t.tw h).sys.boot.pattern = (s.tw h).sys.boot.pattern) ∧
  (∀ h s, step h s = 6 → (s.tw h).sys.boot.sub = 2 → ∃ t, exec (.retentionPauseExpiry h []) s = .next t ∧
    ((s.tw h).sys.boot.pattern < (if (s.tw h).sys.boot.full then 7 else 1) → step h t = 6 ∧ (t.tw h).sys.boot.sub = 1 ∧
      (t.tw h).sys.boot.pattern = (s.tw h).sys.boot.pattern + 1) ∧
    (1 ≤ (s.tw h).sys.boot.pattern → (s.tw h).sys.boot.full = false → went h 7 t ∧ (t.tw h).fget Fld.hbmCfg_TRAINED = 1 ∧
      (t.tw h).fget Fld.fusBoot_LAST_TEST = 2 ∧ (t.tw h).fget Fld.fusBoot_LAST_PASS = 1) ∧
    (7 ≤ (s.tw h).sys.boot.pattern → (s.tw h).sys.boot.full = true → (s.tw h).sys.boot.rows = [] →
      ((s.tw h).mem.retired.filter fun l => !hbmLine h (s.tw h).stackN l).length < 4096 → went h 7 t ∧
      (t.tw h).mem.retired = (s.tw h).mem.retired.filter (fun l => !hbmLine h (s.tw h).stackN l) ∧ (t.tw h).fget Fld.fusBoot_LAST_TEST = 1 ∧ (t.tw h).reg .fusFullUtc = (s.tw h).reg .fusTime)) ∧
  (∀ h s, step h s = 7 → ∃ t, exec (.memoryFill h) s = .next t ∧ went h 8 t ∧ (t.tw h).fget Fld.eccFill_STATE = 2 ∧
    (t.tw h).mem.cells = [] ∧ (t.tw h).mem.dir = [] ∧ (t.tw h).mem.retired = (s.tw h).mem.retired) ∧
  (∀ h s, step h s = 8 → (s.tw h).sys.boot.sub = 0 → ∃ t, exec (.clockModeSwitch h true) s = .next t ∧ step h t = 8 ∧
    (t.tw h).fget Fld.clkStat_MODE = 1 ∧ (t.tw h).sys.boot.sub = 1) ∧
  (∀ h s, step h s = 8 → (s.tw h).sys.boot.sub = 0 → ∃ t, exec (.clockModeSwitch h false) s = .next t ∧ held h 9 0 t) ∧
  (∀ h s, step h s = 8 → (s.tw h).sys.boot.sub = 1 → ∃ t, exec (.verticalTrainingComplete h [] []) s = .next t ∧
    step h t = 9 ∧ (t.tw h).fget Fld.rtrStat_TOPO = 1 ∧ (t.tw h).lock = (s.tw h).lock) ∧
  (∀ h s c (a : Nat) (b d : List Nat), step h s = 8 → (s.tw h).sys.boot.sub = 1 → (s.tw h).fget Fld.rtrCfg_LOCK = 0 →
    (s.tw h).sys.cfg = some c → c.router = some (a, b, d) → ∃ t, exec (.verticalTrainingComplete h [] []) s = .next t ∧
    (t.tw h).fget Fld.rtrCfg_LOCK = 1 ∧ bits ((t.tw h).reg .rtrCfg) 61 59 = bits ((s.tw h).reg .rtrCfg) 61 59 ∧
    (rtrCfgBad a = true → (t.tw h).fget Fld.rtrCfg_NODE = (s.tw h).fget Fld.rtrCfg_NODE) ∧
    (rtrCfgBad a = false → (t.tw h).fget Fld.rtrCfg_NODE = bits a 41 32 ∧ (t.tw h).fget Fld.rtrCfg_DX = bits a 58 54) ∧
    ∀ i, i < 8 → (t.tw h).reg .rtrTopoSn i = d.getD i 0 % 2 ^ 64 ∧
      (bits (b.getD i 0) 63 62 = 3 → (t.tw h).reg .rtrTopo i = (s.tw h).reg .rtrTopo i) ∧
      (bits (b.getD i 0) 63 62 ≠ 3 → (t.tw h).fget Fld.rtrTopo_MODE i = bits (b.getD i 0) 63 62 ∧
        (t.tw h).fget Fld.rtrTopo_NODE i = bits (b.getD i 0) 54 45 ∧
        bits ((t.tw h).reg .rtrTopo i) 61 60 = bits ((s.tw h).reg .rtrTopo i) 61 60)) ∧
  (∀ h s, step h s = 9 → ∃ t, exec (.topologyCheck h) s = .next t ∧
    ((s.tw h).fget Fld.rtrCfg_LOCK = 0 → step h t = 9 ∧ (t.tw h).fget Fld.rtrStat_TOPO = 1) ∧
    ((s.tw h).fget Fld.rtrCfg_LOCK = 1 → (s.tw h).fget Fld.licStat_FABRIC = 0 →
      128 < (s.tw h).extent 0 * (s.tw h).extent 1 * (s.tw h).extent 2 → held h 10 0 t ∧ (t.tw h).fget Fld.rtrStat_TOPO = 3 ∧
        (t.tw h).fget Fld.rtrStat_REASON = 3) ∧
    ((s.tw h).fget Fld.rtrCfg_LOCK = 1 → (s.tw h).extent 0 * (s.tw h).extent 1 * (s.tw h).extent 2 ≤ 128 →
      (∀ p, p < 8 → (s.tw h).hasPort p = true → (s.tw h).fget Fld.rtrTopo_MODE p = 2 →
        (s.tw h).active p = true ∧ (s.tw h).partnerOk p = true) →
      (∀ p, p < 8 → (s.tw h).hasPort p = true → (s.tw h).fget Fld.rtrTopo_MODE p = 1 → (s.tw h).active p = true →
        (s.tw h).partnerOk p = true) → went h 10 t ∧ (t.tw h).fget Fld.rtrStat_TOPO = 2) ∧
    (∀ p, (s.tw h).fget Fld.rtrCfg_LOCK = 1 → (s.tw h).extent 0 * (s.tw h).extent 1 * (s.tw h).extent 2 ≤ 128 →
      (List.range 8).find? (fun p => (s.tw h).hasPort p && (s.tw h).active p &&
        decide ((s.tw h).fget Fld.rtrTopo_MODE p = 1 ∨ (s.tw h).fget Fld.rtrTopo_MODE p = 2) &&
        decide ((s.tw h).fget Fld.lnkPartner_VALID p = 1) && !(s.tw h).partnerOk p) = some p →
      held h 10 p t ∧ (t.tw h).fget Fld.rtrStat_TOPO = 3 ∧ (t.tw h).fget Fld.rtrStat_REASON = 2 ∧
      (t.tw h).fget Fld.rtrStat_PORT = p)) ∧
  (∀ h s, step h s = 9 → ∃ t, exec (.topologyTimeout h) s = .next t ∧ (t.tw h).fget Fld.rtrStat_TOPO = 3 ∧
    held h 10 ((t.tw h).fget Fld.rtrStat_PORT) t ∧
    ((s.tw h).fget Fld.rtrCfg_LOCK = 0 → (t.tw h).fget Fld.rtrStat_REASON = 4) ∧
    ((s.tw h).fget Fld.rtrCfg_LOCK = 1 → (t.tw h).fget Fld.rtrStat_REASON = 1)) ∧
  (∀ h s, step h s = 10 → (∀ f, f = 1 ∨ f = 2 ∨ f = 3 → (s.tw h).sys.store.read (0x20 + f) = none) →
    ∃ t, exec (.keyVerify h) s = .next t ∧
      (t.tw h).fget Fld.glbTower_STATE = 2 ∧ went h 0 t)

/-- R192 to R222: the tile sequencer. A program starts with its entry, reads and checks its descriptor, reads control data unit by unit,
stages weight tiles, runs K-steps into the accumulator halves, drains tiles to O or as reductions, and ends with its status word in
the completion word and the handle's entry. -/
def Obligations.TileSequencerResults : Prop :=
  let run := fun (b : BrickRef) (s : State) => (s.brick b).tp.run
  let goes := fun (b : BrickRef) (s : State) (r : TpRun) (d : BitVec 2048) => Live b.t s ∧ run b s = some r ∧ r.desc = some d
  (∀ b s e h a, Live b.t s → (s.brick b).mx.next MxKind.isTile = some e → e.kind = .tile h a →
    ∃ t r, exec (.tpEntryStart b) s = .next t ∧ run b t = some r ∧
      r = { r with
        handle := BitVec.ofNat 32 h, block := e.block, gid := e.gid, addr := a, width := s.width b, desc := none, unit := 0
        cur := none, next := none, staged := [], drains := [], result := 0, drained := 0, ended := false } ∧
      (isSp a = true → ∀ k, sfind (s.brick b).blocks e.block = some k → k.spOk a 256 = true →
        r.raw = some (BitVec.ofNat 2048 (k.spRd (pbid b) (a % 2 ^ 32) 256))) ∧
      (isSp a = false → r.raw = sfind (s.brick b).dcache (a / 128)) ∧
      (isSp a = false → r.raw = none → a % 128 = 0 → (s.tw b.t).kwinOk a 256 = true →
        (∀ i, i < 2 → ((s.targetB ((a / 128 + i) * 128)).home?).isSome = true) →
        ∀ i, i < 2 → ∃ q ∈ (t.brick b).ebuf, q.who = tileUnit ∧ q.line = a / 128 + i) ∧
      (t.brick b).tp.ksRun = 0 ∧ (t.brick b).tp.ksSkip = 0 ∧ (t.brick b).tp.tlDrain = 0 ∧ (t.brick b).tp.tlSkip = 0 ∧
      (t.brick b).mx.queue = (s.brick b).mx.queue.map (fun q => if q.id = e.id then { q with st := .running } else q)) ∧
  (∀ b v s r ctx d, Live b.t s → run b s = some r → (s.brick b).run = some ctx → r.desc = none → r.ended = false →
    r.addr % 128 = 0 → (isSp r.addr = false → s.targetB r.addr ≠ .host) →
    (r.raw = some d ∨ r.raw = none ∧ isSp r.addr = false ∧ (s.brick b).dcache.length < 32 ∧
      ∃ w, ImgHas s b tileUnit r.block r.addr 256 w ∧ d = BitVec.ofNat 2048 w) →
    let x := tdesc d.toNat
    let got := { r with desc := some d, cplOk := x.cplEn && x.cplAligned }
    ∃ t, exec (.tpDescriptorArrival b v) s = .next t ∧
      (startCheck s ctx ((sfind (s.brick b).blocks r.block).getD Block.init) x = none → run b t = some got) ∧
      (∀ c, startCheck s ctx ((sfind (s.brick b).blocks r.block).getD Block.init) x = some c →
        run b t = some { got with result := c, ended := true, cur := none, next := none, staged := [] })) ∧
  (∀ b v s r ctx, Live b.t s → run b s = some r → (s.brick b).run = some ctx → r.desc = none → r.ended = false →
    r.addr % 128 ≠ 0 → ∃ t, exec (.tpDescriptorArrival b v) s = .next t ∧
      run b t = some { r with result := 0x31, ended := true, cur := none, next := none, staged := [] }) ∧
  (∀ b s r d vm vk mask zb, goes b s r d → r.ended = false → r.next = none → r.unit < (tdesc d.toNat).units r.width →
    (∀ u, r.cur = some u → (∃ k ∈ u.tiles, k.started = true) ∧ u.err = none) →
    let x := tdesc d.toNat
    let ix := x.index r.width r.unit
    let dim := fun i => if i = 1 then ix 2 else if i = 2 then ix 3 else if i = 3 then ix 4 else 0
    let l := (ix 2 * x.x1 + ix 3) * x.x2 + ix 4
    let has := fun a n v => ImgHas s b (tpWho 1 r.unit 0) r.block a n v
    (x.lm = true → has (x.lenM + 4 * dim x.lmi) 4 vm) → (x.lk = true → has (x.lenK + 4 * dim x.lki) 4 vk) →
    (x.mk' = true → has (x.maskBase + l * x.maskPitch) (cdiv x.m 8) mask) →
    (if x.zb then has (x.zbBase + l * x.zbPitch) (cdiv (x.m / 16 * x.kt) 8) zb else zb = 0) →
    let clamp := (x.lm && decide (x.m < vm)) || (x.lk && decide (x.k < vk))
    let ctl : TpCtl := ⟨if x.lm then min vm x.m else x.m, if x.lk then min vk x.k else x.k, clamp, if x.mk' then mask else 2 ^ x.m - 1, zb⟩
    let is := if x.pair then [2 * ix 0, 2 * ix 0 + 1].filter (fun i => decide (i < x.mt)) else [ix 0]
    let on := is.filterMap fun i => (tpTile x ctl i).map fun p => (i, p.1, p.2)
    ∃ t r', exec (.tpControlDataArrival b) s = .next t ∧ run b t = some r' ∧ r'.unit = r.unit + 1 ∧
      r'.clamp = (r.clamp || clamp) ∧ r'.ended = false ∧
      (∀ u, r.cur = some u → (u.step x.kt u.kstep).isSome = true → r'.cur = some u ∧
        (on = [] → r'.next = none) ∧ (on ≠ [] → ∃ u', r'.next = some u' ∧ u'.num = r.unit ∧ u'.j = ix 1 ∧ u'.o0 = ix 2 ∧
          u'.o1 = ix 3 ∧ u'.o2 = ix 4 ∧ u'.kstep = 0 ∧ u'.err = none ∧ (u'.tiles.map fun k => (k.i, k.rows, k.skip)) = on))) ∧
  (∀ b s r d u k (wr wi ws : Nat → Nat), goes b s r d → (s.tw b.t).withheld b.s.val = false → r.staged.length < 2 → r.ended = false →
    r.stageNext (tdesc d.toNat).kt = some (u, k) →
    let x := tdesc d.toNat
    let c := x.cols r.width u.j
    let n := 8 * fmtWidth x.wfmt
    let has := fun (g : TRef) (i o n v : Nat) => ImgHas s b (tpWho 2 u.num k) r.block (g.row u.o0 u.o1 u.o2 (r.width * u.j + i) + o) n v
    let of := fun (on : Bool) (f : Nat → Nat) => if on then (List.range c).map f else []
    let parsed := parseWeights x.wfmt x.sparse c (joinBytes n (of true wr)) (joinBytes 2 (of (isMx x.wfmt) ws))
      (joinBytes 32 (of (decide (x.sparse ≠ 0)) wi))
    (∀ i, i < c → has x.w i (k * n) n (wr i) ∧ (x.sparse ≠ 0 → has x.ix i (32 * k) 32 (wi i)) ∧
      (isMx x.wfmt = true → has x.ws i (2 * k) 2 (ws i))) →
    ∃ t r', exec (.tpStagingFill b) s = .next t ∧ run b t = some r' ∧
      (∀ w, parsed = some w → r' = { r with staged := r.staged ++ [⟨u.num, k, w⟩] } ∧
        (t.brick b).mx.back = if r.staged = [] then w else (s.brick b).mx.back) ∧
      (parsed = none → r'.staged = r.staged ∧ (∀ v, r'.cur = some v → v.num = u.num → v.err = some 0x22) ∧
        ∀ v, r'.next = some v → v.num = u.num → v.err = some 0x22)) ∧
  (∀ b s r d u k g rest (recs scs : Nat → Nat), goes b s r d → (s.tw b.t).withheld b.s.val = false → r.cur = some u → u.err = none → r.ended = false → r.staged = g :: rest →
    u.step (tdesc d.toNat).kt u.kstep = some k → g.num = u.num → g.kstep = k →
    let x := tdesc d.toNat
    let on := u.tiles.filter fun q => !q.skip.contains k
    let n := 8 * fmtWidth x.afmt * x.f
    let has := fun a n v => ImgHas s b (tpWho 3 u.num k) r.block a n v
    let int := (mxPair x.wfmt x.afmt).getD false
    let add := fun (q : TpTile) (h : Half) => q.rows.foldl (fun h row =>
      rowInto g.tile (x.cols r.width u.j) x.afmt int (row - x.tm * q.i) (recs row) (scs row) h) h
    (∀ q ∈ on, q.started = true ∨ ∀ z ∈ r.drains, z.half ≠ q.half) →
    (on.map TpTile.half = [0] ∨ on.map TpTile.half = [1] ∨ on.map TpTile.half = [0, 1]) →
    (∀ q ∈ on, ∀ row ∈ q.rows, has (x.a.row u.o0 u.o1 u.o2 row + k * n) n (recs row) ∧
      (if isMx x.afmt then has (x.as'.row u.o0 u.o1 u.o2 row + 2 * k) 2 (scs row) else scs row = 0)) →
    ∃ t r', exec (.tpKstep b) s = .next t ∧ (t.brick b).mx.front = (s.brick b).mx.back ∧
      (t.brick b).mx.back = (match rest with
        | z :: _ => z.tile
        | [] => (s.brick b).mx.front) ∧
      (∀ q ∈ on, (t.brick b).mx.half q.half = add q (if q.started then (s.brick b).mx.half q.half else ⟨int, x.tm, []⟩)) ∧
      (∀ j, j < 2 → (∀ q ∈ on, q.half ≠ j) → (t.brick b).mx.half j = (s.brick b).mx.half j) ∧
      (t.brick b).tp.ksRun = satAdd 32 (s.brick b).tp.ksRun on.length ∧ run b t = some r' ∧ r'.staged = rest) ∧
  (∀ b s r d q rest, goes b s r d → r.drains = q :: rest → (tdesc d.toNat).mode = 0 → s.tpSettled b r.handle = true →
    s.tpLost b r.handle = none →
    let x := tdesc d.toNat
    let c := x.cols r.width q.j
    let h : Half := if q.zero then ⟨(mxPair x.wfmt x.afmt).getD false, x.tm, []⟩ else (s.brick b).mx.half q.half
    let row := fun i n => sget 0 h.acc ((q.rows.getD i 0 - x.tm * q.i) * 64 + n)
    let gen := drainGen x.ofmt x.rm c row (s.brick b).sr
    let v := fun i => (drainRow x.ofmt x.rm c (row i) (gen i)).1
    let at' := fun i => x.o.row q.o0 q.o1 q.o2 (q.rows.getD i 0) + r.width * q.j * fmtWidth x.ofmt / 8
    (∀ i, i < q.rows.length → ImgFits s b r.block (at' i) (v i).2) →
    (∀ i k, i < k → k < q.rows.length → isSp (at' i) = isSp (at' k) ∧ (at' i + (v i).2 ≤ at' k ∨ at' k + (v k).2 ≤ at' i)) →
    ∃ t, exec (.tpTileDrain b) s = .next t ∧ run b t = some { r with drains := rest, drained := satAdd 23 r.drained 1 } ∧
      (t.brick b).tp.tlDrain = satAdd 32 (s.brick b).tp.tlDrain 1 ∧ (t.brick b).sr = gen q.rows.length ∧
      ∀ i, i < q.rows.length → ImgPut t b tileUnit r.block (at' i) (v i).2 (v i).1) ∧
  (∀ b s r d q rest, goes b s r d → r.drains = q :: rest → (tdesc d.toNat).mode ≠ 0 → s.tpSettled b r.handle = true →
    s.tpLost b r.handle = none →
    (∀ row ∈ q.rows, (s.tw b.t).kwinOk ((tdesc d.toNat).o.row q.o0 q.o1 q.o2 row +
      r.width * q.j * fmtWidth (tdesc d.toNat).ofmt / 8) ((tdesc d.toNat).cols r.width q.j * fmtWidth (tdesc d.toNat).ofmt / 8) = true) →
    ∃ t, exec (.tpTileDrain b) s = .next t ∧ run b t = some { r with drains := rest, drained := satAdd 23 r.drained 1 } ∧
      ∀ h, ∃ l, (t.tw h).mem.redQ = (s.tw h).mem.redQ ++ l ∧ (∀ z ∈ l, z.src = .tile b.t b.s.val r.handle) ∧
        (t.tw h).mem.cells = (s.tw h).mem.cells) ∧
  (∀ b s r u c d, goes b s r d → s.tpLost b r.handle = none → r.cur = some u → u.err = some c →
    ∃ t, exec (.tpRunningFailure b) s = .next t ∧
      run b t = some { r with
        drains := r.drains ++ u.drains (tdesc d.toNat) (u.complete (tdesc d.toNat))
        result := c, ended := true, cur := none, next := none, staged := [] }) ∧
  (∀ b s r c, Live b.t s → run b s = some r → s.tpLost b r.handle = some c →
    ∃ t, exec (.tpRunningFailure b) s = .next t ∧
      ((s.brick b).portDone tileUnit 2 = false → t = s) ∧
      ((s.brick b).portDone tileUnit 2 = true → t.tpLost b r.handle = none ∧ run b t = some { r with
        drains := [], cur := none, next := none, staged := [], ended := true, drained := r.drained - 1
        result := if r.result = 0 then c else r.result })) ∧
  (∀ b s r, Live b.t s → run b s = some r → s.tpDone b r = true →
    let put := fun (cpl : Nat) => ∃ d, r.desc = some d ∧ r.cplOk = true ∧ cpl = (tdesc d.toNat).cpl
    (∀ cpl, put cpl → ImgFits s b r.block cpl 4 ∧
      (isSp cpl = true → ∀ k, sfind (s.brick b).blocks r.block = some k → k.retired = false)) →
    ∃ t, exec (.tpComplete b) s = .next t ∧ run b t = none ∧ (t.brick b).tp.lastHandle = r.handle ∧
      (t.brick b).tp.lastResult = r.result ∧ (t.brick b).mx.front = WTile.empty ∧ (t.brick b).mx.back = WTile.empty ∧
      (t.brick b).mx.h0 = Half.empty ∧ (t.brick b).mx.h1 = Half.empty ∧
      (∀ cpl, put cpl → ImgPut t b wordUnit r.block cpl 4 r.word.toNat) ∧
      (∀ k e blk, (s.brick b).ops.find? (fun p => decide (p.2.handle = r.handle) && p.2.status.isNone) = some (k, e) →
        sfind (s.brick b).blocks e.block = some blk → blk.retired = false →
        sfind (t.brick b).ops k = some { e with status := some r.word }) ∧
      r.word = BitVec.ofNat 32 (2 ^ 31 + r.result % 128 * 2 ^ 24 + (if r.clamp then 2 ^ 23 else 0) + r.drained % 2 ^ 23))

/-- R223 to R242: the route units. A descriptor starts and is checked; dispatch counts the gating lines, forms the expert lists, copies rows
with their map entries and writes length words; combine forms one output row a token; a failure ends the descriptor, and its status
word completes the entry. -/
def Obligations.RouteUnitResults : Prop :=
  let U := fun (h : TowerId) (c : Fin 24) (s : State) => (s.tw h).route c.val
  let run := fun (h : TowerId) (c : Fin 24) (s : State) => (U h c s).run
  let goes := fun (h : TowerId) (c : Fin 24) (s : State) (r : RtRun) =>
    Live h s ∧ run h c s = some r ∧ r.ended = false ∧ r.err = none
  let words := fun (w n v : Nat) => (List.range n).map fun i => bits v (w * i + w - 1) (w * i)
  let ended := fun (work : List RtItem) (r : RtRun) => { r with work := work, out := none, phase := if work = [] then 2 else 1 }
  let mapAt := fun (r : RtRun) (tk sl : Nat) => rMap r.desc + 8 * (tk * rTopk r.desc + sl)
  let weight := fun (r : RtRun) (tk sl : Nat) => (r.gates.getD (tk * rTopk r.desc + sl) (0, 0)).2
  (∀ h c s j q ctx k d, Live h s → run h c s = none → (U h c s).q = j :: q → s.rtCtx h j = some (ctx, k) → j.addr % 128 = 0 →
    (isSp j.addr = false → s.targetB j.addr ≠ .host) → RtHas s h j j.addr 128 d →
    ∃ t r, exec (.rtDescriptorStart h c) s = .next t ∧ (U h c t).q = q ∧
      run h c t = some r ∧ r.job = j ∧ r.desc = d ∧ r.err = rtCheck s ctx k.spBytes d ∧ r.ended = false ∧ r.next = 0 ∧ r.gates = [] ∧
      r.sr = srSeed (BitVec.ofNat 32 (rSeed d)) ∧ r.phase = if d ≠ 0 ∧ rOp d = 1 then 1 else 0) ∧
  (∀ h c s j q ctx k, Live h s → run h c s = none → (U h c s).q = j :: q → s.rtCtx h j = some (ctx, k) → j.addr % 128 ≠ 0 →
    ∃ t r, exec (.rtDescriptorStart h c) s = .next t ∧ (U h c t).q = q ∧ run h c t = some r ∧ r.job = j ∧ r.err = some 0x41) ∧
  (∀ h c s r ctx k es, goes h c s r → r.phase = 0 → s.rtCtx h r.job = some (ctx, k) →
    let d := r.desc
    let total := rTokens d * rTopk d
    let a := rGate d + 8 * r.gates.length
    let n := min (total - r.gates.length) ((128 - a % 128) / 8)
    (total ≤ r.gates.length ∧ es = [] ∨ r.gates.length < total ∧ ∃ v, RtHas s h r.job a (8 * n) v ∧
      es = (words 64 n v).map fun w => (w % 2 ^ 16, bits w 63 32)) →
    ∃ t, exec (.rtGatingLineCount h c) s = .next t ∧
      ((∃ e ∈ es, e.1 ≠ 0xFFFF ∧ rExperts d ≤ e.1) → run h c t = some { r with err := some 0x42 }) ∧
      ((∀ e ∈ es, e.1 = 0xFFFF ∨ e.1 < rExperts d) → (r.gates ++ es).length < total → run h c t = some { r with gates := r.gates ++ es }) ∧
      (∀ v, (∀ e ∈ es, e.1 = 0xFFFF ∨ e.1 < rExperts d) → total ≤ (r.gates ++ es).length →
        RtHas s h r.job (rTable d) (32 * rExperts d) v → (∀ e ∈ words 256 (rExperts d) v, expertBad s ctx d e = none) →
        let z := rtLists d (r.gates ++ es) (words 256 (rExperts d) v)
        run h c t = some { r with
          gates := r.gates ++ es, table := words 256 (rExperts d) v, work := z.work, count := z.routed, dropped := z.dropped, dup := z.dup
          lens := (List.range (rExperts d)).map fun e => sget 0 z.lens e, phase := if z.work = [] then 2 else 1 } ∧
        (U h c t).dropped = satAdd 32 (U h c s).dropped z.lost)) ∧
  (∀ h c s r e j tk sl rest v, goes h c s r → r.phase = 1 → rOp r.desc = 0 → r.work = .row e j tk sl :: rest →
    (r.out = some v ∨ r.out = none ∧ RtHas s h r.job (rSrc r.desc + tk * rSrcPitch r.desc) (rRow r.desc) v) →
    ExpFits s h r e j → (rNoMap r.desc = false → RtFits s h r.job (mapAt r tk sl) 8) →
    expRow r e j % 128 = 0 → rRow r.desc % 128 = 0 →
    ∃ t, exec (.rtGatherRow h c) s = .next t ∧ (U h c t).rows = satAdd 32 (U h c s).rows 1 ∧ run h c t = some (ended rest r) ∧
      (rNoMap r.desc = false → RtWrote t h r.job (mapAt r tk sl) 8 (weight r tk sl * 2 ^ 32 + (2 ^ 31 + e * 2 ^ 16 + j))) ∧
      (rNoMap r.desc = true ∨ isSp (mapAt r tk sl) = false ∧ (mapAt r tk sl + 8 ≤ expRow r e j ∨
        expRow r e j + rRow r.desc ≤ mapAt r tk sl / 128 * 128) → ExpWrote s t h c r e j v)) ∧
  (∀ h c s r e j tk sl rest, goes h c s r → r.phase = 1 → rOp r.desc = 0 → r.work = .mark e j tk sl :: rest → rNoMap r.desc = false →
    RtFits s h r.job (mapAt r tk sl) 8 → ∃ t, exec (.rtGatherRow h c) s = .next t ∧ run h c t = some (ended rest r) ∧
      RtWrote t h r.job (mapAt r tk sl) 8 (weight r tk sl * 2 ^ 32 + (2 ^ 31 + e * 2 ^ 16 + j))) ∧
  (∀ h c s r e j rest, goes h c s r → r.phase = 1 → rOp r.desc = 0 → r.work = .zero e j :: rest → ExpFits s h r e j →
    ∃ t, exec (.rtGatherRow h c) s = .next t ∧ run h c t = some (ended rest r) ∧ ExpWrote s t h c r e j 0) ∧
  (∀ h c s r tk sl rest, goes h c s r → r.phase = 1 → rOp r.desc = 0 → r.work = .map tk sl :: rest → rNoMap r.desc = false →
    RtFits s h r.job (mapAt r tk sl) 8 → ∃ t, exec (.rtGatherRow h c) s = .next t ∧ run h c t = some (ended rest r) ∧
      RtWrote t h r.job (mapAt r tk sl) 8 (weight r tk sl * 2 ^ 32)) ∧
  (∀ h c s r, goes h c s r → rOp r.desc = 0 → r.phase = 2 → r.next < rExperts r.desc → (s.tw h).remOut c r.job.num (some r.next) = false →
    (s.tw h).remFail c r.job.num = false → RtFits s h r.job (rLen r.desc + 4 * r.next) 4 →
    let x := r.table.getD r.next 0
    let n := r.lens.getD r.next 0
    ∃ t, exec (.rtLengthWordWrite h c) s = .next t ∧ run h c t = some { r with next := r.next + 1 } ∧
      RtWrote t h r.job (rLen r.desc + 4 * r.next) 4 n ∧
      (eKind x ≠ 3 → (t.tw h).rtr = (s.tw h).rtr) ∧
      (eKind x = 3 → ∃ m, (t.tw h).rtr.own = (s.tw h).rtr.own ++ [m] ∧ m.typ = 0x01 ∧ m.len = 48 ∧
        m.field 16 8 = eRlen x / 16 * 16 ∧ m.field (32 + eRlen x % 16) 4 = n % 2 ^ (min 32 (8 * (16 - eRlen x % 16))) ∧
        (t.tw h).rtr.rem = (s.tw h).rtr.rem ++ [⟨m, 1, .route c r.job.num r.next⟩])) ∧
  (∀ h c s r ctx k table mv (ys : List (Nat × Nat)) ov, goes h c s r → rOp r.desc = 1 → r.next < rTokens r.desc → s.rtCtx h r.job = some (ctx, k) →
    (r.table ≠ [] ∧ table = r.table ∨ r.table = [] ∧ table ≠ [] ∧ k.retired = false ∧ (∀ e ∈ table, expertBad s ctx r.desc e = none) ∧
      ∃ v, RtHas s h r.job (rTable r.desc) (32 * rExperts r.desc) v ∧ table = words 256 (rExperts r.desc) v) → r.out = none →
    (r.tmap = some mv ∨ r.tmap = none ∧ RtHas s h r.job (rMap r.desc + 8 * r.next * rTopk r.desc) (8 * rTopk r.desc) mv) →
    let d := r.desc
    let slots := combineSlots d table mv
    let dst := rDst d + r.next * rDstPitch d
    ys.map Prod.fst = slots.map (fun m => bits m 63 32) →
    (∀ (i m : Nat) (y : Nat × Nat), slots[i]? = some m → ys[i]? = some y → let x := table.getD (bits m 25 16) 0
      (eKind x ≠ 2 → RtHas s h r.job (slotRow table m) (rRow d) y.2) ∧
      (eKind x = 2 → ∃ p q, s.rankBlock h r.job (eRank x) = some p ∧ sfind (s.brick (sliceRef h p.1)).blocks p.2 = some q ∧
        q.spOk (2 ^ 63 + slotRow table m) (rRow d) = true ∧
        y.2 = q.spRd (pbid (sliceRef h p.1)) ((2 ^ 63 + slotRow table m) % 2 ^ 32) (rRow d))) →
    (if d.testBit 37 then RtHas s h r.job dst (rOutRow d) ov else ov = 0) → RtFits s h r.job dst (rOutRow d) →
    let z := combineRow d ys ov r.sr
    ∃ t, exec (.rtCombineRow h c) s = .next t ∧ (U h c t).rows = satAdd 32 (U h c s).rows 1 ∧
      RtWrote t h r.job dst (rOutRow d) z.1 ∧ run h c t = some { r with
        table := table, next := r.next + 1, sr := z.2, count := r.count + 1, tmap := none, out := none
        phase := if rTokens d ≤ r.next + 1 then 2 else 1 }) ∧
  (∀ h c s r e, Live h s → run h c s = some r → r.ended = false → (r.err = some e ∨ r.err = none ∧ (s.tw h).remFail c r.job.num = true ∧ e = 0x43) →
    ∃ t, exec (.rtFailure h c) s = .next t ∧ run h c t = some { r with result := e, ended := true, work := [] } ∧
      (t.tw h).mem = (s.tw h).mem) ∧
  (∀ h c s r, Live h s → run h c s = some r → (s.tw h).remOut c r.job.num none = false →
    (r.ended = true ∨ r.err = none ∧ (s.tw h).remFail c r.job.num = false ∧
      (if rOp r.desc = 0 then r.phase = 2 ∧ rExperts r.desc ≤ r.next else rTokens r.desc ≤ r.next)) →
    (r.cplOk = true → RtFits s h r.job (rCpl r.desc) 4 ∧
      ∀ k, sfind (s.brick (r.job.br h)).blocks r.job.block = some k → k.retired = false) →
    ∃ t, exec (.rtComplete h c) s = .next t ∧ run h c t = none ∧ (U h c t).lastHandle = r.job.handle ∧
      (U h c t).lastResult = r.result ∧ (r.cplOk = true → RtWrote t h r.job (rCpl r.desc) 4 r.word.toNat) ∧
      (∀ k e blk, (s.brick (r.job.br h)).ops.find? (fun p => decide (p.2.handle = r.job.handle) && p.2.status.isNone) = some (k, e) →
        sfind (s.brick (r.job.br h)).blocks e.block = some blk → blk.retired = false →
        sfind (t.brick (r.job.br h)).ops k = some { e with status := some r.word }) ∧
      r.word = BitVec.ofNat 32 (2 ^ 31 + r.result % 128 * 2 ^ 24 + (if r.dropped then 2 ^ 23 else 0) + (if r.dup then 2 ^ 22 else 0) +
        min r.count (2 ^ 22 - 1)))

/-- R313 to R342: the near-bank units. Commands queue under rising numbers, are read, checked and delivered to the units of their span;
each unit works line by line; statistics combine along the chain and return; a failure stops the command, and its status word
completes it. -/
def Obligations.NearBankResults : Prop :=
  let N := fun (h : TowerId) (s : State) => (s.tw h).nbu
  let mapped := fun (h : TowerId) (seq : Nat) (f : NbuCmd → NbuCmd) (s t : State) =>
    (N h t).cmds = (N h s).cmds.map (fun k => if k.seq = seq then f k else k) ∧ (N h t).doneSeq = (N h s).doneSeq
  let unit := fun (c : Nat) (f : NbuUnit → NbuUnit) (k : NbuCmd) => { k with units := smod NbuUnit.init k.units c f }
  let front := fun (h : TowerId) (c : Nat) (s : State) (k : NbuCmd) (u : NbuUnit) =>
    Live h s ∧ (∃ r, (N h s).queueOf c = k :: r) ∧ u = sget NbuUnit.init k.units c
  (∀ h (v : Word) s, ∃ t, exec (.nbuSubmit h v) s = .next t ∧
    ((N h s).cmds.length < 32 → (N h t).lastSeq = seqNext (N h s).lastSeq ∧
      (N h t).cmds = (N h s).cmds ++ [⟨seqNext (N h s).lastSeq, .driver, none, bits v.toNat 47 7 * 128, false, none, 0, false, [], [], false, 0, 0, 0, false⟩] ∧
      (t.tw h).fget Fld.nbuSubmitRes_STATE = 1 ∧ (t.tw h).fget Fld.nbuSubmitRes_HANDLE = seqNext (N h s).lastSeq) ∧
    (32 ≤ (N h s).cmds.length → N h t = N h s ∧ (t.tw h).fget Fld.nbuSubmitRes_STATE = 2)) ∧
  (∀ h s c, Live h s → (N h s).head = some c → c.asked = false → ∃ t, exec (.nbuDispatchHead h) s = .next t ∧
    (s.nbuPlace h c.src.kw c.addr = false → mapped h c.seq (fun k => { k with ended := true, result := 0x54 }) s t) ∧
    (s.nbuPlace h c.src.kw c.addr = true → c.addr % 128 ≠ 0 → mapped h c.seq (fun k => { k with ended := true, result := 0x51 }) s t) ∧
    (s.nbuPlace h c.src.kw c.addr = true → c.addr % 128 = 0 → mapped h c.seq (fun k => { k with asked := true }) s t)) ∧
  (∀ h s c hd d, Live h s → (N h s).head = some c → c.asked = true → c.desc = 0 →
    (c.head = some hd ∨ c.head = none ∧ EngHas s h c.addr 128 hd) →
    (if nSteps hd = 0 ∨ 16 < nSteps hd then d = hd else ∃ v, EngHas s h (c.addr + 128) (32 * nSteps hd) v ∧ d = hd + v <<< 1024) →
    let k := { c with head := some hd, desc := d, cplOk := nCplEn d && decide (nCpl d % 4 = 0) && s.nbuPlace h c.src.kw (nCpl d) }
    let others := fun (l : List NbuCmd) => l.filter fun q => decide (q.seq ≠ c.seq)
    ∃ t, exec (.nbuDescriptorArrival h) s = .next t ∧ others (N h t).cmds = others (N h s).cmds ∧
      (nbuCheck s h c.ctx d = none → k ∈ (N h t).cmds) ∧
      (∀ e, nbuCheck s h c.ctx d = some e → { k with ended := true, result := e } ∈ (N h t).cmds)) ∧
  (∀ h s c, Live h s → (N h s).head = some c → c.desc ≠ 0 →
    let span := (List.range (nGroups c.desc * nWidth c.desc)).map fun i => nFirst c.desc + i
    (∀ k ∈ span, ((N h s).queueOf k).length < 8) → ∃ t, exec (.nbuDelivery h) s = .next t ∧
      mapped h c.seq (fun k => { k with delivered := true, units := span.map fun k => (k, NbuUnit.init) }) s t) ∧
  (∀ h c s k u, front h c s k u → u.failed = false → k.errs = [] → ∃ t, exec (.nbuStepStart h c) s = .next t ∧
    (u.started = false → mapped h k.seq (unit c fun u =>
      { u with started := true, sr := srSeed (BitVec.ofNat 32 (nSeed k.desc) ^^^ BitVec.ofNat 32 c) }) s t) ∧
    (u.started = true → u.stepDone = true → mapped h k.seq (unit c fun u =>
      { NbuUnit.init with step := u.step + 1, started := true, sr := u.sr }) s t)) ∧
  (∀ h c s k u, front h c s k u → u.started = true → u.stepDone = false → u.failed = false → k.errs = [] →
    (sget Region.init (s.tw h).sys.regions ((s.tw h).chainSlice c / 8)).ret.testBit 1 = false →
    (s.tw h).nbuWithheld ((s.tw h).chainSlice c) = false →
    let p := nStep k.desc u.step
    let failed := fun (e : Nat) (s t : State) => mapped h k.seq (fun q =>
      { unit c (fun u => { u with failed := true }) q with errs := q.errs ++ [(u.step, c, e)] }) s t
    ∃ t, exec (.nbuLineAccess h c) s = .next t ∧
      ((s.tw h).sliceLive ((s.tw h).chainSlice c) = false → failed 0x13 s t ∧ (t.tw h).mem = (s.tw h).mem) ∧
      (∀ s1, (s.tw h).sliceLive ((s.tw h).chainSlice c) = true →
        (if u.pass2 then nbuSecond s h k c u p else nbuFirst s h k c u p) = .done s1 () →
        mapped h k.seq (unit c fun u => u.past p k.desc) s1 t ∧ (t.tw h).mem = (s1.tw h).mem) ∧
      (∀ s1 e, (s.tw h).sliceLive ((s.tw h).chainSlice c) = true →
        (if u.pass2 then nbuSecond s h k c u p else nbuFirst s h k c u p) = .fail s1 e → failed e s1 t)) ∧
  (∀ h c s k u, front h c s k u → u.started = true → u.stepDone = false → u.failed = false → k.errs = [] →
    (sget Region.init (s.tw h).sys.regions ((s.tw h).chainSlice c / 8)).ret.testBit 1 = false →
    (s.tw h).nbuWithheld ((s.tw h).chainSlice c) = false →
    (s.tw h).sliceLive ((s.tw h).chainSlice c) = true →
    let d := k.desc
    let p := nStep d u.step
    let sl := (s.tw h).chainSlice c
    let n := nPer d (if u.pass2 then p.d else p.walked)
    let r := u.line / (nSeg d / n)
    let e := u.line % (nSeg d / n) * n
    let fmt := nFmt (nRegion d p.d)
    let x : NAcc := ⟨h, k, c, sl, nbuDst h sl d p.d r e⟩
    let pack := fun vs => nbuPack fmt p u.sr vs
    let runs := fun (P : State → Prop) => ∃ t, exec (.nbuLineAccess h c) s = .next t ∧ P t
    -- an element operation
    (∀ as bs cs, u.pass2 = false → (p.isStat = false ∨ p.op = 0x31) → p.op ≠ 0x40 → SrcOrHas s x p.b r e n p.imm0 bs →
      (if p.op = 0x31 then cs = List.replicate n 0 else SrcOrHas s x p.c r e n p.imm1 cs) → SrcHas s x p.a r e n as → NbuFits s x →
      let z := pack ((as.zip (bs.zip cs)).map fun q => nbuElem p q.1 q.2.1 q.2.2)
      runs fun t => NbuWrote t x z.1 ∧ (p.op ≠ 0x31 → mapped h k.seq (unit c fun u => { u with sr := z.2 }.past p d) s t)) ∧
    -- a gather
    (∀ ix wt (tv : Nat → Nat), u.pass2 = false → p.op = 0x40 →
      let rowOf := fun reg => nbuAddr h sl (nOff (nRegion d reg) + r * nPitch (nRegion d reg))
      let tw := fmtWidth p.tfmt
      let at' := fun y => p.table + 128 * p.tpitch * y + (((c - nFirst d) % nWidth d) * nSeg d + e) * tw / 8
      NbuIn s x (rowOf p.a) (4 * p.count) ix → (if p.b = 0xFF then wt = 0 else NbuIn s x (rowOf p.b) (4 * p.count) wt) →
      (∀ i, i < p.count → elemOf 32 ix i = 0xFFFFFFFF ∨ elemOf 32 ix i < p.trows ∧ s.targetB (at' (elemOf 32 ix i)) ≠ .host ∧
        NbuIn s x (at' (elemOf 32 ix i)) (n * tw / 8) (tv i)) → NbuFits s x →
      let z := pack ((List.range p.count).foldl (fun acc i => if elemOf 32 ix i = 0xFFFFFFFF then acc else
        acc.mapIdx fun j z => nFma (if p.b = 0xFF then p.imm0 else elemOf 32 wt i)
          (convert p.tfmt 0 0 false false 0 (elemOf tw (tv i) j)).1 z) (List.replicate n 0))
      runs fun t => NbuWrote t x z.1 ∧ mapped h k.seq (unit c fun u => { u with sr := z.2 }.past p d) s t) ∧
    -- a line of a statistic
    (∀ as, u.pass2 = false → p.isStat = true → p.op ≠ 0x31 → SrcHas s ⟨h, k, c, sl, none⟩ p.a r e n as →
      let ls := nbuLanes p (if e = 0 then p.lanes0 else u.lanes) e as
      runs fun t => e + n ≠ nSeg d → mapped h k.seq (unit c fun u => { u with lanes := ls }.past p d) s t) ∧
    -- the apply pass
    (∀ as bs cs, u.pass2 = true → (p.op = 0x20 ∨ p.op = 0x21) → nRows d ≤ u.stat.length → SrcOrHas s x p.b r e n 0x3F800000 bs →
      SrcOrHas s x p.c r e n 0 cs → SrcHas s x p.a r e n as → NbuFits s x →
      let z := pack ((as.zip (bs.zip cs)).map fun q => nbuApply p (sget [] u.stat r) q.1 q.2.1 q.2.2)
      runs fun t => NbuWrote t x z.1 ∧ mapped h k.seq (unit c fun u => { u with sr := z.2 }.past p d) s t) ∧
    -- a line of a scalar result
    (u.pass2 = true → (p.op = 0x30 ∨ p.op = 0x31) → (∀ i, i < 32 → 32 * u.line + i < nRows d → (sfind u.stat (32 * u.line + i)).isSome = true) →
      let y : NAcc := ⟨h, k, c, sl, some (nbuAddr h sl (nOff (nRegion d (if p.op = 0x30 then p.d else p.c)) + 128 * u.line) / 128)⟩
      NbuFits s y → let vs := (List.range 32).map fun i => if 32 * u.line + i < nRows d then ((sget [] u.stat (32 * u.line + i)).getD 0 0).toNat else 0
      runs fun t => NbuWrote t y (nbuPack 0 p 0 vs).1 ∧ mapped h k.seq (unit c fun u => u.past p d) s t)) ∧
  (∀ h c s k u q m, front h c s k u → u.started = true → (nStep k.desc u.step).isStat = true →
    0 < nWidth k.desc → (c - nFirst k.desc) % nWidth k.desc ≠ 0 → sfind k.units (c - 1) = some q → q.step = u.step →
    q.sent.find? (fun m => (sfind u.own m.1).isSome && (sfind u.sent m.1).isNone) = some m →
    let v := nbuCombine (nStep k.desc u.step) m.2 (sget [] u.own m.1)
    ∃ t, exec (.nbuChainPartialArrival h c) s = .next t ∧
      ((c - nFirst k.desc) % nWidth k.desc + 1 < nWidth k.desc →
        mapped h k.seq (unit c fun u => { u with sent := sset u.sent m.1 v }) s t) ∧
      (nWidth k.desc ≤ (c - nFirst k.desc) % nWidth k.desc + 1 → ∀ k' ∈ (N h t).cmds, k'.seq = k.seq →
        sfind (sget NbuUnit.init k'.units c).stat m.1 = some (nbuStat (nStep k.desc u.step) k.desc v) ∧
        ∀ j, j < nWidth k.desc → j ≠ (c - nFirst k.desc) % nWidth k.desc →
          sfind (sget NbuUnit.init k'.units (nFirst k.desc + (c - nFirst k.desc) / nWidth k.desc * nWidth k.desc + j)).inn m.1 =
            some (nbuStat (nStep k.desc u.step) k.desc v))) ∧
  (∀ h c s k u r v rest, front h c s k u → u.inn = (r, v) :: rest → ∃ t, exec (.nbuStatisticReturn h c) s = .next t ∧
    mapped h k.seq (unit c fun u => { u with inn := rest, stat := sset u.stat r v }) s t) ∧
  (∀ h s k e0 es, Live h s → (N h s).cmds.find? (fun k => !k.ended && !k.errs.isEmpty) = some k → k.errs = e0 :: es →
    ∃ t e, exec (.nbuRunningFailure h) s = .next t ∧ e ∈ k.errs ∧ e.1 = e0.1 ∧ (∀ z ∈ k.errs, z.1 = e0.1 → e.2.1 ≤ z.2.1) ∧
      mapped h k.seq (fun k => { k with ended := true, result := e.2.2, rstep := e0.1, rnbu := e.2.1 }) s t) ∧
  (∀ h seq s k, Live h s → (N h s).cmds.find? (fun k => decide (k.seq = seq)) = some k →
    (k.ended = true ∨ k.delivered = true ∧ ∀ q ∈ k.units, q.2.done = true) →
    (∀ z ∈ (s.tw h).mem.snoops, ∀ g sl, s.targetB (z.line * 128) = .pinned g sl → sl ∉ k.units.map fun q => (s.tw h).chainSlice q.1) →
    (k.cplOk = true → EngFits s h (nCpl k.desc) 4) →
    ∃ t, exec (.nbuCommandComplete h seq) s = .next t ∧ N h t = (N h s).finish seq k.result ∧
      (∀ q ∈ (N h t).cmds, q.seq ≠ seq) ∧ (N h t).lastResult = k.result ∧
      (k.cplOk = true → EngWrote t (nCpl k.desc) 4 k.word.toNat) ∧
      (∀ sl l hd i e blk, k.src = .brick sl l hd →
        (s.brick ⟨h, sl⟩).ops.find? (fun p => decide (p.2.handle = hd) && p.2.status.isNone) = some (i, e) →
        sfind (s.brick ⟨h, sl⟩).blocks e.block = some blk → blk.retired = false →
        sfind (t.brick ⟨h, sl⟩).ops i = some { e with status := some k.word }) ∧
      k.word = BitVec.ofNat 32 (2 ^ 31 + k.result % 128 * 2 ^ 24 + k.rstep % 16 * 2 ^ 20 + k.rnbu % 1024 * 2 ^ 10)) ∧
  (∀ n, 0 < seqNext n ∧ seqNext n < 2 ^ 32)

/-- R531, R547, R548, R555, R598, R699: the supply. The input and `COLD_RST_n` take both towers down and release them; a cold reset starts the
rail sequence, which ends in bring-up or HOLD; rail faults are recorded and start the reset of their rail, and VHP holds the host port
alone. -/
def Obligations.PowerSupplyResults : Prop :=
  let fault := fun (h : TowerId) (n : Nat) (t : State) => ((t.tw h).reg .pwrFault).testBit n = true
  let off := fun (s t : State) => ∀ h, (t.tw h).sys = Sys.init (s.tw h).sys.fuses (s.tw h).sys.store ∧ (t.tw h).regs = [] ∧
    (t.tw h).mem = MemSys.init ∧ (t.tw h).lmap = [] ∧ t.host.up = false ∧ t.host.railBad = true
  (∀ s, ∃ t, exec (.inputOutOfRange true) s = .next t ∧ off s t ∧ t.pins = { s.pins with input := false }) ∧
  (∀ s, ∃ t, exec (.inputOutOfRange false) s = .next t ∧ t.host = s.host ∧ t.pins = s.pins ∧
    ∀ h, (s.tw h).mgmtAlive = true → fault h 6 t ∧ (t.tw h).mem = (s.tw h).mem ∧ (t.tw h).sys = (s.tw h).sys) ∧
  (∀ s, exec .inputReturn s = .next { s with pins := { s.pins with input := true } }) ∧
  (∀ s, ∃ t, exec .coldRstNAssert s = .next t ∧ off s t ∧ t.pins = { s.pins with coldRst := true }) ∧
  (∀ s, exec .coldRstNRelease s = .next { s with pins := { s.pins with coldRst := false } }) ∧
  (∀ s, s.pins.input = true → s.pins.coldRst = false → s.t0.isOff = true → s.t1.isOff = true →
    ∃ t, exec .coldReset s = .next t ∧ ∀ h, (t.tw h).sys.boot = { (s.tw h).sys.boot with step := 1 } ∧ (t.tw h).regs = (s.tw h).regs) ∧
  (∀ h s, (s.tw h).sequencing = true →
    let p := (s.tw h).seqNext 0
    let done := (if p = 0 then true else (s.tw h).sys.aux) = true ∧ ∀ q, 1 ≤ q → q ≤ 6 →
      ((s.tw h).sys.rails ||| seqRails p) &&& seqRails q = seqRails q
    ∃ t, exec (.railPowerGood h) s = .next t ∧ (t.tw h).sys.rails = (s.tw h).sys.rails ||| seqRails p ∧
      (p = 0 → (t.tw h).sys.aux = true ∧ t.host.railBad = false) ∧ (p ≠ 0 → t.host = s.host) ∧
      (¬done → (t.tw h).sys.boot = (s.tw h).sys.boot) ∧
      (done → (t.tw h).sys.boot.step = if (s.tw h).sys.boot.again && (s.tw h).sys.mgmt.up then 3 else 2)) ∧
  (∀ h s, (s.tw h).sequencing = false → (s.tw h).sys.vcoreBad = true → ∃ t, exec (.railPowerGood h) s = .next t ∧
    (t.tw h).sys = { (s.tw h).sys with vcoreBad := false, rails := (s.tw h).sys.rails ||| 1 } ∧ (t.tw h).regs = (s.tw h).regs) ∧
  (∀ h s, (s.tw h).sequencing = true → ∃ t, exec (.railPowerGoodTimeout h) s = .next t ∧
    ((s.tw h).seqNext 0 ≤ 1 → (t.tw h).sys.boot = { (s.tw h).sys.boot with sub := 1 } ∧ (t.tw h).regs = (s.tw h).regs) ∧
    (2 ≤ (s.tw h).seqNext 0 → (t.tw h).fget Fld.glbTower_STATE = 1 ∧ (t.tw h).fget Fld.fusHold_REASON = 1 ∧
      (t.tw h).fget Fld.fusHold_DETAIL = seqIndex ((s.tw h).seqNext 0) ∧ (t.tw h).sys.boot.step = 0)) ∧
  (∀ h s, (s.tw h).mgmtAlive = true → (s.tw h).sys.rails.testBit 0 = true → ∃ t, exec (.vcoreFault h) s = .next t ∧ fault h 0 t ∧
    (t.tw h).sys.vcoreBad = true ∧ (t.tw h).sys.rails = (s.tw h).sys.rails - 1 ∧
    (t.tw h).cdrReq = some ((s.tw h).cdrReq.getD 3) ∧ (t.tw h).warmReq = (s.tw h).warmReq) ∧
  (∀ h s, (s.tw h).sys.vcoreBad = true → ∃ t, exec (.vcoreRegulationTimeout h) s = .next t ∧
    (t.tw h).fget Fld.glbTower_STATE = 1 ∧ (t.tw h).fget Fld.fusHold_REASON = 0x0D) ∧
  (∀ h (r : Fin 8) s, r ≠ 0 → (s.tw h).sys.rails.testBit r.val = true → ∃ t, exec (.railFault h r) s = .next t ∧
    (11 ∈ (t.tw h).irq ∨ fault h 1 s) ∧
    (t.tw h).sys.rails.testBit r.val = false ∧ (t.tw h).sys.railAt = some (s.tw h).timeNs ∧
    (r.val = 2 → (t.tw h).sys.mgmt.up = false) ∧
    let again := (∃ a, (s.tw h).sys.railAt = some a ∧ (s.tw h).timeNs - a ≤ 60000000000) ∨ (s.tw h).sys.boot.step = 1
    (again → fault h 1 t ∧ (t.tw h).fget Fld.glbTower_STATE = 1 ∧ (t.tw h).fget Fld.fusHold_REASON = 1 ∧ (t.tw h).fget Fld.fusHold_DETAIL = r.val) ∧
    (¬again → 2 ≤ (s.tw h).fget Fld.glbTower_STATE → (t.tw h).fget Fld.glbTower_STATE = 0 ∧ (t.tw h).sys.boot.step = 1 ∧
      (t.tw h).sys.boot.again = true ∧ (t.tw h).fget Fld.rstStat_LAST_DOMAIN = 3 ∧ (t.tw h).fget Fld.rstStat_LAST_CAUSE = 4 ∧
      (t.tw h).fget Fld.rstStat_FORCED = 1)) ∧
  (∀ s, ∃ t, exec .vhpFault s = .next t ∧ t.host.up = false ∧ t.host.railBad = true ∧ t.host.gos = [] ∧
    ∀ h, (t.tw h).mem = (s.tw h).mem ∧ (t.tw h).sys = (s.tw h).sys ∧ ((s.tw h).mgmtAlive = true → fault h 1 t)) ∧
  (∀ s, (s.t0.sys.aux = true ∨ s.t1.sys.aux = true) → exec .vhpReturn s = .next { s with host := { s.host with railBad := false } })

/-- R537 to R546, R549 to R559, R569, R572: remote sense, power regions, the throttle and the cap. Points leave the effective set and return; a region enters
retention, wakes, trips and is locked out; records restart; an evaluation shows its samples and moves the cap level by one. -/
def Obligations.PowerRegionResults : Prop :=
  let fault := fun (h : TowerId) (n : Nat) (t : State) => ((t.tw h).reg .pwrFault).testBit n = true
  let lost := fun (h : TowerId) (r : Fin 72) (t : State) => ∀ k, k / 8 = r.val → (t.tw h).sliceLive k = true →
    ((t.tw h).brick k).groups = [] ∧ ((t.tw h).brick k).blocks = [] ∧ ((t.tw h).brick k).run = none
  let held := fun (h : TowerId) (r : Fin 72) (s t : State) => ∀ k, k / 8 = r.val → (t.tw h).sliceLive k = true →
    ((t.tw h).brick k).mx.front = ((s.tw h).brick k).mx.front ∧ ((t.tw h).brick k).mx.back = ((s.tw h).brick k).mx.back ∧
    (((s.tw h).brick k).used = true → ((t.tw h).brick k).used = true)
  let med := fun (x : Tower) (p : Fin 8) => x.mgmtAlive = true ∧ p.val ∈ x.effective ∧ 3 ≤ x.effective.length
  (∀ h p s, med (s.tw h) p → ∃ t, exec (.senseExclusion h p) s = .next t ∧ fault h 4 t ∧
    (∀ q, q < 8 → ((t.tw h).fget Fld.pwrSenseStat_EXCL).testBit q = (decide (q = p.val) || ((s.tw h).fget Fld.pwrSenseStat_EXCL).testBit q)) ∧
    (t.tw h).fget Fld.pwrSenseSel_SEL = (s.tw h).fget Fld.pwrSenseSel_SEL) ∧
  (∀ h (p : Fin 8) s, (s.tw h).effective.length ≤ 2 → exec (.senseExclusion h p) s = .next s) ∧
  (∀ h (v : Word) s, ∃ t, exec (.pwrSenseSelWrite h v) s = .next t ∧ (bits v.toNat 7 0 = 0 → t = s) ∧
    (bits v.toNat 7 0 ≠ 0 → (t.tw h).fget Fld.pwrSenseSel_SEL = bits v.toNat 7 0 ∧ (t.tw h).fget Fld.pwrSenseStat_EXCL = 0)) ∧
  (∀ h (r : Fin 72) (v : Word) s, ∃ t, exec (.pwrRegionModeWrite h r v) s = .next t ∧
    (t.tw h).fget Fld.pwrRegion_MODE r.val = (if bits v.toNat 63 62 = 3 ∨ 5 ≤ (s.tw h).rst r.val then
      (s.tw h).fget Fld.pwrRegion_MODE r.val else bits v.toNat 63 62) ∧
    (t.tw h).fget Fld.pwrRegion_OC_CODE r.val = (if 64 < bits v.toNat 58 52 then (s.tw h).fget Fld.pwrRegion_OC_CODE r.val
      else bits v.toNat 58 52) ∧
    (t.tw h).fget Fld.pwrRegion_IDLE_US r.val = (if bits v.toNat 31 16 = 0 then (s.tw h).fget Fld.pwrRegion_IDLE_US r.val
      else bits v.toNat 31 16) ∧ (t.tw h).rst r.val = (s.tw h).rst r.val) ∧
  (∀ h (r : Fin 72) s, (s.tw h).ready = true → (s.tw h).rst r.val = 0 → (s.tw h).regionFree r.val = true →
    (s.tw h).fget Fld.pwrRegion_MODE r.val = 1 →
    ∃ t, exec (.retentionEntry h r) s = .next t ∧ (t.tw h).rst r.val = 1 ∧ lost h r t ∧ held h r s t) ∧
  (∀ h (r : Fin 72) s, (s.tw h).ready = true → (s.tw h).rst r.val = 0 → (s.tw h).regionFree r.val = true →
    (s.tw h).fget Fld.pwrRegion_MODE r.val = 2 →
    ∃ t, exec (.autoIdleExpiry h r) s = .next t ∧ (t.tw h).rst r.val = 1 ∧ lost h r t ∧ held h r s t) ∧
  (∀ h (r : Fin 72) s, (s.tw h).rst r.val = 1 → ∃ t, exec (.retentionComplete h r) s = .next t ∧ (t.tw h).rst r.val = 2 ∧
    (t.tw h).bricks = (s.tw h).bricks) ∧
  (∀ h (r : Fin 72) s, (s.tw h).rst r.val = 2 → ((s.tw h).region r.val).ret = 0 →
    ((s.tw h).fget Fld.pwrRegion_MODE r.val = 0 ∨ (s.tw h).testWants r.val = true ∨
      (s.tw h).fget Fld.pwrRegion_MODE r.val = 2 ∧ ∃ k ∈ regionSlices r.val, ((s.tw h).holder k).isSome = true) →
    ∃ t, exec (.wake h r) s = .next t ∧ (t.tw h).rst r.val = 3 ∧ (t.tw h).bricks = (s.tw h).bricks) ∧
  (∀ h (r : Fin 72) s, ((s.tw h).region r.val).ret ≠ 0 → exec (.wake h r) s = .next s) ∧
  (∀ h (r : Fin 72) s, (s.tw h).rst r.val = 3 → ∃ t, exec (.wakeComplete h r) s = .next t ∧
    (t.tw h).rst r.val = (if (s.tw h).fget Fld.pwrRegion_MODE r.val = 1 ∧ (s.tw h).testWants r.val = false then 2 else 0) ∧
    ∀ k, ((t.tw h).brick k).mx = ((s.tw h).brick k).mx) ∧
  (∀ h (r : Fin 72) s, (s.tw h).mgmtAlive = true → ((s.tw h).rst r.val = 0 ∨ (s.tw h).rst r.val = 1 ∨ (s.tw h).rst r.val = 3) →
    let ts := tripsAt ((s.tw h).region r.val).trips (s.tw h).timeNs
    ∃ t, exec (.ocTrip h r) s = .next t ∧ fault h 2 t ∧ (t.tw h).reg .pwrOcLast r.val = (s.tw h).timeNs ∧
      ((t.tw h).region r.val).trips = ts ∧ (t.tw h).fget Fld.pwrRegion_TRIPS r.val = min 3 ts.length ∧
      (ts.length < 3 → (t.tw h).rst r.val = 4 ∧ lost h r t ∧ held h r s t) ∧
      (3 ≤ ts.length → (t.tw h).rst r.val = 5 ∧ (t.tw h).fget Fld.pwrRegion_LOCKED r.val = 1 ∧ fault h 3 t ∧
        ∀ k, k / 8 = r.val → (t.tw h).sliceLive k = false)) ∧
  (∀ h (r : Fin 72) s, (s.tw h).rst r.val = 4 → ∃ t, exec (.ocHoldoffExpiry h r) s = .next t ∧
    (t.tw h).rst r.val = (if ((s.tw h).region r.val).ret = 0 then 3 else 2) ∧ (t.tw h).bricks = (s.tw h).bricks) ∧
  (∀ h (i : Fin 80) s, ∃ t, exec (.pwrVminClear h i) s = .next t ∧ (t.tw h).fget Fld.pwrVmin_MIN i.val = 511 ∧
    (t.tw h).reg .pwrVminT i.val = 0 ∧ ∀ j, j < 80 → j ≠ i.val → (t.tw h).reg .pwrVmin j = (s.tw h).reg .pwrVmin j) ∧
  (∀ h m s, PowerSample.wf m = true → (s.tw h).mgmtAlive = true → ∃ t, exec (.powerCapEvaluate h m) s = .next t ∧
    (t.tw h).fget Fld.pwrIn_VIN = m.vin.toNat ∧ (t.tw h).fget Fld.pwrIn_IIN = m.iin.toNat ∧ (t.tw h).fget Fld.pwrIn_PIN = m.pin.toNat ∧
    (∀ k, k < 8 → (t.tw h).fget Fld.pwrRail_V k = (m.railV.getD k 0).toNat ∧ (t.tw h).fget Fld.pwrRail_I k = (m.railI.getD k 0).toNat) ∧
    (let l := (s.tw h).fget Fld.pwrCap_LEVEL
     let cap := (s.tw h).fget Fld.pwrCap_CAP_W
     let l' := (t.tw h).fget Fld.pwrCap_LEVEL
     ((s.tw h).fget Fld.pwrCap_EN = 0 → l' = 0) ∧
     ((s.tw h).fget Fld.pwrCap_EN = 1 → cap < m.pin.toNat → l' = min 15 (l + 1) ∧ (l = 0 → fault h 5 t)) ∧
     ((s.tw h).fget Fld.pwrCap_EN = 1 → 100 * m.pin.toNat < 97 * cap → l' = l - 1) ∧
     ((s.tw h).fget Fld.pwrCap_EN = 1 → m.pin.toNat ≤ cap → 97 * cap ≤ 100 * m.pin.toNat → l' = l)) ∧
    (∀ r, r < 72 → (s.tw h).rst r = 0 → (t.tw h).fget Fld.pwrVmin_MIN r =
      min ((s.tw h).fget Fld.pwrVmin_MIN r) ((m.regions.getD r 0).toNat))) ∧
  (∀ (b : BrickRef) s, (s.tw b.t).cyc % 16 < (s.tw b.t).throttle (b.s.val / 8) →
    (∀ op sel o (g : GroupRef) w, g.b = b → prepare op sel o g w s = .no) ∧
    exec (.mxStreamExecute b) s = .next s ∧ exec (.batchEntryExecute b) s = .next s ∧ exec (.tpStagingFill b) s = .next s ∧
    exec (.tpKstep b) s = .next s) ∧
  (∀ h (c : Nat) s, (s.tw h).memCyc % 16 < (s.tw h).fget Fld.thmRegion_LB ((s.tw h).chainSlice c / 8) →
    exec (.nbuLineAccess h c) s = .next s)

/-- R560 to R571, R583, R584, R699: heat. A sample shows its readings, marks the sensors that stray, moves the levels of every region and
shuts the tower down at a shutdown limit, with no effect on the other tower; the wear record counts reversals; the leak pin follows
the sense trace. -/
def Obligations.ThermalResults : Prop :=
  (∀ h m s, ThermSample.wf m = true → (s.tw h).mgmtAlive = true →
    let rd := fun i => sext 12 ((m.die.getD i 0).toNat)
    let chk := (List.range 160).map fun i => crossCheck rd (fun i => decide ((s.tw h).fget Fld.thmSensor_SUSPECT i = 1)) i
      (sget Sensor.init (s.tw h).sys.therm.sens i)
    let sus := fun i => ((chk[i]?).map Prod.snd).getD false
    let av := fun i => (accepted rd sus).getD i 0
    let acts := fun (l : List Nat) => (l.filter fun i =>
      rateAtLeast 5 (rateOf (s.tw h).time17 (av i) (sus i) (sget Sensor.init (s.tw h).sys.therm.sens i).hist).1).length
    ∃ t, exec (.thermalSample h m) s = .next t ∧ t.tw h.other = s.tw h.other ∧ t.host = s.host ∧
      (∀ i, i < 160 → (t.tw h).fget Fld.thmSensor_READING i = (m.die.getD i 0).toNat ∧
        (t.tw h).fget Fld.thmSensor_SUSPECT i = (if sus i then 1 else 0) ∧
        (-2048 ≤ av i → av i ≤ 2047 → sext 12 ((t.tw h).fget Fld.thmSensor_ACCEPTED i) = av i) ∧
        (sus i = true → (s.tw h).fget Fld.thmSensor_SUSPECT i = 0 → ((t.tw h).reg .thmEvent).testBit 1 = true)) ∧
      (∀ k, k < 6 → (s.tw h).fget Fld.thmHbm_PRESENT k = 1 → (t.tw h).fget Fld.thmHbm_READING k = (m.hbm.getD k 0).toNat) ∧
      (∀ r, r < 72 → (t.tw h).fget Fld.thmRegion_LC r =
        levelNext ((s.tw h).fget Fld.thmRegion_LC r) (250 * ((maxInt ((regionC r).map av)).getD 0 - 800))
          (decide (1000000 ≤ (s.tw h).timeNs - ((s.tw h).region r).lcAt)) (acts (regionC r))) ∧
      ((∃ i, i < 160 ∧ 920 ≤ av i) → (s.tw h).fget Fld.thmStat_SHUT = 0 → (t.tw h).fget Fld.glbTower_STATE = 1 ∧
        (t.tw h).fget Fld.thmStat_SHUT = 1 ∧ (t.tw h).fget Fld.fusHold_REASON = 0x0C ∧ (t.tw h).sys.rails &&& 0x19 = 0 ∧
        ((t.tw h).reg .thmEvent).testBit 7 = true)) ∧
  (∀ l m st k, l ≤ 15 → levelNext l m st k ≤ 15 ∧ (0 ≤ m → levelNext l m st 0 = min 15 (l + 1)) ∧
    (m < 0 → -4000 ≤ m → levelNext l m st 0 = l) ∧ (m < -4000 → levelNext l m true 0 = l - 1 ∧ levelNext l m false 0 = l)) ∧
  (∀ rd sus i x, sus i = false →
    (∃ n ∈ neighbours i, sus n = false ∧ (rd i - rd n : Int).natAbs ≤ 96) → (crossCheck rd sus i x).2 = false) ∧
  (∀ h s, (s.tw h).mgmtAlive = true →
    let v := sext 12 ((s.tw h).fget Fld.thmStat_MAX_C)
    let w := (s.tw h).sys.wear
    ∃ t, exec (.thermalCycleSample h) s = .next t ∧
      (w.ext = none → (t.tw h).sys.wear = { w with ext := some v, dir := 0 }) ∧
      (∀ e, w.ext = some e → 0 < w.dir * (v - e) → (t.tw h).sys.wear = { w with ext := some v }) ∧
      (∀ e, w.ext = some e → w.dir * (v - e) ≤ 0 → (v - e).natAbs < 16 → t = s) ∧
      (∀ e, w.ext = some e → w.dir * (v - e) ≤ 0 → 16 ≤ (v - e).natAbs →
        let q := rainflow 16 (e :: w.stack)
        (t.tw h).sys.wear = ⟨some v, if e < v then 1 else -1, q.1.take 16, w.sq + q.2.1⟩ ∧ 4 ∈ (t.tw h).sys.store.due)) ∧
  (∀ s, exec .leakDetect s = .next { s with pins := { s.pins with leak := true } }) ∧
  (∀ s, exec .leakClear s = .next { s with pins := { s.pins with leak := false } })

/-- R22, R380, R384 to R386, R547, R590 to R598, R605, R606, R609: resets. A request waits until its reset begins; a reset discards what its
domain holds, is counted and noted, and leads through its stages back to service; a wider reset absorbs a narrower one. -/
def Obligations.ResetResults : Prop :=
  let noted := fun (h : TowerId) (dom cause : Nat) (t : State) =>
    (t.tw h).fget Fld.rstStat_LAST_DOMAIN = dom ∧ (t.tw h).fget Fld.rstStat_LAST_CAUSE = cause % 16
  let st := fun (h : TowerId) (s : State) => (s.tw h).fget Fld.glbTower_STATE
  let up1 := fun (n a : Nat) => min (2 ^ n - 1) (a + 1)
  let empty := fun (b : Brick) => b.groups = [] ∧ b.blocks = [] ∧ b.run = none ∧ b.icache = [] ∧ b.ops = []
  let rst := fun (h : TowerId) (s : State) => (s.tw h).sys.rst
  let dead := fun (h : TowerId) (k : Nat) (t : State) => (t.tw h).sliceLive k = false
  (∀ (b : BrickRef) c s, (s.tw b.t).mgmtAlive = true → (s.tw b.t).sliceLive b.s.val = true →
    (s.tw b.t).brickReq.find? (fun p => decide (p.1 = b.s.val)) = some (b.s.val, c) →
    ∃ t, exec (.brickReset b false) s = .next t ∧ (t.tw b.t).brickReq = (s.tw b.t).brickReq.filter (fun p => decide (p.1 ≠ b.s.val)) ∧
      (t.tw b.t).fget Fld.rstCount_BRICK = up1 32 ((s.tw b.t).fget Fld.rstCount_BRICK) ∧
      (st b.t s = 2 → (t.brick b).phase = .resetting ∧ empty (t.brick b) ∧ noted b.t 1 c t ∧
        (t.tw b.t).fget Fld.rstStat_LAST_SLICE = b.s.val) ∧
      (st b.t s ≠ 2 → t.brick b = s.brick b)) ∧
  (∀ (b : BrickRef) s, (s.tw b.t).mgmtAlive = true → (s.tw b.t).sliceLive b.s.val = true → st b.t s = 2 →
    ∃ t, exec (.brickReset b true) s = .next t ∧ (t.brick b).phase = .resetting ∧ empty (t.brick b) ∧ noted b.t 1 2 t ∧
      (t.brick b).privErrs = (s.brick b).privErrs ++ [(s.tw b.t).timeNs] ∧ (t.tw b.t).fget Fld.eccInt_UE = 1) ∧
  (∀ (b : BrickRef) s, (s.brick b).phase = .resetting → ∃ t, exec (.brickResetComplete b) s = .next t ∧
    (repeatedErrs (s.brick b).privErrs = false → (t.brick b).phase = .up ∧ (t.tw b.t).lock = (s.tw b.t).lock) ∧
    (repeatedErrs (s.brick b).privErrs = true → dead b.t b.s.val t)) ∧
  (∀ h c s, (s.tw h).cdrReq = some c → st h s = 2 → ∃ t, exec (.computeDomainReset h) s = .next t ∧ st h t = 3 ∧
    rst h t = .cdQuiesce ∧ (t.tw h).cdrReq = none ∧ noted h 2 c t ∧
    (t.tw h).fget Fld.rstCount_CD = up1 16 ((s.tw h).fget Fld.rstCount_CD) ∧ (t.tw h).mem = (s.tw h).mem ∧
    ∀ l ∈ (t.tw h).cp.launches, l.phase ≠ .running ∧ l.phase ≠ .kiln) ∧
  (∀ h c s, (s.tw h).cdrReq = some c → st h s = 0 → ∃ t, exec (.computeDomainReset h) s = .next t ∧ st h t = 0 ∧
    rst h t = rst h s ∧ (t.tw h).cdrReq = none ∧ (t.tw h).fget Fld.rstCount_CD = up1 16 ((s.tw h).fget Fld.rstCount_CD)) ∧
  (∀ h s, (s.tw h).drained = true → rst h s = .cdQuiesce → ∃ t, exec (.cdrQuiesceComplete h) s = .next t ∧ rst h t = .cdHeld ∧
    (∀ k, empty ((t.tw h).brick k)) ∧ (t.tw h).lmap = [] ∧ (t.tw h).nbu = Nbu.init ∧ (t.tw h).routes = [] ∧ (t.tw h).mem = (s.tw h).mem ∧
    (t.tw h).cp = (s.tw h).cp) ∧
  (∀ h s, (s.tw h).drained = true → rst h s = .warmQuiesce → ∃ t, exec (.cdrQuiesceComplete h) s = .next t ∧ st h t = 0 ∧
    (t.tw h).mem.cells = [] ∧ (t.tw h).mem.dir = [] ∧ (t.tw h).mem.retired = (s.tw h).mem.retired ∧ (t.tw h).ports = [] ∧
    (∀ k, empty ((t.tw h).brick k)) ∧ (t.tw h).sys.boot.step = (if (s.tw h).sys.rails = 255 then 3 else 1) ∧
    ∀ p ∈ (t.tw h.other).mem.dir, p.2.v = false) ∧
  (∀ h s, (rst h s = .cdQuiesce ∨ rst h s = .warmQuiesce) → st h s = 3 → ∃ t, exec (.quiesceTimeout h) s = .next t ∧ st h t = 0 ∧
    noted h 3 5 t ∧ (t.tw h).fget Fld.rstStat_FORCED = 1 ∧ (t.tw h).mem.cells = []) ∧
  (∀ h s, rst h s = .cdHeld → (s.tw h).sys.vcoreBad = false → (s.tw h).fget Fld.clkStat_CPLL_LOCK = 1 →
    ∃ t, exec (.cdrResetRelease h) s = .next t ∧ rst h t = if (s.tw h).sys.selftest then .cdSelftest else .cdArray) ∧
  (∀ h fs s, rst h s = .cdSelftest → ∃ t, exec (.cdrSelftestComplete h fs) s = .next t ∧ rst h t = .cdArray ∧
    (∀ k ∈ fs, dead h k.val t) ∧ ∀ k : Fin 576, k ∉ fs → sfind (t.tw h).lock k.val = sfind (s.tw h).lock k.val) ∧
  (∀ h bad s, rst h s = .cdArray → ∃ t, exec (.cdrArrayTestComplete h bad) s = .next t ∧ rst h t = .cdTrain ∧
    ∀ k : Fin 576, (s.tw h).enabled.getLsbD k.val = true →
      let b := bad.foldl (fun a p => if p.1.val = k.val then a ||| p.2.toNat else a) (sget 0 (s.tw h).sys.badGroups k.val)
      let g := (s.tw h).fget Fld.brkArray_GROUP_GOOD k.val
      (t.tw h).fget Fld.brkArray_GROUP_GOOD k.val = g - (g &&& b) ∧ (g - (g &&& b) = 0 → dead h k.val t) ∧
      (b ≠ 0 → (t.tw h).fget Fld.brkArray_WIDTH k.val = 8 * popN 8 (g - (g &&& b)))) ∧
  (∀ h ports gates s, rst h s = .cdTrain → ∃ t, exec (.cdrTrainingComplete h ports gates) s = .next t ∧ rst h t = .cdFill ∧
    (∀ k ∈ ports, dead h k.val t) ∧
    ∀ g ∈ gates, ∀ k : Fin 576, k.val / 24 = g.val / 2 → k.val % 24 / 12 = g.val % 2 → dead h k.val t) ∧
  (∀ h s, rst h s = .cdFill → ∃ t, exec (.cdrFillComplete h) s = .next t ∧ st h t = 2 ∧ rst h t = .none ∧
    (t.tw h).lmap.map Prod.snd = (List.range 576).filter (s.tw h).sliceLive ∧
    (t.tw h).lmap.map Prod.fst = List.range (t.tw h).lmap.length ∧ (t.tw h).fget Fld.glbTower_BRK_LIVE = (t.tw h).lmap.length) ∧
  (∀ h c s, (s.tw h).warmReq = some c → (s.tw h).mgmtAlive = true → ∃ t, exec (.warmTowerReset h none) s = .next t ∧
    (t.tw h).warmReq = none ∧
    (st h s = 2 → st h t = 3 ∧ rst h t = .warmQuiesce ∧ noted h 3 c t ∧ (t.tw h).mem.cells = (s.tw h).mem.cells ∧
      (t.tw h).mem.chks = (s.tw h).mem.chks ∧ (t.tw h).mem.dir = (s.tw h).mem.dir ∧ (t.tw h).ports = [] ∧
      ∀ p ∈ (t.tw h.other).mem.dir, p.2.v = false) ∧
    (st h s = 1 → c = 1 → st h t = 0 ∧ noted h 3 1 t ∧ (t.tw h).mem.cells = []) ∧
    (st h s = 1 → c ≠ 1 → st h t = 1 ∧ (t.tw h).mem = (s.tw h).mem ∧ (t.tw h).regs = (s.tw h).regs)) ∧
  (∀ h k s, st h s = 2 → ∃ t, exec (.warmTowerReset h (some k)) s = .next t ∧ st h t = 3 ∧ rst h t = .warmQuiesce ∧ noted h 3 9 t ∧
    (t.tw h).fget Fld.eccInt_UE = 1) ∧
  (∀ h who s, ∃ t, exec (.rstCtlWarm h who) s = .next t ∧
    (who = .mgmt → (s.tw h).fget Fld.thmStat_SHUT = 0 → (t.tw h).warmReq = some ((s.tw h).warmReq.getD 1)) ∧
    ((who ≠ .mgmt ∨ (s.tw h).fget Fld.thmStat_SHUT = 1 ∧ (s.tw h).coolEnough = false) →
      (t.tw h).warmReq = (s.tw h).warmReq ∧ (t.tw h).fget Fld.rstStat_REFUSED = 1)) ∧
  (∀ h s, ∃ t, exec (.rstCtlCdr h) s = .next t ∧ t.tw h = { s.tw h with cdrReq := some ((s.tw h).cdrReq.getD 1) }) ∧
  (∀ h (k : BitVec 10) s, ∃ t, exec (.rstCtlBrick h k) s = .next t ∧
    (k.toNat < 576 → (s.tw h).sliceLive k.toNat = true →
      t.tw h = { s.tw h with brickReq := (s.tw h).brickReq ++ [(k.toNat, 1)] }) ∧
    ((576 ≤ k.toNat ∨ (s.tw h).sliceLive k.toNat = false) → t = s))

/-- R585 to R589, R592, R599 to R604, R611 to R614: clocks, the hinge and the global stop. Loss of a PLL or the reference is shown, counted and
starts its reset while device time runs from the oscillator; hinge transfers are counted; a stop freezes a tower at its cut with the
crossings recorded, and RESUME releases it; a watchdog restart resets no domain. -/
def Obligations.ClockAndStopResults : Prop :=
  let st := fun (h : TowerId) (s : State) => (s.tw h).fget Fld.glbTower_STATE
  let gs := fun (h : TowerId) (s : State) => (s.tw h).fget Fld.rstGstop_STATE
  let same := fun (h : TowerId) (s t : State) => (t.tw h).bricks = (s.tw h).bricks ∧ (t.tw h).mem = (s.tw h).mem ∧
    (t.tw h).cp = (s.tw h).cp ∧ (t.tw h).rtr = (s.tw h).rtr ∧ (t.tw h).time17 = (s.tw h).time17
  (∀ h s, (s.tw h).mgmtAlive = true → ∃ t, exec (.computePllLockLoss h) s = .next t ∧ (t.tw h).fget Fld.clkStat_CPLL_LOCK = 0 ∧
    (t.tw h).fget Fld.clkStat_CPLL_LOSS = min 255 ((s.tw h).fget Fld.clkStat_CPLL_LOSS + 1) ∧
    (t.tw h).cdrReq = some ((s.tw h).cdrReq.getD 7) ∧ same h s t) ∧
  (∀ h s, (s.tw h).mgmtAlive = true → st h s = 2 → ∃ t, exec (.basePllLockLoss h) s = .next t ∧
    (t.tw h).fget Fld.clkStat_BPLL_LOCK = 0 ∧ (t.tw h).fget Fld.clkStat_BPLL_LOSS = min 255 ((s.tw h).fget Fld.clkStat_BPLL_LOSS + 1) ∧
    (t.tw h).sys.osc.isSome = true ∧ st h t = 0 ∧ (t.tw h).fget Fld.rstStat_LAST_DOMAIN = 3 ∧
    (t.tw h).fget Fld.rstStat_LAST_CAUSE = 6 ∧ (t.tw h).fget Fld.rstStat_FORCED = 1) ∧
  (∀ h s, (s.tw h).mgmtAlive = true → ∃ t, exec (.pllRelock h false) s = .next t ∧ (t.tw h).fget Fld.clkStat_CPLL_LOCK = 1 ∧
    same h s t) ∧
  (∀ h s, (s.tw h).mgmtAlive = true → ∃ t, exec (.pllRelock h true) s = .next t ∧ (t.tw h).fget Fld.clkStat_BPLL_LOCK = 1 ∧ same h s t ∧
    (t.tw h).sys.osc = if (s.tw h).fget Fld.clkStat_REF_OK = 1 then none else (s.tw h).sys.osc) ∧
  (∀ h s, (s.tw h).mgmtAlive = true → (s.tw h).fget Fld.clkStat_REF_OK = 1 → ∃ t, exec (.referenceLoss h) s = .next t ∧
    (t.tw h).fget Fld.clkStat_REF_OK = 0 ∧ (t.tw h).fget Fld.clkStat_REF_LOSS = min 255 ((s.tw h).fget Fld.clkStat_REF_LOSS + 1) ∧
    (t.tw h).sys.osc.isSome = true ∧ same h s t) ∧
  (∀ h s, (s.tw h).mgmtAlive = true → (s.tw h).fget Fld.clkStat_REF_OK = 0 → st h s = 2 →
    ∃ t, exec (.referenceLossTimeout h) s = .next t ∧ st h t = 0 ∧ (t.tw h).fget Fld.rstStat_LAST_DOMAIN = 3 ∧
      (t.tw h).fget Fld.rstStat_LAST_CAUSE = 6 ∧ (t.tw h).fget Fld.rstStat_FORCED = 1) ∧
  (∀ h s, (s.tw h).mgmtAlive = true → ∃ t, exec (.referenceReturn h) s = .next t ∧ (t.tw h).fget Fld.clkStat_REF_OK = 1 ∧ same h s t ∧
    (t.tw h).sys.osc = if (s.tw h).fget Fld.clkStat_BPLL_LOCK = 1 then none else (s.tw h).sys.osc) ∧
  (∀ h s, (s.tw h).serving = true → (s.tw h.other).serving = true → ∃ t, exec (.hingeTransfer h true) s = .next t ∧
    (t.tw h).reg .hngRx = ((s.tw h).reg .hngRx + 1) % 2 ^ 64 ∧ (t.tw h.other).reg .hngTx = ((s.tw h.other).reg .hngTx + 1) % 2 ^ 64 ∧
    same h s t ∧ same h.other s t) ∧
  (∀ h s, (s.tw h).serving = true → (s.tw h.other).serving = true → ∃ t, exec (.hingeTransfer h false) s = .next t ∧
    t.tw h = s.tw h ∧ same h.other s t ∧
    (t.tw h.other).fget Fld.hngStat_RETRIES = min (2 ^ 16 - 1) ((s.tw h.other).fget Fld.hngStat_RETRIES + 1)) ∧
  (∀ h (v : Word) s, ∃ t, exec (.globalStop h v) s = .next t ∧ same h s t ∧ same h.other s t ∧
    (t.tw h).fget Fld.rstGstop_BOTH = bits v.toNat 61 61 ∧ (t.tw h).fget Fld.rstGstop_ON_BRKPT = bits v.toNat 60 60 ∧
    ((s.tw h).resetting = false → gs h s = 0 → gs h t = 1) ∧
    ((s.tw h).resetting = true → gs h s = 0 → gs h t = 0) ∧
    (bits v.toNat 61 61 = 1 → bits v.toNat 62 62 = 0 → (s.tw h.other).resetting = false → gs h.other s = 0 → gs h.other t = 1) ∧
    (bits v.toNat 61 61 = 0 → t.tw h.other = s.tw h.other)) ∧
  (∀ h s, gs h s = 1 → ∃ t, exec (.globalStopCut h) s = .next t ∧ gs h t = 2 ∧ (t.tw h).frozen = true ∧
    (t.tw h).reg .rstGstopT = (s.tw h).timeNs ∧ (t.tw h).sys.stopQ = stopItems (s.tw h) (s.tw h.other) ∧ same h s t ∧
    ∀ k, k < 15 → (t.tw h).fget Fld.rstGstopQ_ITEMS k = min (2 ^ 32 - 1) (sget [] (stopItems (s.tw h) (s.tw h.other)) k).length) ∧
  (∀ h (v : Word) s, gs h s = 2 → ∃ t, exec (.globalResume h v) s = .next t ∧ gs h t = 0 ∧ same h s t ∧ same h.other s t ∧
    (t.tw h).sys.stopQ = (s.tw h).sys.stopQ ∧ (bits v.toNat 61 61 = 1 → gs h.other s = 2 → gs h.other t = 0)) ∧
  (∀ h s, (s.tw h).frozen = true → ∀ (b : BrickRef) i d (c : Fin 24), b.t = h → exec (.mxSwapExecute b) s = .next s ∧
    exec (.tpKstep b) s = .next s ∧ exec (.rtGatherRow h c) s = .next s ∧ exec (.nbuLineAccess h i) s = .next s ∧
    exec (.e2eTimeout h d) s = .next s) ∧
  (∀ h s, (s.tw h).mgmtAlive = true → (s.tw h).sys.mgmt.up = true → ∃ t, exec (.mgmtWatchdogExpiry h) s = .next t ∧
    (t.tw h).sys.mgmt.up = false ∧ (t.tw h).sys.mgmt.sessions = [] ∧ same h s t ∧ (t.tw h).regs = (s.tw h).regs ∧
    (t.tw h).sys.mgmt.restarts = (s.tw h).sys.mgmt.restarts + if (s.tw h).fget Fld.mgtStat_TRIAL = 1 then 1 else 0)

/-- R644 to R658: the management controllers. A heartbeat is noted and its loss moves the host-facing role to tower 1; packets of an accepted
type are handled and answered; an update is written into the inactive bank and activated on trial; sessions open and end, the
host sets its IDE keys and enables IDE within one, measurements are reported; protection settings are written by a controller alone. -/
def Obligations.ManagementResults : Prop :=
  let M := fun (h : TowerId) (s : State) => (s.tw h).sys.mgmt
  let img := fun (h : TowerId) (bank : Nat) (s : State) => (s.tw h).sys.store.image bank
  let handled := fun (h : TowerId) (tr : Transport) (pkt : Nat) (cfg : Option TowerCfg) (s t : State) =>
    t = mctpHandle h tr pkt cfg s
  (∀ h s, (M h s).up = true → (M h.other s).up = true → ∃ t, exec (.heartbeat h) s = .next t ∧
    M h.other t = { M h.other s with hbAt := some (s.tw h.other).timeNs } ∧ t.tw h = s.tw h ∧ (t.tw h.other).regs = (s.tw h.other).regs) ∧
  (∀ s, s.t1.sys.mgmt.up = true → s.t1.hostFacing = false →
    (s.t0.mgmtAlive = false ∨ s.t1.peerOk = false ∧ s.t1.sys.mgmt.quiet ≤ s.t1.timeNs) →
    ∃ t o, exec .heartbeatLossTakeover s = .next t ∧ t.t1.hostFacing = true ∧ t.t0.hostFacing = false ∧ 15 ∈ t.t1.irq ∧
      t.out = s.out ++ [o] ∧ (∃ n, o = .mctp .t1 .vdm 0 n) ∧ t.t0.sys = s.t0.sys ∧ t.t1.sys = s.t1.sys) ∧
  (∀ h tr len pkt cfg s, bytesWf len pkt = true → 5 ≤ len → (s.tw h).mgmtAlive = true → (tr = .vdm → (s.tw h).hostFacing = true) →
    ∃ t, exec (.mctpPacket h tr len pkt cfg) s = .next t ∧
      (mctpDst pkt = 0 ∨ mctpDst pkt = (M h s).eid → handled h tr pkt cfg s t) ∧
      (mctpDst pkt ≠ 0 → mctpDst pkt ≠ (M h s).eid → mctpDst pkt = (M h.other s).eid → (s.tw h).hostFacing = true →
        (s.tw h).serving = true → (s.tw h.other).serving = true → handled h.other tr pkt cfg s t) ∧
      (mctpDst pkt ≠ 0 → mctpDst pkt ≠ (M h s).eid → mctpDst pkt ≠ (M h.other s).eid → t = s)) ∧
  (∀ h tr pkt cfg s, let t := mctpHandle h tr pkt cfg s
    (mctpType pkt ∉ [0, 1, 5, 6, 0x7E] → t = s) ∧
    (mctpType pkt = 0x7E → numAt pkt 5 1 * 256 + numAt pkt 6 1 ≠ 0x1D5A → t = s) ∧
    (mctpType pkt = 0 → mctpOwner pkt = true → numAt pkt 6 1 = 1 → numAt pkt 7 1 % 4 ≤ 1 → (M h t).eid = numAt pkt 8 1) ∧
    ((M h s).up = true → mctpType pkt ∈ [0, 1, 5, 6] → mctpOwner pkt = true →
      t.out = s.out ++ [.mctp h tr (mctpType pkt) (Config.mctpReply (mctpType pkt) pkt)]) ∧
    (mctpOwner pkt = false → t.out = s.out) ∧
    (∀ c, cfg = some c → (M h s).up = true → mctpType pkt = 6 → (tr = .i3c ∨ tr ∈ (M h s).sessions) →
      (M h t).newCfg = some c ∧ 6 ∈ (t.tw h).sys.store.due)) ∧
  (∀ h cfg s m x, (s.tw h).takeInbox 0x31 = some (m, x) → ∃ t, exec (.mgmtReq h cfg) s = .next t ∧
    (m.field 16 2 < 5 ∨ 260 < m.field 16 2 ∨ m.field 18 14 ≠ 0 → t = s.setTw h (x.fadd Fld.mgtStat_BAD_PKT 1)) ∧
    (5 ≤ m.field 16 2 → m.field 16 2 ≤ 260 → m.field 18 14 = 0 →
      t = mctpTake h .link (m.field 32 (m.field 16 2)) cfg (s.setTw h x))) ∧
  (∀ h s m x, (s.tw h).takeInbox 0x32 = some (m, x) → ∃ t, exec (.mgmtRsp h) s = .next t ∧
    (m.field 16 2 < 5 ∨ 260 < m.field 16 2 ∨ m.field 18 14 ≠ 0 → t = s.setTw h (x.fadd Fld.mgtStat_BAD_PKT 1)) ∧
    (5 ≤ m.field 16 2 → m.field 16 2 ≤ 260 → m.field 18 14 = 0 →
      t = mctpTake h .link (m.field 32 (m.field 16 2)) none (s.setTw h x))) ∧
  (∀ h tr (i : Option (Nat × Nat)) s, (∀ m, i = some m → bytesWf m.1 m.2 = true) → (M h s).up = true →
    (tr = .i3c ∨ tr ∈ (M h s).sessions) →
    let a := (s.tw h).fget Fld.mgtStat_ACTIVE_BANK
    ∃ t, exec (.pldmFirmwareUpdate h tr i) s = .next t ∧ img h (1 - a) t = i ∧ (a ≤ 1 → img h a t = img h a s) ∧
      (M h t).updating = i.isNone ∧ (t.tw h).fget Fld.mgtStat_ACTIVE_BANK = a ∧ (M h t).up = true ∧
      t.out = s.out ++ [.mctp h tr (if tr = .i3c then 1 else 6) (if i.isNone || (t.tw h).bankValid (1 - a) then 0 else 1)]) ∧
  (∀ h tr i s, tr ≠ .i3c → tr ∉ (M h s).sessions → (∀ m, i = some m → bytesWf m.1 m.2 = true) →
    exec (.pldmFirmwareUpdate h tr i) s = .next s ∧ exec (.pldmActivateFirmware h tr) s = .next s) ∧
  (∀ h tr s, (M h s).up = true → (tr = .i3c ∨ tr ∈ (M h s).sessions) → ∃ t, exec (.pldmActivateFirmware h tr) s = .next t ∧
    ((M h s).updating = true ∨ (s.tw h).fget Fld.mgtStat_TRIAL = 1 →
      t = { s with out := s.out ++ [.mctp h tr (if tr = .i3c then 1 else 6) 4] }) ∧
    ((M h s).updating = false → (s.tw h).fget Fld.mgtStat_TRIAL = 0 → (M h t).up = false ∧ (t.tw h).fget Fld.mgtStat_TRIAL = 1 ∧
      (t.tw h).fget Fld.mgtStat_ACTIVE_BANK = 1 - (s.tw h).fget Fld.mgtStat_ACTIVE_BANK ∧ 8 ∈ (t.tw h).sys.store.due ∧
      (M h.other t).quiet = (s.tw h.other).timeNs + 2000000000 ∧ (t.tw h).bricks = (s.tw h).bricks ∧ (t.tw h).mem = (s.tw h).mem)) ∧
  (∀ h s, (M h s).up = true → (s.tw h).fget Fld.mgtStat_TRIAL = 1 → ∃ t, exec (.trialEnd h) s = .next t ∧
    (t.tw h).fget Fld.mgtStat_TRIAL = 0 ∧ (s.tw h).sys.fuses.arb ≤ (t.tw h).sys.fuses.arb ∧
    (let a := (s.tw h).fget Fld.mgtStat_ACTIVE_BANK
     (t.tw h).sys.fuses.arb = max (s.tw h).sys.fuses.arb
       (if (s.tw h).bankValid (1 - a) then min ((s.tw h).svn a) ((s.tw h).svn (1 - a)) else (s.tw h).svn a)) ∧
    8 ∈ (t.tw h).sys.store.due) ∧
  (∀ h tr s, (M h s).up = true → (tr = .vdm → (s.tw h).hostFacing = true) →
    (∃ t, exec (.spdmRequest h tr .sessionOpen) s = .next t ∧ tr ∈ (M h t).sessions ∧ ∀ u ∈ (M h s).sessions, u ∈ (M h t).sessions) ∧
    (∃ t, exec (.spdmRequest h tr .sessionEnd) s = .next t ∧ tr ∉ (M h t).sessions ∧
      ∀ u ∈ (M h s).sessions, u ≠ tr → u ∈ (M h t).sessions) ∧
    (∀ i : BitVec 8, exec (.spdmRequest h tr (.measurement i)) s = .next { s with out := s.out ++
      [.mctp h tr (if tr ∈ (M h s).sessions then 6 else 5) ((s.tw h).measure i.toNat)] }) ∧
    (∀ q : SpdmReq, (tr ≠ .vdm ∨ s.host.up = false ∨ tr ∉ (M h s).sessions) → ((∃ k, q = .ideKeys k) ∨ ∃ on, q = .ideEnable on) →
      exec (.spdmRequest h tr q) s = .next s)) ∧
  (∀ h k s, (M h s).up = true → (s.tw h).hostFacing = true → s.host.up = true → .vdm ∈ (M h s).sessions →
    (∃ t, exec (.spdmRequest h .vdm (.ideKeys k)) s = .next t ∧ t.host = { s.host with ideKeys := some k } ∧ t.t0 = s.t0 ∧ t.t1 = s.t1) ∧
    ∀ on, ∃ t, exec (.spdmRequest h .vdm (.ideEnable on)) s = .next t ∧ t.t0 = s.t0 ∧ t.t1 = s.t1 ∧
      t.host = { s.host with ideOn := on && s.host.ideKeys.isSome }) ∧
  (∀ h who off (v : Word) s r i j, regAt off = some (r, i, j) → ∃ t, exec (.protectionSettingWrite h who off v) s = .next t ∧
    (who = .mgmt → r.isProtection = true → t = s.modTw h fun x => x.writeRw r i j v.toNat (2 ^ 64 - 1)) ∧
    (who ≠ .mgmt ∨ r.isProtection = false → t = s))

/-- R628 to R634, R638 to R643, R660 to R664: service and the store. Bricks are locked out and their lock-outs cleared, tests and calibrations
are requested, deferred and completed, the calendar is set and runs, keys are installed and removed, and a record is written into the
losing bank. -/
def Obligations.ServiceAndStoreResults : Prop :=
  let res := fun (h : TowerId) (state kind index : Nat) (t : State) => (t.tw h).fget Fld.fusTestRes_STATE = state ∧
    (t.tw h).fget Fld.fusTestRes_KIND = kind ∧ (t.tw h).fget Fld.fusTestRes_INDEX = index
  let lic := fun (h : TowerId) (t : State) => (t.tw h).fget Fld.licStat_RESULT
  let test := fun (h : TowerId) (k : Nat) (s : State) => (s.tw h).test k
  (∀ h who (k : BitVec 10) s, ∃ t, exec (.fusServiceLockOut h who k) s = .next t ∧ (who ≠ .mgmt → t = s) ∧
    (who = .mgmt → (s.tw h).serviceable k.toNat = false → (t.tw h).fget Fld.fusService_RESULT = 2 ∧ (t.tw h).lock = (s.tw h).lock) ∧
    (who = .mgmt → (s.tw h).serviceable k.toNat = true → (t.tw h).fget Fld.fusService_RESULT = 1 ∧
      (t.tw h).sliceLive k.toNat = false ∧ (sfind (s.tw h).lock k.toNat = none → sfind (t.tw h).lock k.toNat = some 8) ∧
      (testRuns (test h k.toNat s) = true → res h 3 1 k.toNat t ∧ test h k.toNat t = 0))) ∧
  (∀ h who (k : BitVec 10) s, ∃ t, exec (.fusServiceClear h who k) s = .next t ∧ (t.tw h).lock = (s.tw h).lock ∧ (who ≠ .mgmt → t = s) ∧
    (who = .mgmt → (576 ≤ k.toNat ∨ sfind (s.tw h).lock k.toNat = none) → (t.tw h).fget Fld.fusService_RESULT = 2) ∧
    (who = .mgmt → k.toNat < 576 → (sfind (s.tw h).lock k.toNat).isSome = true → (t.tw h).fget Fld.fusService_RESULT = 1 ∧
      k.toNat ∈ (t.tw h).sys.cleared ∧ (s.storeTakes h = false → 1 ∈ (t.tw h).sys.store.due) ∧
      (s.storeTakes h = true → max (bankSeq ((s.tw h).sys.store.banks 1).a) (bankSeq ((s.tw h).sys.store.banks 1).b) + 1 < 2 ^ 32 - 1 →
        (t.tw h).sys.store.read 1 = some ((t.tw h).latest 1)))) ∧
  (∀ h (k : BitVec 10) d s, ∃ t, exec (.fusTestBrick h k d) s = .next t ∧
    ((576 ≤ k.toNat ∨ (s.tw h).enabled.getLsbD k.toNat = false) → res h 6 1 k.toNat t) ∧
    (k.toNat < 576 → (s.tw h).enabled.getLsbD k.toNat = true → (s.tw h).ready = false → res h 5 1 k.toNat t) ∧
    (k.toNat < 576 → (s.tw h).enabled.getLsbD k.toNat = true → (s.tw h).ready = true → test h k.toNat s = 0 →
      ((s.tw h).testIdle k.toNat = true → res h 1 1 k.toNat t ∧ test h k.toNat t = (s.tw h).testStart k.toNat) ∧
      ((s.tw h).testIdle k.toNat = false → d = true → res h 4 1 k.toNat t ∧ test h k.toNat t = 2) ∧
      ((s.tw h).testIdle k.toNat = false → d = false → res h 5 1 k.toNat t ∧ test h k.toNat t = 0))) ∧
  (∀ h (k : BitVec 10) s, ∃ t, exec (.fusTestHbmCalibration h k) s = .next t ∧
    ((s.tw h).stackN ≤ k.toNat → res h 6 2 k.toNat t ∧ (t.tw h).sys = (s.tw h).sys) ∧
    (k.toNat < (s.tw h).stackN → res h 1 2 k.toNat t ∧ k.toNat ∈ (t.tw h).sys.cals)) ∧
  (∀ (b : BrickRef) s, test b.t b.s.val s = 2 → (s.tw b.t).testIdle b.s.val = true → ∃ t, exec (.deferredTestStart b) s = .next t ∧
    res b.t 1 1 b.s.val t ∧ test b.t b.s.val t = (s.tw b.t).testStart b.s.val) ∧
  (∀ (b : BrickRef) p (g : BitVec 8) s, (test b.t b.s.val s = 1 ∨ test b.t b.s.val s = 4) →
    ∃ t, exec (.brickTestComplete b p g) s = .next t ∧ res b.t (if p then 2 else 3) 1 b.s.val t ∧
      test b.t b.s.val t = (if test b.t b.s.val s = 4 then 2 else 0) ∧ (t.brick b).groups = [] ∧ (t.brick b).icache = [] ∧
      (p = false → (t.tw b.t).sliceLive b.s.val = false) ∧ (p = true → (t.tw b.t).lock = (s.tw b.t).lock) ∧
      sget 0 (t.tw b.t).sys.badGroups b.s.val = sget 0 (s.tw b.t).sys.badGroups b.s.val ||| g.toNat) ∧
  (∀ h (k : Fin 6) s, k.val ∈ (s.tw h).sys.cals → ∃ t, exec (.hbmCalibrationComplete h k) s = .next t ∧ res h 2 2 k.val t ∧
    k.val ∉ (t.tw h).sys.cals) ∧
  (∀ h who (v : Word) s, ∃ t, exec (.fusTimeWrite h who v) s = .next t ∧ (who = .mgmt → (t.tw h).reg .fusTime = v.toNat) ∧
    (who ≠ .mgmt → t = s)) ∧
  (∀ h s, (s.tw h).mgmtAlive = true → ∃ t, exec (.fusTimeTick h) s = .next t ∧ (t.tw h).reg .fusTime =
    if (s.tw h).reg .fusTime = 0 then 0 else ((s.tw h).reg .fusTime + 1) % 2 ^ 64) ∧
  (∀ h (a : BitVec 41) n s, (s.tw h).licTakes .mgmt = true → (s.target (a.toNat * 128)).home? ≠ some h →
    ∃ t, exec (.licInstall h .mgmt a n) s = .next t ∧ lic h t = 3 ∧ (t.tw h).sys = (s.tw h).sys) ∧
  (∀ h who (a : BitVec 41) n s, (s.tw h).licTakes who = false → ∃ t, exec (.licInstall h who a n) s = .next t ∧ lic h t = 6 ∧
    (t.tw h).sys = (s.tw h).sys) ∧
  (∀ h (a : BitVec 41) n s (l : Nat → Line), (s.tw h).licTakes .mgmt = true →
    (∀ i, i < 4 → (s.target ((a.toNat + i) * 128)).home? = some h ∧ HomeFree s h h (s.target ((a.toNat + i) * 128)) (a.toNat + i) ∧
      CleanLine (s.tw h).mem (a.toNat + i) (l i)) →
    let img := (l 0).toNat + (l 1).toNat * 2 ^ 1024 + (l 2).toNat * 2 ^ 2048 + (l 3).toNat * 2 ^ 3072
    let f := numAt img 2 2
    let c := keyCheck (s.tw h) img
    let newer := ∀ k, (s.tw h).sys.store.read (0x20 + f) = some (.key k) → numAt k 0x10 4 < numAt img 0x10 4
    let r := (s.tw h).putRecord (0x20 + f) (.key img) n false
    ∃ t, exec (.licInstall h .mgmt a n) s = .next t ∧ (t.tw h).mem = (s.tw h).mem ∧
      (c ≠ 0 → lic h t = c ∧ (t.tw h).sys = (s.tw h).sys) ∧ (c = 0 → ¬newer → lic h t = 3 ∧ (t.tw h).sys = (s.tw h).sys) ∧
      (c = 0 → newer → r.2 = true → lic h t = 1 ∧ (t.tw h).fget (licFld f) = 1 ∧ (t.tw h).sys = r.1.sys) ∧
      (c = 0 → newer → r.2 = false → lic h t = 7 ∧ (t.tw h).fget (licFld f) = (s.tw h).fget (licFld f))) ∧
  (∀ h (f : BitVec 2) n s, f ≠ 0 → (s.tw h).licTakes .mgmt = true → ∃ t, exec (.licRemove h .mgmt f n) s = .next t ∧
    let r := (s.tw h).putRecord (0x20 + f.toNat) .none n false
    (r.2 = true → lic h t = 2 ∧ (t.tw h).fget (licFld f.toNat) = 0) ∧ (r.2 = false → lic h t = 7)) ∧
  (∀ h typ n cut s, typ ∈ (s.tw h).sys.store.due → typ ∈ storeTypes → (s.tw h).sys.aux = true → s.pins.input = true →
    (s.tw h).sys.rails.testBit 2 = true → (s.tw h).sys.boot.restored = true →
    ((s.tw h).fget Fld.glbTower_STATE ≠ 0 ∨ 4 ≤ (s.tw h).sys.boot.step) → ∃ t, exec (.storeRecordWrite h typ n cut) s = .next t ∧
      (t.tw h).sys.store.banks typ = (((s.tw h).sys.store.banks typ).write (slotsOf typ) ((s.tw h).latest typ) n cut).1 ∧
      (∀ u, u ≠ typ → (t.tw h).sys.store.banks u = (s.tw h).sys.store.banks u) ∧ (cut = false → typ ∉ (t.tw h).sys.store.due) ∧
      (cut = false → n < 4 → max (bankSeq ((s.tw h).sys.store.banks typ).a) (bankSeq ((s.tw h).sys.store.banks typ).b) + 1 < 2 ^ 32 - 1 →
        (t.tw h).sys.store.read typ = some ((s.tw h).latest typ)) ∧
      (cut = false → 4 ≤ n → (t.tw h).fget Fld.mgtStat_STORE_ERR = 1)) ∧
  (∀ (b : Banks) slots pay n cut, (if b.aWins then (b.write slots pay n cut).1.a = b.a else (b.write slots pay n cut).1.b = b.b))

/-- R675, R684, R686 to R691: debugging. FREEZE holds every counter and CLEAR zeroes it; the trace writer starts in a window of its own
tower, takes packets, writes records and samples at its pointer, discards while full, exports chunks and stops; RESUME lets groups held at
`brkpt` go on; a peek reads without changing what it reads. The counters' tick is the model's (log entry 2). -/
def Obligations.DebugAndTraceResults : Prop :=
  let ctl := fun (h : TowerId) (s : State) => (s.tw h).reg .dbgTraceCtl
  let en := fun (h : TowerId) (s : State) => (s.tw h).fget Fld.dbgTraceCtl_EN
  let legal := fun (v : Nat) => bits v 62 61 ≠ 3 ∧ bits v 42 32 ≤ 16
  let keyed := fun (h : TowerId) (v : Nat) (s : State) => (s.tw h).fget Fld.licStat_DEEP_TRACE = 1 ∨
    bits v 31 16 = 0 ∧ v.testBit 55 = false
  let run := fun (h : TowerId) (s : State) => (s.tw h).gstopped = false ∧ en h s = 1 ∧ (s.tw h).sys.trace.out = [] ∧
    (s.tw h).sys.trace.goal = none
  let exports := fun (h : TowerId) (s : State) => run h s ∧ (s.tw h).fget Fld.dbgTraceCtl_EXPORT_EN = 1 ∧ (s.tw h).trState = 1
  let dst := fun (h : TowerId) (s : State) => (s.tw h).fget fldExportDst * 128
  let ring := fun (h : TowerId) (s : State) => 2 ^ (s.tw h).fget Fld.dbgTraceCtl_RING
  let at' := fun (h : TowerId) (s : State) => (s.tw h).trBase + (s.tw h).trPtr
  let packet := fun (b : BrickRef) (s : State) => (evTake (s.brick b).ev).map fun e => e.word.toNat
  (∀ h on s, ∃ t, exec (.dbgCtlFreeze h on) s = .next t ∧ (t.tw h).fget Fld.dbgCtl_FREEZE = (if on then 1 else 0) ∧
    (t.tw h).bricks = (s.tw h).bricks ∧ (t.tw h).eng = (s.tw h).eng ∧ (t.tw h).counted = (s.tw h).counted ∧
    (t.tw h).mem = (s.tw h).mem ∧ t.tw h.other = s.tw h.other) ∧
  (∀ h s, s.pending = [] → (s.tw h).fget Fld.dbgCtl_FREEZE = 1 → ∃ t, step s = .next t ∧
    (∀ k j n, (t.tw h).brickCounter k j n = (s.tw h).brickCounter k j n) ∧
    ∀ e n, (t.tw h).engCounter e n = (s.tw h).engCounter e n) ∧
  (∀ h s, ∃ t, exec (.dbgCtlClear h) s = .next t ∧ (∀ k j n, (t.tw h).brickCounter k j n = 0) ∧ (∀ e n, (t.tw h).engCounter e n = 0) ∧
    (t.tw h).regs = (s.tw h).regs ∧ (t.tw h).mem = (s.tw h).mem ∧ t.tw h.other = s.tw h.other) ∧
  (∀ h (v : Word) s, ¬legal v.toNat → exec (.dbgTraceEnable h v) s = .next s ∧ exec (.dbgTraceDisable h v) s = .next s ∧
    exec (.dbgTraceTrigger h v) s = .next s) ∧
  (∀ h (v : Word) s, legal v.toNat → ¬keyed h v.toNat s → ∃ t, exec (.dbgTraceEnable h v) s = .next t ∧
    exec (.dbgTraceDisable h v) s = .next t ∧ exec (.dbgTraceTrigger h v) s = .next t ∧
    (t.tw h).fget Fld.dbgTraceStat_NOKEY = 1 ∧ ctl h t = ctl h s ∧ (t.tw h).sys = (s.tw h).sys ∧ (t.tw h).mem = (s.tw h).mem) ∧
  (∀ h (v : Word) s, legal v.toNat → keyed h v.toNat s → en h s = 0 →
    s.inOwn h (s.tw h).trBase ((s.tw h).trChunks * 4096) = true →
    ∃ t, exec (.dbgTraceEnable h v) s = .next t ∧ en h t = 1 ∧ (t.tw h).trState = 1 ∧ (t.tw h).trPtr = 0 ∧
      (t.tw h).trMode = bits v.toNat 62 61 ∧ (t.tw h).fget Fld.dbgTraceCtl_PRE = bits v.toNat 60 57 ∧
      (t.tw h).fget Fld.dbgTraceCtl_RING = bits v.toNat 42 32 ∧ (t.tw h).fget Fld.dbgTraceCtl_SAMPLE_US = bits v.toNat 31 16 ∧
      (t.tw h).fget Fld.dbgTraceCtl_EXPORT_EN = (if bits v.toNat 62 61 = 0 then bits v.toNat 55 55 else 0) ∧
      (t.tw h).fget Fld.dbgTraceStat_WRAPPED = 0 ∧ (t.tw h).fget Fld.dbgTraceStat_TRIGGERED = bits v.toNat 56 56 ∧
      (t.tw h).mem = (s.tw h).mem) ∧
  (∀ h (v : Word) s, legal v.toNat → keyed h v.toNat s → en h s = 0 →
    s.inOwn h (s.tw h).trBase ((s.tw h).trChunks * 4096) = false →
    ∃ t, exec (.dbgTraceEnable h v) s = .next t ∧ en h t = 0 ∧ (t.tw h).trState = 4 ∧ (t.tw h).mem = (s.tw h).mem) ∧
  (∀ h (v : Word) s, legal v.toNat → keyed h v.toNat s → en h s = 1 → v.toNat.testBit 56 = false →
    exec (.dbgTraceEnable h v) s = .next s) ∧
  (∀ h (v : Word) s, legal v.toNat → keyed h v.toNat s → en h s = 1 → v.toNat.testBit 63 = true → (s.tw h).trState = 1 →
    ∃ t, exec (.dbgTraceTrigger h v) s = .next t ∧ (t.tw h).fget Fld.dbgTraceStat_TRIGGERED = 1 ∧ ctl h t = ctl h s ∧
      (t.tw h).mem = (s.tw h).mem ∧ (t.tw h).sys.trace.want =
        if (s.tw h).fget Fld.dbgTraceStat_TRIGGERED = 0 then some 1 else (s.tw h).sys.trace.want) ∧
  (∀ h (v : Word) s, legal v.toNat → keyed h v.toNat s → run h s → s.trSnooped h = false →
    ((s.tw h).trState ≠ 1 ∨ (s.tw h).trPtr % 4096 = 0) →
    ∃ t, exec (.dbgTraceDisable h v) s = .next t ∧ en h t = 0 ∧ (t.tw h).trState = 0 ∧ (t.tw h).mem = (s.tw h).mem) ∧
  (∀ h (v : Word) s, legal v.toNat → keyed h v.toNat s → run h s → (s.tw h).trState = 1 → (s.tw h).trPtr % 4096 ≠ 0 →
    let n := 4096 - (s.tw h).trPtr % 4096
    TrFits s h (at' h s) n → ∃ t pad, exec (.dbgTraceDisable h v) s = .next t ∧
      pad % 2 ^ 64 = (evHeader 0xFE false 0 0 0 (n / 8 - 1)).toNat ∧ EngWrote t (at' h s) n pad ∧ en h t = 0 ∧ (t.tw h).trState = 0) ∧
  (∀ b s, run b.t s → (s.tw b.t).trState = 1 → (s.tw b.t).trNext = some b.s.val → (s.tw b.t).trNoRoom = false →
    (s.tw b.t).sys.trace.want = none → ((s.tw b.t).trMatch (packet b s)).sys.trace.want = none →
    let n := 8 * (packet b s).length
    (s.tw b.t).trPtr % 4096 + n ≤ 4096 → TrFits s b.t (at' b.t s) n →
    ∃ t, exec (.tracePacketWrite b) s = .next t ∧ EngWrote t (at' b.t s) n (wordsNat (packet b s)) ∧
      ((t.brick b).ev.q = (s.brick b).ev.q.drop (packet b s).length) ∧ (t.tw b.t).sys.trace.rot = b.s.val ∧
      (((s.tw b.t).trPtr + n) % 4096 ≠ 0 → (t.tw b.t).trPtr = ((s.tw b.t).trPtr + n) % 2 ^ 64 ∧ (t.tw b.t).trState = 1) ∧
      (((s.tw b.t).trPtr + n) % 4096 = 0 → (t.tw b.t).sys.trace.filled = (s.tw b.t).sys.trace.filled + 1)) ∧
  (∀ b s, run b.t s → (s.tw b.t).trState = 1 → (s.tw b.t).trNext = some b.s.val → (s.tw b.t).trNoRoom = true →
    ∃ t, exec (.tracePacketWrite b) s = .next t ∧ (t.tw b.t).mem = (s.tw b.t).mem ∧ (t.tw b.t).trPtr = (s.tw b.t).trPtr ∧
      (t.tw b.t).fget Fld.dbgTraceStat_DISCARDED = min (2 ^ 32 - 1) ((s.tw b.t).fget Fld.dbgTraceStat_DISCARDED + 1)) ∧
  (∀ b s, (s.tw b.t).gstopped = false → en b.t s = 1 → (s.tw b.t).trState = 1 → (s.tw b.t).sys.trace.out ≠ [] →
    ∃ t, exec (.tracePacketWrite b) s = .next t ∧ ((t.tw b.t).sys.trace.out ≠ [] → (t.brick b).ev = (s.brick b).ev)) ∧
  (∀ b s, run b.t s → ((s.tw b.t).trState = 2 ∨ (s.tw b.t).trState = 3) → (s.tw b.t).trNext = some b.s.val →
    ∃ t, exec (.tracePacketWrite b) s = .next t ∧ (t.tw b.t).mem = (s.tw b.t).mem ∧ (t.tw b.t).trState = (s.tw b.t).trState ∧
      (t.brick b).ev.q = (s.brick b).ev.q.drop (packet b s).length ∧
      (t.tw b.t).fget Fld.dbgTraceStat_DISCARDED = min (2 ^ 32 - 1) ((s.tw b.t).fget Fld.dbgTraceStat_DISCARDED + 1)) ∧
  (∀ h s, run h s → (s.tw h).trState = 1 → (s.tw h).fget Fld.dbgTraceCtl_SAMPLE_US ≠ 0 → ∃ t, exec (.traceSampleInterval h) s = .next t ∧
    ((s.tw h).trNoRoom = true → (t.tw h).mem = (s.tw h).mem ∧ (t.tw h).fget Fld.dbgTraceStat_DISCARDED =
      min (2 ^ 32 - 1) ((s.tw h).fget Fld.dbgTraceStat_DISCARDED + (s.tw h).samples.length)) ∧
    ((s.tw h).trNoRoom = false → (s.tw h).sys.trace.want = none → ∀ ws, (s.tw h).samples = [ws] →
      (s.tw h).trPtr % 4096 + 8 * ws.length ≤ 4096 → TrFits s h (at' h s) (8 * ws.length) →
      EngWrote t (at' h s) (8 * ws.length) (wordsNat ws))) ∧
  (∀ h s, run h s → ((s.tw h).trState ≠ 1 ∨ (s.tw h).fget Fld.dbgTraceCtl_SAMPLE_US = 0) → exec (.traceSampleInterval h) s = .next s) ∧
  (∀ h (s : State) (k : Fin 576), ((s.tw h).fget Fld.dbgTraceCtl_SAMPLE_MASK).testBit 0 = true → (s.tw h).enabled.getLsbD k.val = true →
    ∃ ws ∈ (s.tw h).samples, ws.length = 25 ∧ ws.head? = some (evHeader 0xF8 false ((s.tw h).id.nat * 576 + k.val) 0 0 24).toNat ∧
      ∀ j n, j < 8 → n < 3 → ws[1 + 3 * j + n]? = some ((s.tw h).brickCounter k.val j n)) ∧
  (∀ h (s : State) (e : Fin 24), ((s.tw h).fget Fld.dbgTraceCtl_SAMPLE_MASK).testBit 1 = true →
    [(evHeader 0xF9 false e.val 0 0 3).toNat, (s.tw h).engCounter e.val 0, (s.tw h).engCounter e.val 1, (s.tw h).engCounter e.val 2] ∈
      (s.tw h).samples) ∧
  (∀ h s, exports h s → (s.tw h).exportNak = true → ∃ t, exec (.traceChunkExport h) s = .next t ∧ (t.tw h).trState = 4 ∧
    (t.tw h).mem = (s.tw h).mem) ∧
  (∀ h s, exports h s → (s.tw h).exportNak = false → s.exportOpen h = true → exec (.traceChunkExport h) s = .next s) ∧
  (∀ h s, exports h s → (s.tw h).exportNak = false → s.exportOpen h = false → (s.tw h).sys.trace.sending = true →
    let put := exportPut h (dst h s + ring h s * 4096) 8 (((s.tw h).sys.trace.exported + 1) % 2 ^ 64) s
    ∃ t, exec (.traceChunkExport h) s = .next t ∧ (put = none → (t.tw h).trState = 4) ∧
      ∀ u, put = some u → t.out = u.out ∧ (t.tw h).sys.trace.sending = false ∧
        (t.tw h).sys.trace.exported = (u.tw h).sys.trace.exported + 1) ∧
  (∀ h s v, exports h s → (s.tw h).exportNak = false → s.exportOpen h = false → (s.tw h).sys.trace.sending = false →
    (s.tw h).sys.trace.exported < (s.tw h).sys.trace.filled →
    EngHas s h ((s.tw h).trBase + (s.tw h).sys.trace.exported % (s.tw h).trChunks * 4096) 4096 v →
    let put := exportPut h (dst h s + (s.tw h).sys.trace.exported % ring h s * 4096) 4096 v s
    ∃ t, exec (.traceChunkExport h) s = .next t ∧ (put = none → (t.tw h).trState = 4) ∧
      ∀ w, put = some w → t.out = w.out ∧ t.host.gos = w.host.gos ∧ (t.tw h).rtr.rem = (w.tw h).rtr.rem ∧
        (t.tw h).sys.trace.sending = true) ∧
  (∀ h s, ∃ t, exec (.dbgBrkResume h) s = .next t ∧ (t.tw h).heldGroups = 0 ∧ (t.tw h).sys.stopSeen = false ∧
    (t.tw h).regs = (s.tw h).regs ∧ (t.tw h).mem = (s.tw h).mem ∧ t.tw h.other = s.tw h.other ∧
    ∀ k i, ((t.tw h).brick k).group? i = (((s.tw h).brick k).group? i).map fun g => { g with held := false }) ∧
  (∀ h (v : Word) s, (s.tw h).sys.peek = none → ∃ t, exec (.dbgPeek h v) s = .next t ∧
    (t.tw h).sys.peek = some (v.toNat % 2 ^ 60) ∧ (t.tw h).fget Fld.dbgPeekCtl_RESULT = 0 ∧ (t.tw h).bricks = (s.tw h).bricks) ∧
  (∀ h (v : Word) s, (s.tw h).sys.peek ≠ none → ∃ t, exec (.dbgPeek h v) s = .next t ∧ (t.tw h).sys = (s.tw h).sys ∧
    (t.tw h).bricks = (s.tw h).bricks) ∧
  (∀ h v s, (s.tw h).sys.peek = some v → ∃ t, exec (.dbgPeekComplete h) s = .next t ∧ (t.tw h).sys.peek = none ∧
    (t.tw h).bricks = (s.tw h).bricks ∧ (t.tw h).mem = (s.tw h).mem ∧
    let r := if v.testBit 59 then peekGroup (s.tw h) v else peekItem (s.tw h) v
    (∀ d, r = .ok d → (t.tw h).fget Fld.dbgPeekCtl_RESULT = 1 ∧ (t.tw h).reg .dbgPeekData = d) ∧
    ∀ e, r = .error e → (t.tw h).fget Fld.dbgPeekCtl_RESULT = e) ∧
  (∀ (x : Tower) v, v.testBit 59 = true →
    (bits v 9 0 = 255 ∨ 321 < bits v 9 0 → peekGroup x v = .error 3) ∧
    (bits v 58 49 < 576 → bits v 9 0 ≠ 255 → bits v 9 0 ≤ 321 → ∀ g, (x.brick (bits v 58 49)).group? (bits v 48 43) = some g →
      (g.held = false → x.gstopped = false → peekGroup x v = .error 2) ∧
      (g.held = true ∨ x.gstopped = true → (bits v 9 0 < g.alloc → bits v 9 0 ≤ 254 →
          peekGroup x v = .ok (rdG (g.thread (bits v 42 38)) (bits v 9 0)).toNat) ∧
        (bits v 9 0 = 256 → peekGroup x v = .ok (g.thread (bits v 42 38)).pc.toNat) ∧
        (bits v 9 0 = 257 → peekGroup x v = .ok (g.thread (bits v 42 38)).p.toNat) ∧
        (258 ≤ bits v 9 0 → peekGroup x v = .ok (sget 0 g.u (bits v 9 0 - 258)).toNat))))

/-- With no command waiting, a step is one cycle of the clock (the model's choice, log entry 2): device time, the cycle counts and the counters
advance, the pending messages that can leave are sent, and nothing else changes. -/
def Obligations.IdleStepIsOneCycle : Prop :=
  let x := fun (h : TowerId) (s : State) => s.tw h
  let sent := fun (h : TowerId) (s : State) => ((x h s).irq.filter fun n => (x h s).canSend s.host.up n).map (msgOut h)
  ∀ s, s.pending = [] → ∃ t, step s = .next t ∧ t.pending = [] ∧ t.host = s.host ∧ t.pins = s.pins ∧
    t.out = s.out ++ sent .t0 s ++ sent .t1 s ∧
    ∀ h, (x h t).irq = ((x h s).irq.filter fun n => !(x h s).canSend s.host.up n) ∧
      (x h t).regs = (x h s).regs ∧ (x h t).mem = (x h s).mem ∧ (x h t).ports = (x h s).ports ∧ (x h t).routes = (x h s).routes ∧
      (x h t).nbu = (x h s).nbu ∧ (x h t).cp = (x h s).cp ∧ (x h t).dm = (x h s).dm ∧ (x h t).lmap = (x h s).lmap ∧
      (x h t).lock = (x h s).lock ∧ (x h t).rtr = { (x h s).rtr with rateAcc := (x h t).rtr.rateAcc } ∧
      (x h t).sys = { (x h s).sys with osc := (x h t).sys.osc } ∧
      (∀ k, (x h t).brick k = { (x h s).brick k with cyc := ((x h t).brick k).cyc, recs := ((x h t).brick k).recs }) ∧
      ((x h s).mgmtAlive = false → (x h t).time17 = (x h s).time17 ∧ (x h t).cyc = (x h s).cyc ∧ (x h t).bricks = (x h s).bricks) ∧
      ((x h s).mgmtAlive = true → (x h s).gstopped = true → (x h t).cyc = (x h s).cyc ∧ (x h t).bricks = (x h s).bricks) ∧
      ((x h s).mgmtAlive = true → (x h s).gstopped = false → (x h t).cyc = (x h s).cyc + 1) ∧
      ((x h s).mgmtAlive = true → (x h s).sys.osc = none → (x h t).sys.osc = none ∧
        (x h t).time17 = (x h s).time17 + (20 + ((x h s).rtr.rateAcc + 20 * (x h s).rtr.rate) / 1000000000).toNat) ∧
      (∀ k, (x h s).mgmtAlive = true → (x h s).sys.osc = some k → k < 33 → (x h t).sys.osc = some (k + 1) ∧
        (x h t).time17 = (x h s).time17) ∧
      (∀ k, (x h s).mgmtAlive = true → (x h s).sys.osc = some k → 33 ≤ k → (x h t).sys.osc = some 0 ∧
        (x h t).time17 = (x h s).time17 + (680 + ((x h s).rtr.rateAcc + 680 * (x h s).rtr.rate) / 1000000000).toNat)

/-- R13, R365, R402, R436, R471, R521, R553, R557, R607, R665, R689: what reset leaves, by the Reset columns, in the fields named
here; no brick is live, no byte is listed, nothing runs, the host's link is down and no command waits. That step 1 of bring-up is in progress
is where the model begins (log entry 1). -/
def Obligations.ResetLeaves : Prop :=
  State.reset.pending = [] ∧ State.reset.out = [] ∧ State.reset.host.up = false ∧
  (∀ h, let x := State.reset.tw h
    x.fget Fld.glbTower_STATE = 0 ∧ x.serving = false ∧ x.mem.cells = [] ∧ x.mem.dir = [] ∧ x.bricks = [] ∧ x.lmap = [] ∧ x.ports = [] ∧
    x.time17 = 0 ∧ x.irq = [] ∧ x.sys.boot.step = 1 ∧
    x.fget Fld.rstCfg_QUIESCE_MS = 10 ∧ x.fget Fld.rstCfg_CD_SELFTEST = 1 ∧ x.fget Fld.pwrCap_CAP_W = 1350 ∧
    x.fget Fld.pwrCap_EN = 1 ∧ x.fget Fld.pwrSenseSel_SEL = 255 ∧ x.fget Fld.eccScrubCtl_RATE = 64 ∧
    x.fget Fld.cpCfg_DEF_TIMEOUT_MS = 10000 ∧ x.fget Fld.cpCfg_MAX_REISSUE = 3 ∧ x.fget Fld.cpHostCfg_BI_TIMEOUT_US = 100 ∧
    x.fget Fld.hbmReg_HWM = 96 ∧ x.fget Fld.hbmReg_LWM = 48 ∧ x.fget Fld.hbmReg_STEP = 16 ∧ x.fget Fld.hbmReg_HORIZON = 250 ∧
    x.fget Fld.hbmReg_THR_EN = 1 ∧ x.fget Fld.rtrCfg_DX = 1 ∧ x.fget Fld.rtrCfg_DY = 1 ∧ x.fget Fld.rtrCfg_DZ = 1 ∧
    x.fget Fld.rtrCfg_E2E_US = 100 ∧ x.fget Fld.rtrCfg_TOPO_S = 600 ∧ x.fget Fld.rtrTimeCfg_PARENT = 8 ∧
    x.fget Fld.rtrTimeCfg_INTERVAL = 1000 ∧ x.fget Fld.dbgMarkSel_SELECTORS = 0xFFFFFFFF ∧ x.fget Fld.dbgTraceSize_C = 4 ∧
    x.fget Fld.mgtStat_HOST_FACING = 1 - h.nat ∧
    (∀ r, r < 72 → x.fget Fld.pwrRegion_OC_CODE r = 36 ∧ x.fget Fld.pwrRegion_IDLE_US r = 100) ∧
    (∀ r, r < 80 → x.fget Fld.pwrVmin_MIN r = 511) ∧
    (∀ r, r < 8 → x.fget Fld.eccCeBucket_THRESH r = 64 ∧ x.fget Fld.eccCeBucket_LEAK_MS r = 1000) ∧
    (∀ r, r < 8 → x.fget Fld.lnkCtl_ENABLE r = 1 ∧ x.fget Fld.lnkCfg_RETRY_TIMEOUT r = 250 ∧ x.fget Fld.lnkCfg_RETRY_LIMIT r = 8 ∧
      x.fget Fld.lnkCfg_SILENCE_US r = 100 ∧ x.fget Fld.lnkCfg_RECAL_THRESH r = 4096) ∧
    (∀ m, m < 32 → x.fget Fld.hbmMaster_RT m = (if m = 27 ∨ m = 28 ∨ m = 31 then 1 else 0) ∧
      x.fget Fld.hbmMaster_DL_DEFAULT m = if m = 27 then 1000 else if m = 28 then 125 else if m = 31 then 250 else 0))

/-- R18, R481, R484: from every state whose host port is as those rules allow it, a step leaves it so: the link is up only while `PERST_n` is
high and the host-port rails are good, and a committed decoder covers a multiple of 256 MiB within its limit. -/
def Obligations.HostPortSoundKept : Prop := ∀ s t : State, s.host.sound = true → step s = .next t → t.host.sound = true

/-- At reset the host port is sound and the stored bytes of both towers are in canonical form. -/
def Obligations.SafeAtReset : Prop := State.reset.safe = true

/-- Every step keeps the stored bytes of both towers in canonical form: addresses strictly rising, and no entry of a byte that an unlisted
address reads as. -/
def Obligations.MemoryFormKept : Prop := ∀ s t : State, s.memoryWf = true → step s = .next t → t.memoryWf = true

/-- Every row of the table has its effect: a command that is one runs to a next state in every state, and a term that spells no command
(`Instr.wf`) stops by name. -/
def Obligations.EveryCommandCompletes : Prop :=
  ∀ (c : Instr) (s : State), (c.wf = true → ∃ t, exec c s = .next t) ∧ (c.wf = false → exec c s = .fault .illFormed)
end

