-- ==== Sys2Proof/Laws/SMap.lean ====
section
/-! SUPPORT. The laws of sparse maps: a lookup after an update of the same key gives the value set, and of another key what
it gave before. They hold of every list. -/

namespace Sys2Proof.Machine

variable {α : Type}

@[simp] theorem sfind_nil (k : Nat) : sfind ([] : SMap α) k = none := rfl

@[simp] theorem sfind_sset_same (m : SMap α) (k : Nat) (v : α) : sfind (sset m k v) k = some v := by
  induction m with
  | nil => simp [sset, sfind]
  | cons p r ih =>
    obtain ⟨a, w⟩ := p
    by_cases h : a = k
    · simp [sset, sfind, h]
    · by_cases h2 : k < a <;> simp [sset, sfind, h, h2, ih]

theorem sfind_sset_other (m : SMap α) {k j : Nat} (v : α) (h : k ≠ j) : sfind (sset m k v) j = sfind m j := by
  induction m with
  | nil => simp [sset, sfind, h]
  | cons p r ih =>
    obtain ⟨a, w⟩ := p
    by_cases h1 : a = k
    · subst h1; simp [sset, sfind, h]
    · by_cases h2 : k < a
      · simp [sset, sfind, h1, h2, h]
      · simp [sset, sfind, h1, h2, ih]

theorem sfind_sset (m : SMap α) (k j : Nat) (v : α) : sfind (sset m k v) j = if k = j then some v else sfind m j := by
  by_cases h : k = j
  · subst h; simp
  · simp [h, sfind_sset_other]

@[simp] theorem sget_sset_same (d : α) (m : SMap α) (k : Nat) (v : α) : sget d (sset m k v) k = v := by simp [sget]

theorem sget_sset_other (d : α) (m : SMap α) {k j : Nat} (v : α) (h : k ≠ j) : sget d (sset m k v) j = sget d m j := by
  simp [sget, sfind_sset_other, h]

theorem sget_sset (d : α) (m : SMap α) (k j : Nat) (v : α) : sget d (sset m k v) j = if k = j then v else sget d m j := by
  by_cases h : k = j
  · subst h; simp
  · simp [h, sget_sset_other]

@[simp] theorem sfind_sdel_same (m : SMap α) (k : Nat) : sfind (sdel m k) k = none := by
  induction m with
  | nil => rfl
  | cons p r ih =>
    obtain ⟨a, w⟩ := p
    by_cases h : a = k <;> simp [sdel, sfind, h, ih]

theorem sfind_sdel_other (m : SMap α) {k j : Nat} (h : k ≠ j) : sfind (sdel m k) j = sfind m j := by
  induction m with
  | nil => rfl
  | cons p r ih =>
    obtain ⟨a, w⟩ := p
    by_cases h1 : a = k
    · subst h1; simp [sdel, sfind, h, ih]
    · simp [sdel, sfind, h1, ih]

@[simp] theorem sget_smod_same (d : α) (m : SMap α) (k : Nat) (f : α → α) : sget d (smod d m k f) k = f (sget d m k) := by
  simp [smod]

theorem sget_smod_other (d : α) (m : SMap α) {k j : Nat} (f : α → α) (h : k ≠ j) : sget d (smod d m k f) j = sget d m j := by
  simp [smod, sget_sset_other, h]

end Sys2Proof.Machine
end

