-- ==== Sys2Proof/Laws/State.lean ====
section
/-! SUPPORT. What each update of the state leaves as it was: one lemma per field and update, true by computation. -/

namespace Sys2Proof.Machine

open Sys2Proof

@[simp] theorem tw_setTw_same (s : State) (t : TowerId) (x : Tower) : (s.setTw t x).tw t = x := by cases t <;> rfl
@[simp] theorem tw_setTw_other (s : State) (t : TowerId) (x : Tower) : (s.setTw t x).tw t.other = s.tw t.other := by cases t <;> rfl
@[simp] theorem tw_setTw_other' (s : State) (t : TowerId) (x : Tower) : (s.setTw t.other x).tw t = s.tw t := by cases t <;> rfl
theorem tw_setTw_ne (s : State) {t u : TowerId} (x : Tower) (h : t ≠ u) : (s.setTw t x).tw u = s.tw u := by
  cases t <;> cases u <;> first | rfl | exact absurd rfl h
@[simp] theorem setTw_setTw (s : State) (t : TowerId) (x y : Tower) : (s.setTw t x).setTw t y = s.setTw t y := by cases t <;> rfl
@[simp] theorem setTw_tw (s : State) (t : TowerId) : s.setTw t (s.tw t) = s := by cases t <;> rfl
@[simp] theorem setTw_t0 (s : State) (x : Tower) : (s.setTw .t0 x).t0 = x := rfl
@[simp] theorem setTw_t1 (s : State) (x : Tower) : (s.setTw .t1 x).t1 = x := rfl
@[simp] theorem setTw_t0_t1 (s : State) (x : Tower) : (s.setTw .t0 x).t1 = s.t1 := rfl
@[simp] theorem setTw_t1_t0 (s : State) (x : Tower) : (s.setTw .t1 x).t0 = s.t0 := rfl
@[simp] theorem setTw_host (s : State) (t : TowerId) (x : Tower) : (s.setTw t x).host = s.host := by cases t <;> rfl
@[simp] theorem modTw_host (s : State) (t : TowerId) (f : Tower → Tower) : (s.modTw t f).host = s.host := by cases t <;> rfl
@[simp] theorem setTw_pins (s : State) (t : TowerId) (x : Tower) : (s.setTw t x).pins = s.pins := by cases t <;> rfl
@[simp] theorem modTw_pins (s : State) (t : TowerId) (f : Tower → Tower) : (s.modTw t f).pins = s.pins := by cases t <;> rfl
@[simp] theorem setTw_out (s : State) (t : TowerId) (x : Tower) : (s.setTw t x).out = s.out := by cases t <;> rfl
@[simp] theorem modTw_out (s : State) (t : TowerId) (f : Tower → Tower) : (s.modTw t f).out = s.out := by cases t <;> rfl
@[simp] theorem setTw_pending (s : State) (t : TowerId) (x : Tower) : (s.setTw t x).pending = s.pending := by cases t <;> rfl
@[simp] theorem modTw_pending (s : State) (t : TowerId) (f : Tower → Tower) : (s.modTw t f).pending = s.pending := by cases t <;> rfl
@[simp] theorem tw_modTw_same (s : State) (t : TowerId) (f : Tower → Tower) : (s.modTw t f).tw t = f (s.tw t) := by cases t <;> rfl
@[simp] theorem tw_modTw_other (s : State) (t : TowerId) (f : Tower → Tower) : (s.modTw t f).tw t.other = s.tw t.other := by cases t <;> rfl
@[simp] theorem tw_modTw_other' (s : State) (t : TowerId) (f : Tower → Tower) : (s.modTw t.other f).tw t = s.tw t := by cases t <;> rfl
@[simp] theorem modHost_t0 (s : State) (h : HostPort → HostPort) : (s.modHost h).t0 = s.t0 := rfl
@[simp] theorem send_t0 (s : State) (o : Out) : (s.send o).t0 = s.t0 := rfl
@[simp] theorem modHost_t1 (s : State) (h : HostPort → HostPort) : (s.modHost h).t1 = s.t1 := rfl
@[simp] theorem send_t1 (s : State) (o : Out) : (s.send o).t1 = s.t1 := rfl
@[simp] theorem send_host (s : State) (o : Out) : (s.send o).host = s.host := rfl
@[simp] theorem modHost_pins (s : State) (h : HostPort → HostPort) : (s.modHost h).pins = s.pins := rfl
@[simp] theorem send_pins (s : State) (o : Out) : (s.send o).pins = s.pins := rfl
@[simp] theorem modHost_out (s : State) (h : HostPort → HostPort) : (s.modHost h).out = s.out := rfl
@[simp] theorem modHost_pending (s : State) (h : HostPort → HostPort) : (s.modHost h).pending = s.pending := rfl
@[simp] theorem send_pending (s : State) (o : Out) : (s.send o).pending = s.pending := rfl
@[simp] theorem modHost_host (s : State) (h : HostPort → HostPort) : (s.modHost h).host = h s.host := rfl
@[simp] theorem send_out (s : State) (o : Out) : (s.send o).out = s.out ++ [o] := rfl
@[simp] theorem tw_send (s : State) (o : Out) (t : TowerId) : (s.send o).tw t = s.tw t := by cases t <;> rfl
@[simp] theorem tw_modHost (s : State) (h : HostPort → HostPort) (t : TowerId) : (s.modHost h).tw t = s.tw t := by cases t <;> rfl
@[simp] theorem Tower.setReg_id (x : Tower) (r : Reg) (i j v : Nat) : (x.setReg r i j v).id = x.id := rfl
@[simp] theorem Tower.setReg_bricks (x : Tower) (r : Reg) (i j v : Nat) : (x.setReg r i j v).bricks = x.bricks := rfl
@[simp] theorem Tower.setReg_mem (x : Tower) (r : Reg) (i j v : Nat) : (x.setReg r i j v).mem = x.mem := rfl
@[simp] theorem Tower.setReg_ports (x : Tower) (r : Reg) (i j v : Nat) : (x.setReg r i j v).ports = x.ports := rfl
@[simp] theorem Tower.setReg_rtr (x : Tower) (r : Reg) (i j v : Nat) : (x.setReg r i j v).rtr = x.rtr := rfl
@[simp] theorem Tower.setReg_routes (x : Tower) (r : Reg) (i j v : Nat) : (x.setReg r i j v).routes = x.routes := rfl
@[simp] theorem Tower.setReg_nbu (x : Tower) (r : Reg) (i j v : Nat) : (x.setReg r i j v).nbu = x.nbu := rfl
@[simp] theorem Tower.setReg_cp (x : Tower) (r : Reg) (i j v : Nat) : (x.setReg r i j v).cp = x.cp := rfl
@[simp] theorem Tower.setReg_dm (x : Tower) (r : Reg) (i j v : Nat) : (x.setReg r i j v).dm = x.dm := rfl
@[simp] theorem Tower.setReg_lmap (x : Tower) (r : Reg) (i j v : Nat) : (x.setReg r i j v).lmap = x.lmap := rfl
@[simp] theorem Tower.setReg_irq (x : Tower) (r : Reg) (i j v : Nat) : (x.setReg r i j v).irq = x.irq := rfl
@[simp] theorem Tower.setReg_enabled (x : Tower) (r : Reg) (i j v : Nat) : (x.setReg r i j v).enabled = x.enabled := rfl
@[simp] theorem Tower.setReg_lock (x : Tower) (r : Reg) (i j v : Nat) : (x.setReg r i j v).lock = x.lock := rfl
@[simp] theorem Tower.setReg_time17 (x : Tower) (r : Reg) (i j v : Nat) : (x.setReg r i j v).time17 = x.time17 := rfl
@[simp] theorem Tower.setReg_cyc (x : Tower) (r : Reg) (i j v : Nat) : (x.setReg r i j v).cyc = x.cyc := rfl
@[simp] theorem Tower.setReg_counted (x : Tower) (r : Reg) (i j v : Nat) : (x.setReg r i j v).counted = x.counted := rfl
@[simp] theorem Tower.setReg_cdBase (x : Tower) (r : Reg) (i j v : Nat) : (x.setReg r i j v).cdBase = x.cdBase := rfl
@[simp] theorem Tower.setReg_eng (x : Tower) (r : Reg) (i j v : Nat) : (x.setReg r i j v).eng = x.eng := rfl
@[simp] theorem Tower.setReg_faultIn (x : Tower) (r : Reg) (i j v : Nat) : (x.setReg r i j v).faultIn = x.faultIn := rfl
@[simp] theorem Tower.setReg_cdrReq (x : Tower) (r : Reg) (i j v : Nat) : (x.setReg r i j v).cdrReq = x.cdrReq := rfl
@[simp] theorem Tower.setReg_warmReq (x : Tower) (r : Reg) (i j v : Nat) : (x.setReg r i j v).warmReq = x.warmReq := rfl
@[simp] theorem Tower.setReg_brickReq (x : Tower) (r : Reg) (i j v : Nat) : (x.setReg r i j v).brickReq = x.brickReq := rfl
@[simp] theorem Tower.setReg_fwd (x : Tower) (r : Reg) (i j v : Nat) : (x.setReg r i j v).fwd = x.fwd := rfl
@[simp] theorem Tower.setReg_fwdCounted (x : Tower) (r : Reg) (i j v : Nat) : (x.setReg r i j v).fwdCounted = x.fwdCounted := rfl
@[simp] theorem Tower.setReg_setNow (x : Tower) (r : Reg) (i j v : Nat) : (x.setReg r i j v).setNow = x.setNow := rfl
@[simp] theorem Tower.setReg_sys (x : Tower) (r : Reg) (i j v : Nat) : (x.setReg r i j v).sys = x.sys := rfl
@[simp] theorem Tower.fset_id (x : Tower) (f : Fld) (v i j : Nat) : (x.fset f v i j).id = x.id := rfl
@[simp] theorem Tower.fset_bricks (x : Tower) (f : Fld) (v i j : Nat) : (x.fset f v i j).bricks = x.bricks := rfl
@[simp] theorem Tower.fset_mem (x : Tower) (f : Fld) (v i j : Nat) : (x.fset f v i j).mem = x.mem := rfl
@[simp] theorem Tower.fset_ports (x : Tower) (f : Fld) (v i j : Nat) : (x.fset f v i j).ports = x.ports := rfl
@[simp] theorem Tower.fset_rtr (x : Tower) (f : Fld) (v i j : Nat) : (x.fset f v i j).rtr = x.rtr := rfl
@[simp] theorem Tower.fset_routes (x : Tower) (f : Fld) (v i j : Nat) : (x.fset f v i j).routes = x.routes := rfl
@[simp] theorem Tower.fset_nbu (x : Tower) (f : Fld) (v i j : Nat) : (x.fset f v i j).nbu = x.nbu := rfl
@[simp] theorem Tower.fset_cp (x : Tower) (f : Fld) (v i j : Nat) : (x.fset f v i j).cp = x.cp := rfl
@[simp] theorem Tower.fset_dm (x : Tower) (f : Fld) (v i j : Nat) : (x.fset f v i j).dm = x.dm := rfl
@[simp] theorem Tower.fset_lmap (x : Tower) (f : Fld) (v i j : Nat) : (x.fset f v i j).lmap = x.lmap := rfl
@[simp] theorem Tower.fset_irq (x : Tower) (f : Fld) (v i j : Nat) : (x.fset f v i j).irq = x.irq := rfl
@[simp] theorem Tower.fset_enabled (x : Tower) (f : Fld) (v i j : Nat) : (x.fset f v i j).enabled = x.enabled := rfl
@[simp] theorem Tower.fset_lock (x : Tower) (f : Fld) (v i j : Nat) : (x.fset f v i j).lock = x.lock := rfl
@[simp] theorem Tower.fset_time17 (x : Tower) (f : Fld) (v i j : Nat) : (x.fset f v i j).time17 = x.time17 := rfl
@[simp] theorem Tower.fset_cyc (x : Tower) (f : Fld) (v i j : Nat) : (x.fset f v i j).cyc = x.cyc := rfl
@[simp] theorem Tower.fset_counted (x : Tower) (f : Fld) (v i j : Nat) : (x.fset f v i j).counted = x.counted := rfl
@[simp] theorem Tower.fset_cdBase (x : Tower) (f : Fld) (v i j : Nat) : (x.fset f v i j).cdBase = x.cdBase := rfl
@[simp] theorem Tower.fset_eng (x : Tower) (f : Fld) (v i j : Nat) : (x.fset f v i j).eng = x.eng := rfl
@[simp] theorem Tower.fset_faultIn (x : Tower) (f : Fld) (v i j : Nat) : (x.fset f v i j).faultIn = x.faultIn := rfl
@[simp] theorem Tower.fset_cdrReq (x : Tower) (f : Fld) (v i j : Nat) : (x.fset f v i j).cdrReq = x.cdrReq := rfl
@[simp] theorem Tower.fset_warmReq (x : Tower) (f : Fld) (v i j : Nat) : (x.fset f v i j).warmReq = x.warmReq := rfl
@[simp] theorem Tower.fset_brickReq (x : Tower) (f : Fld) (v i j : Nat) : (x.fset f v i j).brickReq = x.brickReq := rfl
@[simp] theorem Tower.fset_fwd (x : Tower) (f : Fld) (v i j : Nat) : (x.fset f v i j).fwd = x.fwd := rfl
@[simp] theorem Tower.fset_fwdCounted (x : Tower) (f : Fld) (v i j : Nat) : (x.fset f v i j).fwdCounted = x.fwdCounted := rfl
@[simp] theorem Tower.fset_setNow (x : Tower) (f : Fld) (v i j : Nat) : (x.fset f v i j).setNow = x.setNow := rfl
@[simp] theorem Tower.fset_sys (x : Tower) (f : Fld) (v i j : Nat) : (x.fset f v i j).sys = x.sys := rfl
@[simp] theorem Tower.fadd_id (x : Tower) (f : Fld) (k i j : Nat) : (x.fadd f k i j).id = x.id := rfl
@[simp] theorem Tower.fadd_bricks (x : Tower) (f : Fld) (k i j : Nat) : (x.fadd f k i j).bricks = x.bricks := rfl
@[simp] theorem Tower.fadd_mem (x : Tower) (f : Fld) (k i j : Nat) : (x.fadd f k i j).mem = x.mem := rfl
@[simp] theorem Tower.fadd_ports (x : Tower) (f : Fld) (k i j : Nat) : (x.fadd f k i j).ports = x.ports := rfl
@[simp] theorem Tower.fadd_rtr (x : Tower) (f : Fld) (k i j : Nat) : (x.fadd f k i j).rtr = x.rtr := rfl
@[simp] theorem Tower.fadd_routes (x : Tower) (f : Fld) (k i j : Nat) : (x.fadd f k i j).routes = x.routes := rfl
@[simp] theorem Tower.fadd_nbu (x : Tower) (f : Fld) (k i j : Nat) : (x.fadd f k i j).nbu = x.nbu := rfl
@[simp] theorem Tower.fadd_cp (x : Tower) (f : Fld) (k i j : Nat) : (x.fadd f k i j).cp = x.cp := rfl
@[simp] theorem Tower.fadd_dm (x : Tower) (f : Fld) (k i j : Nat) : (x.fadd f k i j).dm = x.dm := rfl
@[simp] theorem Tower.fadd_lmap (x : Tower) (f : Fld) (k i j : Nat) : (x.fadd f k i j).lmap = x.lmap := rfl
@[simp] theorem Tower.fadd_irq (x : Tower) (f : Fld) (k i j : Nat) : (x.fadd f k i j).irq = x.irq := rfl
@[simp] theorem Tower.fadd_enabled (x : Tower) (f : Fld) (k i j : Nat) : (x.fadd f k i j).enabled = x.enabled := rfl
@[simp] theorem Tower.fadd_lock (x : Tower) (f : Fld) (k i j : Nat) : (x.fadd f k i j).lock = x.lock := rfl
@[simp] theorem Tower.fadd_time17 (x : Tower) (f : Fld) (k i j : Nat) : (x.fadd f k i j).time17 = x.time17 := rfl
@[simp] theorem Tower.fadd_cyc (x : Tower) (f : Fld) (k i j : Nat) : (x.fadd f k i j).cyc = x.cyc := rfl
@[simp] theorem Tower.fadd_counted (x : Tower) (f : Fld) (k i j : Nat) : (x.fadd f k i j).counted = x.counted := rfl
@[simp] theorem Tower.fadd_cdBase (x : Tower) (f : Fld) (k i j : Nat) : (x.fadd f k i j).cdBase = x.cdBase := rfl
@[simp] theorem Tower.fadd_eng (x : Tower) (f : Fld) (k i j : Nat) : (x.fadd f k i j).eng = x.eng := rfl
@[simp] theorem Tower.fadd_faultIn (x : Tower) (f : Fld) (k i j : Nat) : (x.fadd f k i j).faultIn = x.faultIn := rfl
@[simp] theorem Tower.fadd_cdrReq (x : Tower) (f : Fld) (k i j : Nat) : (x.fadd f k i j).cdrReq = x.cdrReq := rfl
@[simp] theorem Tower.fadd_warmReq (x : Tower) (f : Fld) (k i j : Nat) : (x.fadd f k i j).warmReq = x.warmReq := rfl
@[simp] theorem Tower.fadd_brickReq (x : Tower) (f : Fld) (k i j : Nat) : (x.fadd f k i j).brickReq = x.brickReq := rfl
@[simp] theorem Tower.fadd_fwd (x : Tower) (f : Fld) (k i j : Nat) : (x.fadd f k i j).fwd = x.fwd := rfl
@[simp] theorem Tower.fadd_fwdCounted (x : Tower) (f : Fld) (k i j : Nat) : (x.fadd f k i j).fwdCounted = x.fwdCounted := rfl
@[simp] theorem Tower.fadd_setNow (x : Tower) (f : Fld) (k i j : Nat) : (x.fadd f k i j).setNow = x.setNow := rfl
@[simp] theorem Tower.fadd_sys (x : Tower) (f : Fld) (k i j : Nat) : (x.fadd f k i j).sys = x.sys := rfl
@[simp] theorem Tower.modSys_id (x : Tower) (f : Sys → Sys) : (x.modSys f).id = x.id := rfl
@[simp] theorem Tower.modSys_regs (x : Tower) (f : Sys → Sys) : (x.modSys f).regs = x.regs := rfl
@[simp] theorem Tower.modSys_bricks (x : Tower) (f : Sys → Sys) : (x.modSys f).bricks = x.bricks := rfl
@[simp] theorem Tower.modSys_mem (x : Tower) (f : Sys → Sys) : (x.modSys f).mem = x.mem := rfl
@[simp] theorem Tower.modSys_ports (x : Tower) (f : Sys → Sys) : (x.modSys f).ports = x.ports := rfl
@[simp] theorem Tower.modSys_rtr (x : Tower) (f : Sys → Sys) : (x.modSys f).rtr = x.rtr := rfl
@[simp] theorem Tower.modSys_routes (x : Tower) (f : Sys → Sys) : (x.modSys f).routes = x.routes := rfl
@[simp] theorem Tower.modSys_nbu (x : Tower) (f : Sys → Sys) : (x.modSys f).nbu = x.nbu := rfl
@[simp] theorem Tower.modSys_cp (x : Tower) (f : Sys → Sys) : (x.modSys f).cp = x.cp := rfl
@[simp] theorem Tower.modSys_dm (x : Tower) (f : Sys → Sys) : (x.modSys f).dm = x.dm := rfl
@[simp] theorem Tower.modSys_lmap (x : Tower) (f : Sys → Sys) : (x.modSys f).lmap = x.lmap := rfl
@[simp] theorem Tower.modSys_irq (x : Tower) (f : Sys → Sys) : (x.modSys f).irq = x.irq := rfl
@[simp] theorem Tower.modSys_enabled (x : Tower) (f : Sys → Sys) : (x.modSys f).enabled = x.enabled := rfl
@[simp] theorem Tower.modSys_lock (x : Tower) (f : Sys → Sys) : (x.modSys f).lock = x.lock := rfl
@[simp] theorem Tower.modSys_time17 (x : Tower) (f : Sys → Sys) : (x.modSys f).time17 = x.time17 := rfl
@[simp] theorem Tower.modSys_cyc (x : Tower) (f : Sys → Sys) : (x.modSys f).cyc = x.cyc := rfl
@[simp] theorem Tower.modSys_counted (x : Tower) (f : Sys → Sys) : (x.modSys f).counted = x.counted := rfl
@[simp] theorem Tower.modSys_cdBase (x : Tower) (f : Sys → Sys) : (x.modSys f).cdBase = x.cdBase := rfl
@[simp] theorem Tower.modSys_eng (x : Tower) (f : Sys → Sys) : (x.modSys f).eng = x.eng := rfl
@[simp] theorem Tower.modSys_faultIn (x : Tower) (f : Sys → Sys) : (x.modSys f).faultIn = x.faultIn := rfl
@[simp] theorem Tower.modSys_cdrReq (x : Tower) (f : Sys → Sys) : (x.modSys f).cdrReq = x.cdrReq := rfl
@[simp] theorem Tower.modSys_warmReq (x : Tower) (f : Sys → Sys) : (x.modSys f).warmReq = x.warmReq := rfl
@[simp] theorem Tower.modSys_brickReq (x : Tower) (f : Sys → Sys) : (x.modSys f).brickReq = x.brickReq := rfl
@[simp] theorem Tower.modSys_fwd (x : Tower) (f : Sys → Sys) : (x.modSys f).fwd = x.fwd := rfl
@[simp] theorem Tower.modSys_fwdCounted (x : Tower) (f : Sys → Sys) : (x.modSys f).fwdCounted = x.fwdCounted := rfl
@[simp] theorem Tower.modSys_setNow (x : Tower) (f : Sys → Sys) : (x.modSys f).setNow = x.setNow := rfl
@[simp] theorem Tower.modMem_id (x : Tower) (f : MemSys → MemSys) : (x.modMem f).id = x.id := rfl
@[simp] theorem Tower.modMem_regs (x : Tower) (f : MemSys → MemSys) : (x.modMem f).regs = x.regs := rfl
@[simp] theorem Tower.modMem_bricks (x : Tower) (f : MemSys → MemSys) : (x.modMem f).bricks = x.bricks := rfl
@[simp] theorem Tower.modMem_ports (x : Tower) (f : MemSys → MemSys) : (x.modMem f).ports = x.ports := rfl
@[simp] theorem Tower.modMem_rtr (x : Tower) (f : MemSys → MemSys) : (x.modMem f).rtr = x.rtr := rfl
@[simp] theorem Tower.modMem_routes (x : Tower) (f : MemSys → MemSys) : (x.modMem f).routes = x.routes := rfl
@[simp] theorem Tower.modMem_nbu (x : Tower) (f : MemSys → MemSys) : (x.modMem f).nbu = x.nbu := rfl
@[simp] theorem Tower.modMem_cp (x : Tower) (f : MemSys → MemSys) : (x.modMem f).cp = x.cp := rfl
@[simp] theorem Tower.modMem_dm (x : Tower) (f : MemSys → MemSys) : (x.modMem f).dm = x.dm := rfl
@[simp] theorem Tower.modMem_lmap (x : Tower) (f : MemSys → MemSys) : (x.modMem f).lmap = x.lmap := rfl
@[simp] theorem Tower.modMem_irq (x : Tower) (f : MemSys → MemSys) : (x.modMem f).irq = x.irq := rfl
@[simp] theorem Tower.modMem_enabled (x : Tower) (f : MemSys → MemSys) : (x.modMem f).enabled = x.enabled := rfl
@[simp] theorem Tower.modMem_lock (x : Tower) (f : MemSys → MemSys) : (x.modMem f).lock = x.lock := rfl
@[simp] theorem Tower.modMem_time17 (x : Tower) (f : MemSys → MemSys) : (x.modMem f).time17 = x.time17 := rfl
@[simp] theorem Tower.modMem_cyc (x : Tower) (f : MemSys → MemSys) : (x.modMem f).cyc = x.cyc := rfl
@[simp] theorem Tower.modMem_counted (x : Tower) (f : MemSys → MemSys) : (x.modMem f).counted = x.counted := rfl
@[simp] theorem Tower.modMem_cdBase (x : Tower) (f : MemSys → MemSys) : (x.modMem f).cdBase = x.cdBase := rfl
@[simp] theorem Tower.modMem_eng (x : Tower) (f : MemSys → MemSys) : (x.modMem f).eng = x.eng := rfl
@[simp] theorem Tower.modMem_faultIn (x : Tower) (f : MemSys → MemSys) : (x.modMem f).faultIn = x.faultIn := rfl
@[simp] theorem Tower.modMem_cdrReq (x : Tower) (f : MemSys → MemSys) : (x.modMem f).cdrReq = x.cdrReq := rfl
@[simp] theorem Tower.modMem_warmReq (x : Tower) (f : MemSys → MemSys) : (x.modMem f).warmReq = x.warmReq := rfl
@[simp] theorem Tower.modMem_brickReq (x : Tower) (f : MemSys → MemSys) : (x.modMem f).brickReq = x.brickReq := rfl
@[simp] theorem Tower.modMem_fwd (x : Tower) (f : MemSys → MemSys) : (x.modMem f).fwd = x.fwd := rfl
@[simp] theorem Tower.modMem_fwdCounted (x : Tower) (f : MemSys → MemSys) : (x.modMem f).fwdCounted = x.fwdCounted := rfl
@[simp] theorem Tower.modMem_setNow (x : Tower) (f : MemSys → MemSys) : (x.modMem f).setNow = x.setNow := rfl
@[simp] theorem Tower.modMem_sys (x : Tower) (f : MemSys → MemSys) : (x.modMem f).sys = x.sys := rfl
@[simp] theorem Tower.modRtr_id (x : Tower) (f : Rtr → Rtr) : (x.modRtr f).id = x.id := rfl
@[simp] theorem Tower.modRtr_regs (x : Tower) (f : Rtr → Rtr) : (x.modRtr f).regs = x.regs := rfl
@[simp] theorem Tower.modRtr_bricks (x : Tower) (f : Rtr → Rtr) : (x.modRtr f).bricks = x.bricks := rfl
@[simp] theorem Tower.modRtr_mem (x : Tower) (f : Rtr → Rtr) : (x.modRtr f).mem = x.mem := rfl
@[simp] theorem Tower.modRtr_ports (x : Tower) (f : Rtr → Rtr) : (x.modRtr f).ports = x.ports := rfl
@[simp] theorem Tower.modRtr_routes (x : Tower) (f : Rtr → Rtr) : (x.modRtr f).routes = x.routes := rfl
@[simp] theorem Tower.modRtr_nbu (x : Tower) (f : Rtr → Rtr) : (x.modRtr f).nbu = x.nbu := rfl
@[simp] theorem Tower.modRtr_cp (x : Tower) (f : Rtr → Rtr) : (x.modRtr f).cp = x.cp := rfl
@[simp] theorem Tower.modRtr_dm (x : Tower) (f : Rtr → Rtr) : (x.modRtr f).dm = x.dm := rfl
@[simp] theorem Tower.modRtr_lmap (x : Tower) (f : Rtr → Rtr) : (x.modRtr f).lmap = x.lmap := rfl
@[simp] theorem Tower.modRtr_irq (x : Tower) (f : Rtr → Rtr) : (x.modRtr f).irq = x.irq := rfl
@[simp] theorem Tower.modRtr_enabled (x : Tower) (f : Rtr → Rtr) : (x.modRtr f).enabled = x.enabled := rfl
@[simp] theorem Tower.modRtr_lock (x : Tower) (f : Rtr → Rtr) : (x.modRtr f).lock = x.lock := rfl
@[simp] theorem Tower.modRtr_time17 (x : Tower) (f : Rtr → Rtr) : (x.modRtr f).time17 = x.time17 := rfl
@[simp] theorem Tower.modRtr_cyc (x : Tower) (f : Rtr → Rtr) : (x.modRtr f).cyc = x.cyc := rfl
@[simp] theorem Tower.modRtr_counted (x : Tower) (f : Rtr → Rtr) : (x.modRtr f).counted = x.counted := rfl
@[simp] theorem Tower.modRtr_cdBase (x : Tower) (f : Rtr → Rtr) : (x.modRtr f).cdBase = x.cdBase := rfl
@[simp] theorem Tower.modRtr_eng (x : Tower) (f : Rtr → Rtr) : (x.modRtr f).eng = x.eng := rfl
@[simp] theorem Tower.modRtr_faultIn (x : Tower) (f : Rtr → Rtr) : (x.modRtr f).faultIn = x.faultIn := rfl
@[simp] theorem Tower.modRtr_cdrReq (x : Tower) (f : Rtr → Rtr) : (x.modRtr f).cdrReq = x.cdrReq := rfl
@[simp] theorem Tower.modRtr_warmReq (x : Tower) (f : Rtr → Rtr) : (x.modRtr f).warmReq = x.warmReq := rfl
@[simp] theorem Tower.modRtr_brickReq (x : Tower) (f : Rtr → Rtr) : (x.modRtr f).brickReq = x.brickReq := rfl
@[simp] theorem Tower.modRtr_fwd (x : Tower) (f : Rtr → Rtr) : (x.modRtr f).fwd = x.fwd := rfl
@[simp] theorem Tower.modRtr_fwdCounted (x : Tower) (f : Rtr → Rtr) : (x.modRtr f).fwdCounted = x.fwdCounted := rfl
@[simp] theorem Tower.modRtr_setNow (x : Tower) (f : Rtr → Rtr) : (x.modRtr f).setNow = x.setNow := rfl
@[simp] theorem Tower.modRtr_sys (x : Tower) (f : Rtr → Rtr) : (x.modRtr f).sys = x.sys := rfl
@[simp] theorem Tower.setBrick_id (x : Tower) (i : Nat) (b : Brick) : (x.setBrick i b).id = x.id := rfl
@[simp] theorem Tower.setBrick_regs (x : Tower) (i : Nat) (b : Brick) : (x.setBrick i b).regs = x.regs := rfl
@[simp] theorem Tower.setBrick_mem (x : Tower) (i : Nat) (b : Brick) : (x.setBrick i b).mem = x.mem := rfl
@[simp] theorem Tower.setBrick_ports (x : Tower) (i : Nat) (b : Brick) : (x.setBrick i b).ports = x.ports := rfl
@[simp] theorem Tower.setBrick_rtr (x : Tower) (i : Nat) (b : Brick) : (x.setBrick i b).rtr = x.rtr := rfl
@[simp] theorem Tower.setBrick_routes (x : Tower) (i : Nat) (b : Brick) : (x.setBrick i b).routes = x.routes := rfl
@[simp] theorem Tower.setBrick_nbu (x : Tower) (i : Nat) (b : Brick) : (x.setBrick i b).nbu = x.nbu := rfl
@[simp] theorem Tower.setBrick_cp (x : Tower) (i : Nat) (b : Brick) : (x.setBrick i b).cp = x.cp := rfl
@[simp] theorem Tower.setBrick_dm (x : Tower) (i : Nat) (b : Brick) : (x.setBrick i b).dm = x.dm := rfl
@[simp] theorem Tower.setBrick_lmap (x : Tower) (i : Nat) (b : Brick) : (x.setBrick i b).lmap = x.lmap := rfl
@[simp] theorem Tower.setBrick_irq (x : Tower) (i : Nat) (b : Brick) : (x.setBrick i b).irq = x.irq := rfl
@[simp] theorem Tower.setBrick_enabled (x : Tower) (i : Nat) (b : Brick) : (x.setBrick i b).enabled = x.enabled := rfl
@[simp] theorem Tower.setBrick_lock (x : Tower) (i : Nat) (b : Brick) : (x.setBrick i b).lock = x.lock := rfl
@[simp] theorem Tower.setBrick_time17 (x : Tower) (i : Nat) (b : Brick) : (x.setBrick i b).time17 = x.time17 := rfl
@[simp] theorem Tower.setBrick_cyc (x : Tower) (i : Nat) (b : Brick) : (x.setBrick i b).cyc = x.cyc := rfl
@[simp] theorem Tower.setBrick_counted (x : Tower) (i : Nat) (b : Brick) : (x.setBrick i b).counted = x.counted := rfl
@[simp] theorem Tower.setBrick_cdBase (x : Tower) (i : Nat) (b : Brick) : (x.setBrick i b).cdBase = x.cdBase := rfl
@[simp] theorem Tower.setBrick_eng (x : Tower) (i : Nat) (b : Brick) : (x.setBrick i b).eng = x.eng := rfl
@[simp] theorem Tower.setBrick_faultIn (x : Tower) (i : Nat) (b : Brick) : (x.setBrick i b).faultIn = x.faultIn := rfl
@[simp] theorem Tower.setBrick_cdrReq (x : Tower) (i : Nat) (b : Brick) : (x.setBrick i b).cdrReq = x.cdrReq := rfl
@[simp] theorem Tower.setBrick_warmReq (x : Tower) (i : Nat) (b : Brick) : (x.setBrick i b).warmReq = x.warmReq := rfl
@[simp] theorem Tower.setBrick_brickReq (x : Tower) (i : Nat) (b : Brick) : (x.setBrick i b).brickReq = x.brickReq := rfl
@[simp] theorem Tower.setBrick_fwd (x : Tower) (i : Nat) (b : Brick) : (x.setBrick i b).fwd = x.fwd := rfl
@[simp] theorem Tower.setBrick_fwdCounted (x : Tower) (i : Nat) (b : Brick) : (x.setBrick i b).fwdCounted = x.fwdCounted := rfl
@[simp] theorem Tower.setBrick_setNow (x : Tower) (i : Nat) (b : Brick) : (x.setBrick i b).setNow = x.setNow := rfl
@[simp] theorem Tower.setBrick_sys (x : Tower) (i : Nat) (b : Brick) : (x.setBrick i b).sys = x.sys := rfl
@[simp] theorem Tower.modSys_sys (x : Tower) (f : Sys → Sys) : (x.modSys f).sys = f x.sys := rfl
@[simp] theorem Tower.modMem_mem (x : Tower) (f : MemSys → MemSys) : (x.modMem f).mem = f x.mem := rfl
@[simp] theorem Tower.modRtr_rtr (x : Tower) (f : Rtr → Rtr) : (x.modRtr f).rtr = f x.rtr := rfl
@[simp] theorem Tower.brick_setBrick (x : Tower) (i : Nat) (b : Brick) : (x.setBrick i b).brick i = b := by
  simp [Tower.brick, Tower.setBrick]
theorem Tower.brick_setBrick_other (x : Tower) {i j : Nat} (b : Brick) (h : i ≠ j) : (x.setBrick i b).brick j = x.brick j := by
  simp [Tower.brick, Tower.setBrick, sget_sset_other _ _ _ h]
@[simp] theorem State.brick_setBrick (s : State) (b : BrickRef) (x : Brick) : (s.setBrick b x).brick b = x := by
  simp [State.brick, State.setBrick]
theorem State.brick_setBrick_other (s : State) {b c : BrickRef} (x : Brick) (h : b ≠ c) : (s.setBrick b x).brick c = s.brick c := by
  obtain ⟨t, i⟩ := b; obtain ⟨u, j⟩ := c
  unfold State.brick State.setBrick State.modTw
  by_cases ht : t = u
  · subst ht
    have hij : i.val ≠ j.val := fun e => h (by rw [Fin.ext e])
    simp [Tower.brick_setBrick_other _ _ hij]
  · rw [tw_setTw_ne _ _ ht]
@[simp] theorem Brick.group_setGroup (b : Brick) (k : Nat) (g : Group) : (b.setGroup k g).group? k = some g := by
  simp [Brick.group?, Brick.setGroup]
theorem Brick.group_setGroup_other (b : Brick) {k j : Nat} (g : Group) (h : k ≠ j) : (b.setGroup k g).group? j = b.group? j := by
  simp [Brick.group?, Brick.setGroup, sfind_sset_other _ _ h]
@[simp] theorem Brick.setGroup_phase (b : Brick) (k : Nat) (g : Group) : (b.setGroup k g).phase = b.phase := rfl
@[simp] theorem Brick.setGroup_run (b : Brick) (k : Nat) (g : Group) : (b.setGroup k g).run = b.run := rfl
@[simp] theorem Brick.setGroup_sr (b : Brick) (k : Nat) (g : Group) : (b.setGroup k g).sr = b.sr := rfl
@[simp] theorem Brick.setGroup_cyc (b : Brick) (k : Nat) (g : Group) : (b.setGroup k g).cyc = b.cyc := rfl
@[simp] theorem Brick.setGroup_issues (b : Brick) (k : Nat) (g : Group) : (b.setGroup k g).issues = b.issues := rfl
@[simp] theorem Brick.setGroup_ops (b : Brick) (k : Nat) (g : Group) : (b.setGroup k g).ops = b.ops := rfl
@[simp] theorem Brick.setGroup_opOrder (b : Brick) (k : Nat) (g : Group) : (b.setGroup k g).opOrder = b.opOrder := rfl
@[simp] theorem Brick.setGroup_pointer (b : Brick) (k : Nat) (g : Group) : (b.setGroup k g).pointer = b.pointer := rfl
@[simp] theorem Brick.setGroup_delivered (b : Brick) (k : Nat) (g : Group) : (b.setGroup k g).delivered = b.delivered := rfl
@[simp] theorem Brick.setGroup_headWait (b : Brick) (k : Nat) (g : Group) : (b.setGroup k g).headWait = b.headWait := rfl
@[simp] theorem Brick.setGroup_blocks (b : Brick) (k : Nat) (g : Group) : (b.setGroup k g).blocks = b.blocks := rfl
@[simp] theorem Brick.setGroup_epochs (b : Brick) (k : Nat) (g : Group) : (b.setGroup k g).epochs = b.epochs := rfl
@[simp] theorem Brick.setGroup_scheds (b : Brick) (k : Nat) (g : Group) : (b.setGroup k g).scheds = b.scheds := rfl
@[simp] theorem Brick.setGroup_icache (b : Brick) (k : Nat) (g : Group) : (b.setGroup k g).icache = b.icache := rfl
@[simp] theorem Brick.setGroup_ccache (b : Brick) (k : Nat) (g : Group) : (b.setGroup k g).ccache = b.ccache := rfl
@[simp] theorem Brick.setGroup_dcache (b : Brick) (k : Nat) (g : Group) : (b.setGroup k g).dcache = b.dcache := rfl
@[simp] theorem Brick.setGroup_romru (b : Brick) (k : Nat) (g : Group) : (b.setGroup k g).romru = b.romru := rfl
@[simp] theorem Brick.setGroup_l1 (b : Brick) (k : Nat) (g : Group) : (b.setGroup k g).l1 = b.l1 := rfl
@[simp] theorem Brick.setGroup_l1mru (b : Brick) (k : Nat) (g : Group) : (b.setGroup k g).l1mru = b.l1mru := rfl
@[simp] theorem Brick.setGroup_mregs (b : Brick) (k : Nat) (g : Group) : (b.setGroup k g).mregs = b.mregs := rfl
@[simp] theorem Brick.setGroup_l1in (b : Brick) (k : Nat) (g : Group) : (b.setGroup k g).l1in = b.l1in := rfl
@[simp] theorem Brick.setGroup_inflight (b : Brick) (k : Nat) (g : Group) : (b.setGroup k g).inflight = b.inflight := rfl
@[simp] theorem Brick.setGroup_nextId (b : Brick) (k : Nat) (g : Group) : (b.setGroup k g).nextId = b.nextId := rfl
@[simp] theorem Brick.setGroup_downQ (b : Brick) (k : Nat) (g : Group) : (b.setGroup k g).downQ = b.downQ := rfl
@[simp] theorem Brick.setGroup_writeQ (b : Brick) (k : Nat) (g : Group) : (b.setGroup k g).writeQ = b.writeQ := rfl
@[simp] theorem Brick.setGroup_mortarRd (b : Brick) (k : Nat) (g : Group) : (b.setGroup k g).mortarRd = b.mortarRd := rfl
@[simp] theorem Brick.setGroup_portOut (b : Brick) (k : Nat) (g : Group) : (b.setGroup k g).portOut = b.portOut := rfl
@[simp] theorem Brick.setGroup_mortarWr (b : Brick) (k : Nat) (g : Group) : (b.setGroup k g).mortarWr = b.mortarWr := rfl
@[simp] theorem Brick.setGroup_atomQ (b : Brick) (k : Nat) (g : Group) : (b.setGroup k g).atomQ = b.atomQ := rfl
@[simp] theorem Brick.setGroup_cspQ (b : Brick) (k : Nat) (g : Group) : (b.setGroup k g).cspQ = b.cspQ := rfl
@[simp] theorem Brick.setGroup_upQ (b : Brick) (k : Nat) (g : Group) : (b.setGroup k g).upQ = b.upQ := rfl
@[simp] theorem Brick.setGroup_ackQ (b : Brick) (k : Nat) (g : Group) : (b.setGroup k g).ackQ = b.ackQ := rfl
@[simp] theorem Brick.setGroup_ackIn (b : Brick) (k : Nat) (g : Group) : (b.setGroup k g).ackIn = b.ackIn := rfl
@[simp] theorem Brick.setGroup_outst (b : Brick) (k : Nat) (g : Group) : (b.setGroup k g).outst = b.outst := rfl
@[simp] theorem Brick.setGroup_hits (b : Brick) (k : Nat) (g : Group) : (b.setGroup k g).hits = b.hits := rfl
@[simp] theorem Brick.setGroup_misses (b : Brick) (k : Nat) (g : Group) : (b.setGroup k g).misses = b.misses := rfl
@[simp] theorem Brick.setGroup_ceSect (b : Brick) (k : Nat) (g : Group) : (b.setGroup k g).ceSect = b.ceSect := rfl
@[simp] theorem Brick.setGroup_mx (b : Brick) (k : Nat) (g : Group) : (b.setGroup k g).mx = b.mx := rfl
@[simp] theorem Brick.setGroup_tp (b : Brick) (k : Nat) (g : Group) : (b.setGroup k g).tp = b.tp := rfl
@[simp] theorem Brick.setGroup_ev (b : Brick) (k : Nat) (g : Group) : (b.setGroup k g).ev = b.ev := rfl
@[simp] theorem Brick.setGroup_recs (b : Brick) (k : Nat) (g : Group) : (b.setGroup k g).recs = b.recs := rfl
@[simp] theorem Brick.setGroup_recBase (b : Brick) (k : Nat) (g : Group) : (b.setGroup k g).recBase = b.recBase := rfl
@[simp] theorem Brick.setGroup_privErrs (b : Brick) (k : Nat) (g : Group) : (b.setGroup k g).privErrs = b.privErrs := rfl
@[simp] theorem Brick.setGroup_used (b : Brick) (k : Nat) (g : Group) : (b.setGroup k g).used = b.used := rfl
@[simp] theorem Brick.setGroup_l1last (b : Brick) (k : Nat) (g : Group) : (b.setGroup k g).l1last = b.l1last := rfl
@[simp] theorem Brick.setGroup_sendRd (b : Brick) (k : Nat) (g : Group) : (b.setGroup k g).sendRd = b.sendRd := rfl
@[simp] theorem Brick.setGroup_sendWr (b : Brick) (k : Nat) (g : Group) : (b.setGroup k g).sendWr = b.sendWr := rfl
@[simp] theorem Brick.setGroup_ebuf (b : Brick) (k : Nat) (g : Group) : (b.setGroup k g).ebuf = b.ebuf := rfl
@[simp] theorem Brick.setGroup_engErr (b : Brick) (k : Nat) (g : Group) : (b.setGroup k g).engErr = b.engErr := rfl
@[simp] theorem Brick.issued_phase (b : Brick) (x : Ctx) (q : Bool) : (b.issued x q).phase = b.phase := rfl
@[simp] theorem Brick.issued_run (b : Brick) (x : Ctx) (q : Bool) : (b.issued x q).run = b.run := rfl
@[simp] theorem Brick.issued_sr (b : Brick) (x : Ctx) (q : Bool) : (b.issued x q).sr = b.sr := rfl
@[simp] theorem Brick.issued_cyc (b : Brick) (x : Ctx) (q : Bool) : (b.issued x q).cyc = b.cyc := rfl
@[simp] theorem Brick.issued_issues (b : Brick) (x : Ctx) (q : Bool) : (b.issued x q).issues = b.issues := rfl
@[simp] theorem Brick.issued_ops (b : Brick) (x : Ctx) (q : Bool) : (b.issued x q).ops = b.ops := rfl
@[simp] theorem Brick.issued_opOrder (b : Brick) (x : Ctx) (q : Bool) : (b.issued x q).opOrder = b.opOrder := rfl
@[simp] theorem Brick.issued_pointer (b : Brick) (x : Ctx) (q : Bool) : (b.issued x q).pointer = b.pointer := rfl
@[simp] theorem Brick.issued_delivered (b : Brick) (x : Ctx) (q : Bool) : (b.issued x q).delivered = b.delivered := rfl
@[simp] theorem Brick.issued_headWait (b : Brick) (x : Ctx) (q : Bool) : (b.issued x q).headWait = b.headWait := rfl
@[simp] theorem Brick.issued_blocks (b : Brick) (x : Ctx) (q : Bool) : (b.issued x q).blocks = b.blocks := rfl
@[simp] theorem Brick.issued_epochs (b : Brick) (x : Ctx) (q : Bool) : (b.issued x q).epochs = b.epochs := rfl
@[simp] theorem Brick.issued_groups (b : Brick) (x : Ctx) (q : Bool) : (b.issued x q).groups = b.groups := rfl
@[simp] theorem Brick.issued_icache (b : Brick) (x : Ctx) (q : Bool) : (b.issued x q).icache = b.icache := rfl
@[simp] theorem Brick.issued_ccache (b : Brick) (x : Ctx) (q : Bool) : (b.issued x q).ccache = b.ccache := rfl
@[simp] theorem Brick.issued_dcache (b : Brick) (x : Ctx) (q : Bool) : (b.issued x q).dcache = b.dcache := rfl
@[simp] theorem Brick.issued_l1 (b : Brick) (x : Ctx) (q : Bool) : (b.issued x q).l1 = b.l1 := rfl
@[simp] theorem Brick.issued_l1mru (b : Brick) (x : Ctx) (q : Bool) : (b.issued x q).l1mru = b.l1mru := rfl
@[simp] theorem Brick.issued_mregs (b : Brick) (x : Ctx) (q : Bool) : (b.issued x q).mregs = b.mregs := rfl
@[simp] theorem Brick.issued_l1in (b : Brick) (x : Ctx) (q : Bool) : (b.issued x q).l1in = b.l1in := rfl
@[simp] theorem Brick.issued_inflight (b : Brick) (x : Ctx) (q : Bool) : (b.issued x q).inflight = b.inflight := rfl
@[simp] theorem Brick.issued_nextId (b : Brick) (x : Ctx) (q : Bool) : (b.issued x q).nextId = b.nextId := rfl
@[simp] theorem Brick.issued_downQ (b : Brick) (x : Ctx) (q : Bool) : (b.issued x q).downQ = b.downQ := rfl
@[simp] theorem Brick.issued_writeQ (b : Brick) (x : Ctx) (q : Bool) : (b.issued x q).writeQ = b.writeQ := rfl
@[simp] theorem Brick.issued_mortarRd (b : Brick) (x : Ctx) (q : Bool) : (b.issued x q).mortarRd = b.mortarRd := rfl
@[simp] theorem Brick.issued_portOut (b : Brick) (x : Ctx) (q : Bool) : (b.issued x q).portOut = b.portOut := rfl
@[simp] theorem Brick.issued_mortarWr (b : Brick) (x : Ctx) (q : Bool) : (b.issued x q).mortarWr = b.mortarWr := rfl
@[simp] theorem Brick.issued_atomQ (b : Brick) (x : Ctx) (q : Bool) : (b.issued x q).atomQ = b.atomQ := rfl
@[simp] theorem Brick.issued_cspQ (b : Brick) (x : Ctx) (q : Bool) : (b.issued x q).cspQ = b.cspQ := rfl
@[simp] theorem Brick.issued_upQ (b : Brick) (x : Ctx) (q : Bool) : (b.issued x q).upQ = b.upQ := rfl
@[simp] theorem Brick.issued_ackQ (b : Brick) (x : Ctx) (q : Bool) : (b.issued x q).ackQ = b.ackQ := rfl
@[simp] theorem Brick.issued_ackIn (b : Brick) (x : Ctx) (q : Bool) : (b.issued x q).ackIn = b.ackIn := rfl
@[simp] theorem Brick.issued_outst (b : Brick) (x : Ctx) (q : Bool) : (b.issued x q).outst = b.outst := rfl
@[simp] theorem Brick.issued_hits (b : Brick) (x : Ctx) (q : Bool) : (b.issued x q).hits = b.hits := rfl
@[simp] theorem Brick.issued_misses (b : Brick) (x : Ctx) (q : Bool) : (b.issued x q).misses = b.misses := rfl
@[simp] theorem Brick.issued_ceSect (b : Brick) (x : Ctx) (q : Bool) : (b.issued x q).ceSect = b.ceSect := rfl
@[simp] theorem Brick.issued_mx (b : Brick) (x : Ctx) (q : Bool) : (b.issued x q).mx = b.mx := rfl
@[simp] theorem Brick.issued_tp (b : Brick) (x : Ctx) (q : Bool) : (b.issued x q).tp = b.tp := rfl
@[simp] theorem Brick.issued_ev (b : Brick) (x : Ctx) (q : Bool) : (b.issued x q).ev = b.ev := rfl
@[simp] theorem Brick.issued_recBase (b : Brick) (x : Ctx) (q : Bool) : (b.issued x q).recBase = b.recBase := rfl
@[simp] theorem Brick.issued_privErrs (b : Brick) (x : Ctx) (q : Bool) : (b.issued x q).privErrs = b.privErrs := rfl
@[simp] theorem Brick.issued_used (b : Brick) (x : Ctx) (q : Bool) : (b.issued x q).used = b.used := rfl
@[simp] theorem Brick.issued_l1last (b : Brick) (x : Ctx) (q : Bool) : (b.issued x q).l1last = b.l1last := rfl
@[simp] theorem Brick.issued_sendRd (b : Brick) (x : Ctx) (q : Bool) : (b.issued x q).sendRd = b.sendRd := rfl
@[simp] theorem Brick.issued_sendWr (b : Brick) (x : Ctx) (q : Bool) : (b.issued x q).sendWr = b.sendWr := rfl
@[simp] theorem Brick.issued_ebuf (b : Brick) (x : Ctx) (q : Bool) : (b.issued x q).ebuf = b.ebuf := rfl
@[simp] theorem Brick.issued_engErr (b : Brick) (x : Ctx) (q : Bool) : (b.issued x q).engErr = b.engErr := rfl

end Sys2Proof.Machine
end

