-- ==== Sys2Proof/Laws/Issue.lean ====
section
/-! SUPPORT. What the shared operations of issue do: `prepare` names the group of the slot, `finish` writes what it is given and
nothing else. -/

namespace Sys2Proof.Machine

open Sys2Proof

/-- Everything an instruction that issues knows of the state it issues in. -/
theorem prepare_go {op : Nat} {sel : Fields → Bool} {o : OpInfo} {g : GroupRef} {w : IWord} {s : State} {x : Ctx}
    (h : prepare op sel o g w s = .go x) :
    x.ref = g ∧ x.br = s.brick g.b ∧ x.o = o ∧ (∃ g0, s.group? g = some g0 ∧ x.grp = { g0 with cur := g0.merged } ∧ x.cur = g0.merged) ∧
      (s.tw g.b.t).frozen = false ∧ (s.tw g.b.t).withheld g.b.s.val = false ∧ legal o x.f = true := by
  unfold prepare at h
  extract_lets b at h
  split at h
  · rename_i g0 run hg hr
    split at h
    · cases h
    · rename_i blk hb
      extract_lets cur grp at h
      split at h
      · cases h
      · rename_i l0 hl
        split at h
        · cases h
        · rename_i hn
          simp only [Bool.or_eq_true, not_or] at hn
          have hf : (s.tw g.b.t).frozen = false ∧ (s.tw g.b.t).withheld g.b.s.val = false := by
            have := hn.1.1.1.1.1
            exact (by simpa using this : _ ∧ _).1
          repeat' (first | split at h | extract_lets at h)
          all_goals first
            | (cases h; exact ⟨rfl, rfl, rfl, ⟨g0, hg, rfl, rfl⟩, hf.1, hf.2, by simp_all⟩)
            | cases h
  · cases h

@[simp] theorem mapLanes_length (g : Group) (m : LaneMask) (f : Nat → Thread → Thread) :
    (g.mapLanes m f).threads.length = g.threads.length := by simp [Group.mapLanes]

theorem mapLanes_thread (g : Group) (m : LaneMask) (f : Nat → Thread → Thread) {l : Nat} (h : l < g.threads.length) :
    (g.mapLanes m f).thread l = if m.toNat.testBit l then f l (g.thread l) else g.thread l := by
  simp [Group.mapLanes, Group.thread, h, List.getD_eq_getElem?_getD]

theorem rdG_wrG (th : Thread) (d n : Nat) (v : R32) : rdG (wrG th d v) n = newG th (setsD d v) n := by
  unfold wrG newG setsD rdG
  by_cases hd : d = 255
  · subst hd
    by_cases hn : n = 255
    · simp [hn]
    · simp [hn]
  · by_cases hn : n = 255
    · simp [hn]
    · by_cases hnd : n = d
      · subst hnd; simp [hd]
      · simp [hd, hn, hnd, sget_sset_other _ _ _ (Ne.symm hnd)]

theorem rdP_wrP (th : Thread) (d n : Nat) (v : Bool) (hd : d < 8) (hn : n < 8) :
    rdP (wrP th d v) n = newP th (setsP d v) n := by
  unfold rdP wrP newP setsP rdP
  rw [Nat.mod_eq_of_lt hd, Nat.mod_eq_of_lt hn]
  by_cases h : n = d
  · subst h
    cases v <;> simp [hn]
  · have : (1#8 <<< d).getLsbD n = false := by
      rcases Nat.lt_or_gt_of_ne h with h1 | h1
      · simp [h1]
      · have : n - d ≠ 0 := by omega
        simp [this]
    have hx : (th.p ||| 1#8 <<< d).getLsbD n = th.p.getLsbD n := by rw [BitVec.getLsbD_or, this, Bool.or_false]
    have hy : (th.p &&& ~~~(1#8 <<< d)).getLsbD n = th.p.getLsbD n := by
      rw [BitVec.getLsbD_and, BitVec.getLsbD_not, this]; simp [hn]
    cases v
    · simpa [h] using hy
    · simpa [h] using hx

@[simp] theorem wrG_p (th : Thread) (n : Nat) (v : R32) : (wrG th n v).p = th.p := by unfold wrG; split <;> rfl
@[simp] theorem wrP_g (th : Thread) (n : Nat) (v : Bool) : (wrP th n v).g = th.g := rfl

/-- What a lane's writes make of a thread. -/
def LaneW.Does (w : LaneW) (gr : Nat → Option R32) (pr : Nat → Option Bool) : Prop :=
  ∀ th : Thread, w.apply th = { th with g := (w.apply th).g, p := (w.apply th).p } ∧
    (∀ n, rdG (w.apply th) n = newG th gr n) ∧ (∀ n, n < 8 → rdP (w.apply th) n = newP th pr n)

theorem wrG_eta (th : Thread) (n : Nat) (v : R32) : wrG th n v = { th with g := (wrG th n v).g } := by
  unfold wrG; split <;> rfl

theorem rdG_newG_noG (th : Thread) (n : Nat) : rdG th n = newG th noG n := by
  unfold newG noG rdG; split <;> simp_all

theorem does_none (fl : Nat) : LaneW.Does { fl := fl } noG noP :=
  fun th => ⟨rfl, fun n => rdG_newG_noG th n, fun _ _ => rfl⟩

theorem does_d (d : Nat) (v : R32) (fl : Nat) : LaneW.Does { g := [(d, v)], fl := fl } (setsD d v) noP := by
  intro th
  refine ⟨?_, fun n => ?_, fun n _ => ?_⟩
  · show wrG th d v = _
    conv_lhs => rw [wrG_eta]
    simp [LaneW.apply]
  · exact rdG_wrG th d n v
  · simp [LaneW.apply, rdP, newP, noP]

theorem does_dW (x : Ctx) (v : R32) : (dW x v).Does (setsD x.f.d v) noP := does_d _ _ _

theorem does_pair (x : Ctx) (v : Word) : (dPairW x v).Does (setsPair x.f.d v) noP := by
  intro th
  refine ⟨?_, fun n => ?_, fun n _ => ?_⟩
  · simp only [dPairW, LaneW.apply, List.foldl_cons, List.foldl_nil]
    rw [wrG_eta (wrG th x.f.d (BitVec.setWidth 32 v)), wrG_eta th]
  · simp only [dPairW, LaneW.apply, List.foldl_cons, List.foldl_nil]
    rw [rdG_wrG]
    unfold newG setsD setsPair
    by_cases hn : n = 255
    · simp [hn]
    · rw [rdG_wrG]
      unfold newG setsD
      by_cases h1 : n = x.f.d + 1
      · have : n ≠ x.f.d := by omega
        simp [h1]
      · by_cases h2 : n = x.f.d <;> simp_all
  · simp [dPairW, LaneW.apply, rdP, newP, noP]

theorem does_p (d : Nat) (v : Bool) (h : d < 8) (fl : Nat) : LaneW.Does { p := [(d, v)], fl := fl } noG (setsP d v) :=
  fun th => ⟨rfl, fun n => by simpa [LaneW.apply, rdG] using rdG_newG_noG th n, fun n hn => rdP_wrP th d n v h hn⟩

/-- The carry-out beside a result. -/
theorem does_carry {w : LaneW} {gr : Nat → Option R32} (hw : w.Does gr noP) (hp : w.p = []) (x : Ctx) (c : Bool) :
    (carryW x c w).Does gr (if x.f.mod.testBit 6 then setsP (bits x.f.mod 5 3) c else noP) := by
  unfold carryW
  split
  · intro th
    obtain ⟨h1, h2, h3⟩ := hw th
    have hb : bits x.f.mod 5 3 < 8 := by unfold bits; omega
    have ha : LaneW.apply { w with p := [(bits x.f.mod 5 3, c)] } th = wrP (w.apply th) (bits x.f.mod 5 3) c := by
      simp [LaneW.apply, hp]
    rw [ha]
    refine ⟨?_, fun n => ?_, fun n hn => ?_⟩
    · rw [h1]; rfl
    · rw [show rdG (wrP (w.apply th) _ c) n = rdG (w.apply th) n from rfl, h2]
    · rw [rdP_wrP _ _ _ _ hb hn]
      have := h3 n hn
      unfold newP at this ⊢
      rw [this]; simp [noP]
  · exact hw

theorem mapLanes_fields (g : Group) (m : LaneMask) (f : Nat → Thread → Thread) :
    g.mapLanes m f = { g with threads := (g.mapLanes m f).threads } := rfl

/-- What an instruction's writes make of the u registers. -/
def UDoes (uw : List (Nat × R32)) (ur : Nat → Option R32) : Prop :=
  ∀ (u : SMap R32) (n : Nat), sget 0 (uw.foldl (fun u p => sset u p.1 p.2) u) n = (ur n).getD (sget 0 u n)

theorem udoes_nil : UDoes [] noG := fun _ _ => rfl

theorem udoes_one (d : Nat) (v : R32) : UDoes [(d, v)] (setsD d v) := by
  intro u n
  simp only [List.foldl_cons, List.foldl_nil, setsD]
  rw [sget_sset]
  by_cases hp : d = n
  · simp [hp]
  · simp [hp, Ne.symm hp]

/-- The group that `finish` leaves. -/
def finishGroup (x : Ctx) (wr : Nat → LaneW) (uw : List (Nat × R32)) : Group :=
  let fl := (lanesOf x.exec).foldl (fun a l => a ||| (wr l).fl) 0
  let grp := (x.grp.mapLanes x.exec fun l th => (wr l).apply th).mapLanes x.cur fun _ th => { th with pc := th.pc + BitVec.ofNat 32 x.f.len }
  { grp with
    u := uw.foldl (fun u p => sset u p.1 p.2) grp.u
    pend := grp.pend ++ pendOf x.o.cls.lat 0 x.o x.f fl }

theorem finish_eq (x : Ctx) (wr : Nat → LaneW) (uw : List (Nat × R32)) (sr : R32) (s : State) :
    finish x wr uw sr s = s.setBrick x.ref.b
      { (x.br.setGroup (gkey x.ref) (finishGroup x wr uw)).issued x (decide (x.o.cls = .s)) with sr := sr } := rfl

theorem finishGroup_thread (x : Ctx) (wr : Nat → LaneW) (uw : List (Nat × R32)) {l : Nat} (h : l < x.grp.threads.length) :
    (finishGroup x wr uw).thread l =
      let th := if x.exec.toNat.testBit l then (wr l).apply (x.grp.thread l) else x.grp.thread l
      if x.cur.toNat.testBit l then { th with pc := th.pc + BitVec.ofNat 32 x.f.len } else th := by
  have h1 : (finishGroup x wr uw).thread l = (((x.grp.mapLanes x.exec fun l th => (wr l).apply th).mapLanes x.cur
    fun _ th => { th with pc := th.pc + BitVec.ofNat 32 x.f.len })).thread l := rfl
  rw [h1, mapLanes_thread _ _ _ (by simpa using h), mapLanes_thread _ _ _ h]

/-- Everything `finish` does, for an instruction that is ready. -/
theorem finish_wrote {op : Nat} {sel : Fields → Bool} {o : OpInfo} {g : GroupRef} {w : IWord} {s : State} {x : Ctx}
    (h : prepare op sel o g w s = .go x) (wr : Nat → LaneW) (uw : List (Nat × R32)) (sr : R32)
    {gr : Nat → Nat → Option R32} {pr : Nat → Nat → Option Bool} {ur : Nat → Option R32}
    (hu : UDoes uw ur) (hw : ∀ l, (wr l).Does (gr l) (pr l)) :
    Wrote x gr pr ur s (finish x wr uw sr s) := by
  obtain ⟨hr, hb, ho, ⟨g0, hg, hgrp, hcur⟩, hf, -, hl⟩ := prepare_go h
  subst hr
  have hth : ∀ l, x.grp.thread l = g0.thread l := fun l => by rw [hgrp]; rfl
  have hlen : x.grp.threads.length = g0.threads.length := by rw [hgrp]
  refine ⟨g0, finishGroup x wr uw, hg, ?_, ?_, ?_, ?_, ?_, ?_, ?_⟩
  · rw [finish_eq, onlyGroup, State.brick_setBrick, hb]; rfl
  · rw [hcur]; unfold finishGroup; rw [hgrp]; rfl
  · unfold finishGroup; simp [hlen]
  · intro l h0
    rw [finishGroup_thread _ _ _ (hlen ▸ h0), hth]
    have ha := (hw l (g0.thread l)).1
    by_cases hx : x.exec.toNat.testBit l <;> by_cases hc : x.cur.toNat.testBit l <;> simp [hx, hc]
    · rw [ha]; exact ⟨rfl, rfl, rfl, rfl⟩
    · rw [ha]
  · intro l h0 n
    rw [finishGroup_thread _ _ _ (hlen ▸ h0), hth]
    have ha := (hw l (g0.thread l)).2.1 n
    by_cases hx : x.exec.toNat.testBit l <;> by_cases hc : x.cur.toNat.testBit l <;> simp [hx, hc] <;>
      first | exact ha | exact rdG_newG_noG _ _
  · intro l h0 n hn
    rw [finishGroup_thread _ _ _ (hlen ▸ h0), hth]
    have ha := (hw l (g0.thread l)).2.2 n hn
    by_cases hx : x.exec.toNat.testBit l <;> by_cases hc : x.cur.toNat.testBit l <;> simp [hx, hc] <;>
      first | exact ha | rfl
  · intro n
    have := hu g0.u n
    unfold rdU finishGroup
    rw [hgrp]
    exact this

theorem issueLanes_wrote {op : Nat} {o : OpInfo} {lane : Ctx → Nat → LaneW} {g : GroupRef} {w : IWord} {s : State} {x : Ctx}
    (h : ReadyNow op o g w s x) {gr : Nat → Nat → Option R32} {pr : Nat → Nat → Option Bool}
    (hw : ∀ l, (lane x l).Does (gr l) (pr l)) :
    ∃ t, issueLanes op o lane g w s = .next t ∧ Wrote x gr pr noG s t := by
  refine ⟨finish x (lane x) [] x.br.sr s, ?_, finish_wrote h.1 _ _ _ udoes_nil hw⟩
  unfold issueLanes
  rw [h.1]
  by_cases hc : x.o.cls = .s
  · simp [h.2 hc]
  · simp [hc]

theorem issueDraws_wrote {op : Nat} {o : OpInfo} {n : Ctx → Nat} {lane : Ctx → (Nat → Nat) → Nat → LaneW} {g : GroupRef} {w : IWord}
    {s : State} {x : Ctx} (h : ReadyNow op o g w s x) {gr : Nat → Nat → Option R32} {pr : Nat → Nat → Option Bool}
    (hw : ∀ l, (lane x (fun k => (srAfter (k + 1) x.br.sr).toNat) l).Does (gr l) (pr l)) :
    ∃ t, issueDraws op o n lane g w s = .next t ∧ Wrote x gr pr noG s t := by
  refine ⟨finish x _ [] (srAfter (n x) x.br.sr) s, ?_, finish_wrote h.1 _ _ _ udoes_nil hw⟩
  unfold issueDraws
  rw [h.1]
  by_cases hc : x.o.cls = .s
  · simp [h.2 hc]
  · simp [hc]

theorem issueUni_wrote {op : Nat} {o : OpInfo} {val : Ctx → Nat → R32} {g : GroupRef} {w : IWord} {s : State} {x : Ctx}
    (h : ReadyNow op o g w s x) :
    ∃ t, issueUni op o val g w s = .next t ∧ Wrote x (fun _ => noG) (fun _ => noP) (setsD x.f.d (val x x.low)) s t := by
  refine ⟨_, ?_, finish_wrote h.1 (fun _ => {}) _ x.br.sr (udoes_one _ _) (fun _ => does_none 0)⟩
  unfold issueUni
  rw [h.1]
  rfl

end Sys2Proof.Machine
end

