-- ==== Sys2Proof/Laws/Memory.lean ====
section
/-! SUPPORT. The laws of stored bytes: every write keeps the canonical form; a read after a write gives the byte written, and a read
elsewhere what it gave before. -/

namespace Sys2Proof.Machine

theorem wfFrom_mono {lo lo' : Nat} (h : lo' ≤ lo) : ∀ m : List Host.Cell, wfFrom lo m = true → wfFrom lo' m = true
  | [], _ => rfl
  | (c, x) :: r, hw => by
    simp only [wfFrom, Bool.and_eq_true, decide_eq_true_eq] at hw ⊢
    exact ⟨⟨le_trans h hw.1.1, hw.1.2⟩, hw.2⟩

theorem memWr_wfFrom (a : Nat) (b : Byte) : ∀ (m : List Host.Cell) (lo : Nat), lo ≤ a → wfFrom lo m = true →
    wfFrom lo (memWr m a b) = true
  | [], lo, h, _ => by
    by_cases hb : b = 0#8 <;> simp [memWr, hb, wfFrom, h]
  | (c, x) :: r, lo, h, hw => by
    simp only [wfFrom, Bool.and_eq_true, decide_eq_true_eq] at hw
    obtain ⟨⟨h1, h2⟩, h3⟩ := hw
    by_cases hc : c = a
    · subst hc
      by_cases hb : b = 0#8
      · simpa [memWr, hb] using wfFrom_mono (by omega) r h3
      · simp [memWr, hb, wfFrom, h1, h3]
    · by_cases hl : a < c
      · by_cases hb : b = 0#8
        · simp [memWr, hc, hl, hb, wfFrom, h1, h3]; exact h2
        · simp [memWr, hc, hl, hb, wfFrom, h, h3]; exact h2
      · have := memWr_wfFrom a b r (c + 1) (by omega) h3
        simp [memWr, hc, hl, wfFrom, h1, this]; exact h2

theorem memWr_wf {m : List Host.Cell} (a : Nat) (b : Byte) (h : Memory.wf m = true) : Memory.wf (memWr m a b) = true :=
  memWr_wfFrom a b m 0 (Nat.zero_le _) h

theorem memWrN_wf (n : Nat) : ∀ {m : List Host.Cell} (a v : Nat), Memory.wf m = true → Memory.wf (memWrN m n a v) = true := by
  induction n with
  | zero => intro m a v h; exact h
  | succ n ih => intro m a v h; exact ih _ _ (memWr_wf _ _ h)

theorem memRd_memWr_other (b : Byte) {a j : Nat} (h : a ≠ j) : ∀ m : List Host.Cell, memRd (memWr m a b) j = memRd m j
  | [] => by by_cases hb : b = 0#8 <;> simp [memWr, hb, memRd, h]
  | (c, x) :: r => by
    have ih := memRd_memWr_other b h r
    by_cases hc : c = a
    · subst hc; by_cases hb : b = 0#8 <;> simp [memWr, hb, memRd, h]
    · by_cases hl : a < c
      · by_cases hb : b = 0#8 <;> simp [memWr, hc, hl, hb, memRd, h]
      · simp [memWr, hc, hl, memRd, ih]

theorem memRd_wfFrom_low (a : Nat) : ∀ (m : List Host.Cell) (lo : Nat), a < lo → wfFrom lo m = true → memRd m a = 0
  | [], _, _, _ => rfl
  | (c, x) :: r, lo, h, hw => by
    simp only [wfFrom, Bool.and_eq_true, decide_eq_true_eq] at hw
    have hne : c ≠ a := by omega
    simpa [memRd, hne] using memRd_wfFrom_low a r (c + 1) (by omega) hw.2

theorem memRd_memWr_wfFrom (a : Nat) (b : Byte) : ∀ (m : List Host.Cell) (lo : Nat), wfFrom lo m = true →
    memRd (memWr m a b) a = b
  | [], _, _ => by by_cases hb : b = 0#8 <;> simp [memWr, hb, memRd]
  | (c, x) :: r, lo, hw => by
    simp only [wfFrom, Bool.and_eq_true, decide_eq_true_eq] at hw
    by_cases hc : c = a
    · subst hc
      by_cases hb : b = 0#8
      · simpa [memWr, hb] using memRd_wfFrom_low c r (c + 1) (by omega) hw.2
      · simp [memWr, hb, memRd]
    · by_cases hl : a < c
      · by_cases hb : b = 0#8
        · simpa [memWr, hc, hl, hb, memRd] using memRd_wfFrom_low a r (c + 1) (by omega) hw.2
        · simp [memWr, hc, hl, hb, memRd]
      · simpa [memWr, hc, hl, memRd] using memRd_memWr_wfFrom a b r (c + 1) hw.2

theorem memRd_memWr_same {m : List Host.Cell} (a : Nat) (b : Byte) (h : Memory.wf m = true) : memRd (memWr m a b) a = b :=
  memRd_memWr_wfFrom a b m 0 h

theorem memRd_memWrN_other (n : Nat) : ∀ {m : List Host.Cell} {a j : Nat} (v : Nat), j < a ∨ a + n ≤ j →
    memRd (memWrN m n a v) j = memRd m j := by
  induction n with
  | zero => intro m a j v _; rfl
  | succ n ih =>
    intro m a j v h
    rw [memWrN, ih _ (by omega), memRd_memWr_other _ (by omega)]

end Sys2Proof.Machine
end

