-- ==== Sys2Proof/Laws/Regs.lean ====
section
/-! SUPPORT. The laws of stored registers and their fields: a read after a write gives the value written, other registers and
other fields of the register keep theirs. -/

namespace Sys2Proof.Machine

open Sys2Proof

theorem putBits_eq (x hi lo v : Nat) (h : lo ≤ hi) :
    putBits x hi lo v = x / 2 ^ (hi + 1) * 2 ^ (hi + 1) + v % 2 ^ (hi + 1 - lo) * 2 ^ lo + x % 2 ^ lo := by
  have e : (2 : Nat) ^ (hi + 1) = 2 ^ (hi + 1 - lo) * 2 ^ lo := by rw [← pow_add]; congr 1; omega
  have h1 := Nat.div_add_mod x (2 ^ lo)
  have h2 := Nat.div_add_mod (x / 2 ^ lo) (2 ^ (hi + 1 - lo))
  have h3 : x / 2 ^ (hi + 1) = x / 2 ^ lo / 2 ^ (hi + 1 - lo) := by rw [Nat.div_div_eq_div_mul, e, Nat.mul_comm]
  unfold putBits bits
  rw [Nat.shiftRight_eq_div_pow, h3, e]
  set q := x / 2 ^ lo
  set r := x % 2 ^ lo
  set w := (2 : Nat) ^ (hi + 1 - lo)
  set p := (2 : Nat) ^ lo
  have h4 : x = q / w * (w * p) + q % w * p + r := by
    calc x = p * q + r := h1.symm
      _ = p * (w * (q / w) + q % w) + r := by rw [h2]
      _ = _ := by ring
  omega

theorem bits_putBits_same (x hi lo v : Nat) (h : lo ≤ hi) : bits (putBits x hi lo v) hi lo = v % 2 ^ (hi + 1 - lo) := by
  have e : (2 : Nat) ^ (hi + 1) = 2 ^ (hi + 1 - lo) * 2 ^ lo := by rw [← pow_add]; congr 1; omega
  have hp : 0 < (2 : Nat) ^ lo := Nat.two_pow_pos lo
  rw [putBits_eq _ _ _ _ h, bits, Nat.shiftRight_eq_div_pow, e]
  have : x / (2 ^ (hi + 1 - lo) * 2 ^ lo) * (2 ^ (hi + 1 - lo) * 2 ^ lo) + v % 2 ^ (hi + 1 - lo) * 2 ^ lo + x % 2 ^ lo
      = x % 2 ^ lo + 2 ^ lo * (x / (2 ^ (hi + 1 - lo) * 2 ^ lo) * 2 ^ (hi + 1 - lo) + v % 2 ^ (hi + 1 - lo)) := by ring
  rw [this, Nat.add_mul_div_left _ _ hp, Nat.div_eq_of_lt (Nat.mod_lt _ hp), Nat.zero_add, Nat.add_comm,
    Nat.add_mul_mod_self_right, Nat.mod_mod]

theorem bits_putBits_above (x hi lo v hi' lo' : Nat) (h : lo ≤ hi) (h' : hi < lo') :
    bits (putBits x hi lo v) hi' lo' = bits x hi' lo' := by
  have e : (2 : Nat) ^ (hi + 1) = 2 ^ (hi + 1 - lo) * 2 ^ lo := by rw [← pow_add]; congr 1; omega
  have hd : putBits x hi lo v / 2 ^ (hi + 1) = x / 2 ^ (hi + 1) := by
    rw [putBits_eq _ _ _ _ h, Nat.add_assoc, Nat.mul_comm, Nat.mul_add_div (Nat.two_pow_pos _)]
    have hlt : v % 2 ^ (hi + 1 - lo) * 2 ^ lo + x % 2 ^ lo < 2 ^ (hi + 1) := by
      have h1 := Nat.mod_lt v (Nat.two_pow_pos (hi + 1 - lo))
      have h2 := Nat.mod_lt x (Nat.two_pow_pos lo)
      have h3 := Nat.mul_le_mul_right (2 ^ lo) (Nat.succ_le_of_lt h1)
      rw [Nat.succ_mul] at h3
      rw [e]; omega
    rw [Nat.div_eq_of_lt hlt, Nat.add_zero]
  have split : ∀ y : Nat, y >>> lo' = y / 2 ^ (hi + 1) / 2 ^ (lo' - (hi + 1)) := by
    intro y
    rw [Nat.shiftRight_eq_div_pow, Nat.div_div_eq_div_mul, ← pow_add]; congr 2; omega
  unfold bits
  rw [split, split, hd]

theorem bits_putBits_below (x hi lo v hi' lo' : Nat) (h : lo ≤ hi) (h0 : lo' ≤ hi') (h' : hi' < lo) :
    bits (putBits x hi lo v) hi' lo' = bits x hi' lo' := by
  have hm : putBits x hi lo v % 2 ^ lo = x % 2 ^ lo := by
    have e : (2 : Nat) ^ (hi + 1) = 2 ^ (hi + 1 - lo) * 2 ^ lo := by rw [← pow_add]; congr 1; omega
    rw [putBits_eq _ _ _ _ h, e]
    have : x / (2 ^ (hi + 1 - lo) * 2 ^ lo) * (2 ^ (hi + 1 - lo) * 2 ^ lo) + v % 2 ^ (hi + 1 - lo) * 2 ^ lo + x % 2 ^ lo
        = x % 2 ^ lo + 2 ^ lo * (x / (2 ^ (hi + 1 - lo) * 2 ^ lo) * 2 ^ (hi + 1 - lo) + v % 2 ^ (hi + 1 - lo)) := by ring
    rw [this, Nat.add_mul_mod_self_left, Nat.mod_mod]
  have split : ∀ y : Nat, bits y hi' lo' = bits (y % 2 ^ lo) hi' lo' := by
    intro y
    apply Nat.eq_of_testBit_eq
    intro i
    simp only [bits, Nat.testBit_mod_two_pow, Nat.testBit_shiftRight]
    by_cases hi2 : i < hi' + 1 - lo'
    · have : lo' + i < lo := by omega
      simp [this]
    · simp [hi2]
  rw [split, hm, ← split]

/-- A well-formed field. -/
def Fld.ok (f : Fld) : Prop := f.lo ≤ f.hi ∧ f.hi < 64

theorem putBits_lt (x hi lo v : Nat) (h : lo ≤ hi) (hh : hi < 64) (hx : x < 2 ^ 64) : putBits x hi lo v < 2 ^ 64 := by
  have hb : ∀ i, 64 ≤ i → (putBits x hi lo v).testBit i = false := by
    intro i hi2
    have := bits_putBits_above x hi lo v i i h (by omega)
    have hx' : x.testBit i = false := Nat.testBit_eq_false_of_lt (lt_of_lt_of_le hx (Nat.pow_le_pow_right (by norm_num) hi2))
    have t : ∀ y, bits y i i = (y.testBit i).toNat := by
      intro y
      unfold bits
      have : i + 1 - i = 1 := by omega
      rw [this, pow_one, Nat.testBit, Nat.shiftRight_eq_div_pow]
      rcases Nat.mod_two_eq_zero_or_one (y / 2 ^ i) with h | h <;> simp [h, Nat.one_and_eq_mod_two]
    rw [t, t, hx'] at this
    cases hc : (putBits x hi lo v).testBit i
    · rfl
    · rw [hc] at this; simp at this
  exact Nat.lt_pow_two_of_testBit _ hb

@[simp] theorem setReg_id (x : Tower) (r : Reg) (i j v : Nat) : (x.setReg r i j v).id = x.id := rfl

theorem reg_setReg_same (x : Tower) (r : Reg) (i j v : Nat) : (x.setReg r i j v).reg r i j = v % 2 ^ 64 := by
  simp [Tower.reg, Tower.setReg]

theorem reg_setReg_other (x : Tower) (r r' : Reg) (i j i' j' v : Nat) (h : r.off i j ≠ r'.off i' j') :
    (x.setReg r i j v).reg r' i' j' = x.reg r' i' j' := by
  simp [Tower.reg, Tower.setReg, sfind_sset_other _ _ h]

/-- A stored register is a 64-bit value, with the Reset column of every register one. -/
theorem reg_lt (x : Tower) (r : Reg) (i j : Nat) (h : r.reset x.id i < 2 ^ 64) : x.reg r i j < 2 ^ 64 := by
  unfold Tower.reg
  split
  · exact BitVec.isLt _
  · exact h

theorem bits_mod_64 (x hi lo : Nat) (hh : hi < 64) : bits (x % 2 ^ 64) hi lo = bits x hi lo := by
  apply Nat.eq_of_testBit_eq
  intro i
  simp only [bits, Nat.testBit_mod_two_pow, Nat.testBit_shiftRight]
  by_cases h : i < hi + 1 - lo
  · have : lo + i < 64 := by omega
    simp [h, this]
  · simp [h]

/-- A field reads what was written to it, in its width. -/
theorem fget_fset_same (x : Tower) (f : Fld) (v i j : Nat) (h : f.lo ≤ f.hi) (hh : f.hi < 64) :
    (x.fset f v i j).fget f i j = v % 2 ^ (f.hi + 1 - f.lo) := by
  rw [Tower.fget, Tower.fset, reg_setReg_same, bits_mod_64 _ _ _ hh, bits_putBits_same _ _ _ _ h]

/-- A field of another register keeps its value. -/
theorem fget_fset_reg (x : Tower) (f f' : Fld) (v i j i' j' : Nat) (h : f.reg.off i j ≠ f'.reg.off i' j') :
    (x.fset f v i j).fget f' i' j' = x.fget f' i' j' := by
  rw [Tower.fget, Tower.fset, reg_setReg_other _ _ _ _ _ _ _ _ h, Tower.fget]

/-- Another field of the same register keeps its value. -/
theorem fget_fset_fld (x : Tower) (f f' : Fld) (v i j : Nat) (hr : f.reg = f'.reg) (h : f.lo ≤ f.hi) (h' : f'.lo ≤ f'.hi)
    (hh : f'.hi < 64) (hd : f.hi < f'.lo ∨ f'.hi < f.lo) : (x.fset f v i j).fget f' i j = x.fget f' i j := by
  rw [Tower.fget, Tower.fget, Tower.fset, ← hr, reg_setReg_same, bits_mod_64 _ _ _ hh]
  rcases hd with hd | hd
  · exact bits_putBits_above _ _ _ _ _ _ h hd
  · exact bits_putBits_below _ _ _ _ _ _ h h' hd

end Sys2Proof.Machine
end

