-- ==== Sys2Proof/Tests/Slice0.lean ====
section
/-! SUPPORT. Tests of single commands, checks of `Instr.wf` on ill-formed terms, and for each statement with hypotheses a
theorem that shows states and operands which meet them. Expected values are worked out by hand from the rules named. -/

namespace Sys2Proof.Tests

open Sys2Proof Sys2Proof.Machine

theorem opt_all {α : Type} {o : Option α} {P : α → Prop} [DecidablePred P] (h : (o.all fun e => decide (P e)) = true) :
    ∀ e, o = some e → P e := by
  rintro e rfl
  simpa using h

/-! Small states. -/

/-- A tower in service: its first 512 positions enabled, six stacks and eight ports, every rail good, two bricks live. -/
def tUp (t : TowerId) : Tower :=
  let x := Tower.cold t Fuses.sample { Store.init with imgA := none }
  let x := { x with
    enabled := Fuses.sample.enabled, lmap := [(0, 0), (1, 1)]
    sys := { x.sys with rails := 255, aux := true, boot := { x.sys.boot with restored := true }, mgmt := { x.sys.mgmt with up := true } } }
  ((((((x.fset Fld.glbTower_STATE 2).fset Fld.glbTower_HBM_STACKS 6).fset Fld.glbTower_PORTS 8).fset Fld.clkStat_CPLL_LOCK 1).fset
    Fld.clkStat_BPLL_LOCK 1).fset Fld.llcStat_HOMES 512).fset Fld.brkArray_WIDTH 64 0

/-- The module in service, its link to the host up. -/
def sUp : State := { State.reset with t0 := tUp .t0, t1 := tUp .t1, host := { HostPort.init with up := true } }

def b0 : BrickRef := ⟨.t0, 0⟩
def g0 : GroupRef := ⟨b0, 0, 0⟩

/-- A thread at the start of the code with g0 to g9 and predicates. -/
def th0 (l : Nat) : Thread :=
  ⟨0, false, none, [], [(0, BitVec.ofNat 32 (l + 3)), (1, 5), (2, 0x80000000), (3, 0xFFFFFFFF), (4, 40)], 0x05⟩

/-- A group of four threads and its launch, one block of which is resident. -/
def grp0 : Group where
  gid := gidOf 1 0 0
  block := 0
  index := 0
  alloc := 32
  threads := [th0 0, th0 1, th0 2, th0 3] ++ List.replicate 28 { Thread.init with exited := true }
  cur := 0xF
  refLane := 0
  u := [(0, 7)]
  pend := []
  gap := false
  sleep := none
  fpstat := 0
  timeHi := 0
  cycHi := 0
  fault := none
  held := false
  acq := none
  marks := []
  bound := none

def run0 : RunCtx where
  launch := 1
  ident := 9
  codeBase := 0x100000
  codeSize := 256
  entry := 0
  alloc := 32
  threads := 4
  spBytes := 4096
  spUnits := 0
  cluster := 1
  debug := false
  strictDead := false
  seed := 1
  nblock := 1
  wins := []
  lbrick := 0

def blk0 : Block := ⟨1, 0, 4, 1, 0, 0, 4096, 1, [], [], false, false⟩

/-- A brick whose group stands before the instruction with the words given. -/
def brI (op : Nat) (w : IWord) : Brick :=
  { Brick.init with
    run := some run0, blocks := [(0, blk0)], groups := [(0, grp0)]
    icache := [(0, BitVec.ofNat 1024 (op * 2 ^ 56 + w.lo.toNat + w.w2.toNat * 2 ^ 64))] }

def sI (op : Nat) (w : IWord) : State := sUp.setBrick b0 (brI op w)

/-- Format R with destination, sources and MOD (R67, R68). -/
def wR (d a b c mod : Nat) : IWord := ⟨BitVec.ofNat 56 (d * 2 ^ 41 + a * 2 ^ 33 + b * 2 ^ 25 + c * 2 ^ 17 + mod * 2 ^ 8), 0⟩

/-- Format I with destination, source, MOD and immediate (R69). -/
def wI (d a mod imm : Nat) : IWord := ⟨BitVec.ofNat 56 (2 ^ 54 + d * 2 ^ 41 + a * 2 ^ 33 + mod * 2 ^ 24 + imm), 0⟩

/-- Format X (R71). -/
def wX (d a b c mod w2 : Nat) : IWord :=
  ⟨BitVec.ofNat 56 (2 ^ 55 + d * 2 ^ 41 + a * 2 ^ 33 + b * 2 ^ 25 + c * 2 ^ 17 + mod * 2 ^ 8), BitVec.ofNat 64 w2⟩

/-- The attempt to issue succeeds, and what it sees meets a condition. -/
def goes (op : Nat) (sel : Fields → Bool) (o : OpInfo) (g : GroupRef) (w : IWord) (s : State) (P : Ctx → Prop)
    [∀ x, Decidable (P x)] : Bool := match prepare op sel o g w s with
  | .go x => decide (P x)
  | _ => false

theorem goes_of {op : Nat} {sel : Fields → Bool} {o : OpInfo} {g : GroupRef} {w : IWord} {s : State} {P : Ctx → Prop}
    [∀ x, Decidable (P x)] (h : goes op sel o g w s P = true) : ∃ x, prepare op sel o g w s = .go x ∧ P x := by
  unfold goes at h
  split at h
  · next x hx => exact ⟨x, hx, of_decide_eq_true h⟩
  · cases h

/-- The instruction is ready at the group of `sI`. -/
def isReady (op : Nat) (o : OpInfo) (w : IWord) : Bool := goes op (fun _ => true) o g0 w (sI op w) fun x =>
  x.o.cls = .s → (sget Sched.init x.br.scheds g0.sched.val).sfu = false

theorem ready_of {rows : List (Nat × OpInfo × IWord)} (h : (rows.all fun r => isReady r.1 r.2.1 r.2.2) = true) :
    ∀ r ∈ rows, ∃ x, ReadyNow r.1 r.2.1 g0 r.2.2 (sI r.1 r.2.2) x :=
  fun r hr => goes_of (List.all_eq_true.mp h r hr)

/-- The attempt to issue ends in a decode fault. -/
def faults (op : Nat) (o : OpInfo) (w : IWord) (s : State) : Bool := match prepare op (fun _ => true) o g0 w s with
  | .fault _ _ _ _ _ => true
  | _ => false

theorem faults_of {op : Nat} {o : OpInfo} {w : IWord} {s : State} (h : faults op o w s = true) :
    ∃ grp c l pc i, prepare op (fun _ => true) o g0 w s = .fault grp c l pc i := by
  unfold faults at h
  split at h
  · next a b c d e hx => exact ⟨a, b, c, d, e, hx⟩
  · cases h


/-! Checks that stand for the terms in which statements speak of memory. -/

def homeFreeB (s : State) (t h : TowerId) (tg : Target) (line : Nat) : Bool :=
  decide (t = h ∨ (s.tw h).serving = true) && decide (line ∉ (s.tw h).mem.retired) && ((s.tw h).mem.dead.all fun d => decide (d.line ≠ line)) &&
  !(s.tw h).mem.engHeld line && ((s.tw h).mem.merge.all fun e => decide (e.sector / 4 ≠ line)) &&
  (sfind (s.tw h).mem.dir line).all fun e => decide (e.locked = false ∧ e.h = .hi ∧ e.v = false ∧ (tg.isHbm = false → e.valid = 0))

theorem homeFree_of {s : State} {t h : TowerId} {tg : Target} {line : Nat} (k : homeFreeB s t h tg line = true) : HomeFree s t h tg line := by
  simp only [homeFreeB, Bool.and_eq_true, decide_eq_true_eq, List.all_eq_true, Bool.not_eq_true'] at k
  obtain ⟨⟨⟨⟨⟨k1, k2⟩, k3⟩, k4⟩, k5⟩, k6⟩ := k
  exact ⟨k1, k2, k3, k4, k5, opt_all k6⟩

def llcHoldsB (s : State) (h : TowerId) (tg : Target) (line : Nat) (secs : List Nat) : Bool :=
  !tg.isHbm || (sfind (s.tw h).mem.dir line).any fun e => secs.all fun k => e.valid.testBit k

theorem llcHolds_of {s : State} {h : TowerId} {tg : Target} {line : Nat} {secs : List Nat} (k : llcHoldsB s h tg line secs = true) :
    LlcHolds s h tg line secs := by
  intro e
  simp only [llcHoldsB, e, Bool.not_true, Bool.false_or, Option.any_eq_true, List.all_eq_true] at k
  exact k

def homeLineB (s : State) (t h : TowerId) (tg : Target) (line : Nat) (l : Line) : Bool :=
  homeFreeB s t h tg line && ((s.tw h).mem.lost.all fun p => decide (p.2.1 ≠ line)) && llcHoldsB s h tg line [0, 1, 2, 3] &&
  (List.range 4).all fun k => decide (eccDecode ((s.tw h).mem.now (line * 4 + k)).1.1 ((s.tw h).mem.now (line * 4 + k)).1.2 = (.clean, lineSector l k))

theorem homeLine_of {s : State} {t h : TowerId} {tg : Target} {line : Nat} {l : Line} (k : homeLineB s t h tg line l = true) :
    HomeLine s t h tg line l := by
  simp only [homeLineB, Bool.and_eq_true, List.all_eq_true, List.mem_range, decide_eq_true_eq] at k
  exact ⟨homeFree_of k.1.1.1, k.1.1.2, llcHolds_of k.1.2, k.2⟩

/-- The clean sector that an agent of a tower finds. -/
def secB (s : State) (t : TowerId) (q : Nat) : Option Sector :=
  let tg := s.targetB (q / 4 * 128)
  match tg.home? with
  | none => none
  | some h =>
    if homeFreeB s t h tg (q / 4) && llcHoldsB s h tg (q / 4) [q % 4] && decide (h = t ∨ sfind (s.tw t).mem.vis (q / 4) = none) &&
      (s.tw h).mem.lost.all fun p => decide (p.2.1 ≠ q / 4) then
      match eccDecode ((s.tw h).mem.now q).1.1 ((s.tw h).mem.now q).1.2 with
      | (.clean, d) => some d
      | _ => none
    else none

theorem byteIs_of {s : State} {t : TowerId} {a b : Nat} {d : Sector} (k : secB s t (a / 32) = some d) (hb : b = nbyte d.toNat (a % 32)) :
    ByteIs s t a b := by
  have e : a / 32 / 4 = a / 128 := by omega
  unfold secB at k
  rw [e] at k
  simp only at k
  split at k
  · cases k
  · next h hh =>
    split at k
    · next hc =>
      simp only [Bool.and_eq_true, decide_eq_true_eq, List.all_eq_true] at hc
      split at k
      · next d' hd => cases k; exact ⟨h, d, hh, homeFree_of hc.1.1.1, llcHolds_of hc.1.1.2, hc.1.2, hc.2, hd, hb⟩
      · cases k
    · cases k

def engHasB (s : State) (t : TowerId) (addr n v : Nat) : Bool :=
  decide (v < 2 ^ (8 * n)) && (List.range ((addr % 32 + n + 31) / 32)).all fun i => match secB s t (addr / 32 + i) with
    | some d => (List.range 32).all fun k => let a := (addr / 32 + i) * 32 + k
      decide (a < addr ∨ addr + n ≤ a ∨ nbyte v (a - addr) = nbyte d.toNat k)
    | none => false

theorem engHas_of {s : State} {t : TowerId} {addr n v : Nat} (k : engHasB s t addr n v = true) : EngHas s t addr n v := by
  simp only [engHasB, Bool.and_eq_true, decide_eq_true_eq, List.all_eq_true, List.mem_range] at k
  refine ⟨k.1, fun j hj => ?_⟩
  have h := k.2 ((addr + j) / 32 - addr / 32) (by omega)
  rw [show addr / 32 + ((addr + j) / 32 - addr / 32) = (addr + j) / 32 by omega] at h
  split at h
  · next d hd =>
    simp only [List.all_eq_true, List.mem_range, decide_eq_true_eq] at h
    have h1 := h ((addr + j) % 32) (by omega)
    rw [show (addr + j) / 32 * 32 + (addr + j) % 32 = addr + j by omega, show addr + j - addr = j by omega] at h1
    exact byteIs_of hd (by omega)
  · cases h

def lineFitsB (s : State) (t : TowerId) (line : Nat) : Bool :=
  let tg := s.targetB (line * 128)
  match tg.home? with
  | some h => homeFreeB s t h tg line && llcHoldsB s h tg line []
  | none => false

def engFitsB (s : State) (t : TowerId) (addr n : Nat) : Bool := (List.range (lineCount addr n)).all fun i => lineFitsB s t (addr / 128 + i)

theorem engFits_of {s : State} {t : TowerId} {addr n : Nat} (k : engFitsB s t addr n = true) : EngFits s t addr n := by
  intro j hj
  simp only [engFitsB, List.all_eq_true, List.mem_range] at k
  have h := k ((addr + j) / 128 - addr / 128) (by unfold lineCount; split <;> omega)
  rw [show addr / 128 + ((addr + j) / 128 - addr / 128) = (addr + j) / 128 by omega] at h
  unfold lineFitsB at h
  simp only at h
  split at h
  · next hm hh =>
    simp only [Bool.and_eq_true] at h
    exact ⟨hm, hh, homeFree_of h.1, llcHolds_of h.2⟩
  · cases h

def portHasB (s : State) (b : BrickRef) (who addr n v : Nat) : Bool :=
  decide (v < 2 ^ (8 * n)) && (List.range (lineCount addr n)).all fun i =>
    ((s.targetB ((addr / 128 + i) * 128)).home?).isSome &&
    match (s.brick b).ebuf.find? (fun e => e.covers who (addr / 128 + i) (secsOfMask (lineSecs addr n i))) with
    | some e => e.full && match e.value with
      | .ok l => (List.range 128).all fun k => let a := (addr / 128 + i) * 128 + k
        decide (a < addr ∨ addr + n ≤ a ∨ nbyte v (a - addr) = nbyte l.toNat k)
      | .error _ => false
    | none => false

theorem portHas_of {s : State} {b : BrickRef} {who addr n v : Nat} (k : portHasB s b who addr n v = true) : PortHas s b who addr n v := by
  simp only [portHasB, Bool.and_eq_true, decide_eq_true_eq, List.all_eq_true, List.mem_range] at k
  refine ⟨k.1, fun i hi => ?_⟩
  obtain ⟨h1, h2⟩ := k.2 i hi
  refine ⟨h1, ?_⟩
  split at h2
  · next e he =>
    simp only [Bool.and_eq_true] at h2
    obtain ⟨h3, h4⟩ := h2
    split at h4
    · next l hl =>
      simp only [List.all_eq_true, List.mem_range, decide_eq_true_eq] at h4
      refine ⟨e, l, he, h3, hl, fun j hj hc => ?_⟩
      have h5 := h4 ((addr + j) % 128) (by omega)
      rw [← hc, show (addr + j) / 128 * 128 + (addr + j) % 128 = addr + j by omega, show addr + j - addr = j by omega] at h5
      omega
    · cases h4
  · cases h2

def imgHasB (s : State) (b : BrickRef) (who block addr n v : Nat) : Bool :=
  if isSp addr then match sfind (s.brick b).blocks block with
    | some k => k.spOk addr n && decide (v = k.spRd (pbid b) (addr % 2 ^ 32) n)
    | none => false
  else (s.tw b.t).kwinOk addr n && portHasB s b who addr n v

theorem imgHas_of {s : State} {b : BrickRef} {who block addr n v : Nat} (k : imgHasB s b who block addr n v = true) :
    ImgHas s b who block addr n v := by
  unfold imgHasB at k
  unfold ImgHas
  split at k
  · next hs =>
    rw [if_pos hs]
    split at k
    · next z hz => simp only [Bool.and_eq_true, decide_eq_true_eq] at k; exact ⟨z, hz, k.1, k.2⟩
    · cases k
  · next hs =>
    rw [if_neg hs]
    simp only [Bool.and_eq_true] at k
    exact ⟨k.1, portHas_of k.2⟩

def imgFitsB (s : State) (b : BrickRef) (block addr n : Nat) : Bool :=
  if isSp addr then (sfind (s.brick b).blocks block).any fun k => k.spOk addr n
  else (s.tw b.t).kwinOk addr n && (List.range (lineCount addr n)).all fun i => ((s.targetB ((addr / 128 + i) * 128)).home?).isSome

theorem imgFits_of {s : State} {b : BrickRef} {block addr n : Nat} (k : imgFitsB s b block addr n = true) : ImgFits s b block addr n := by
  unfold imgFitsB at k
  unfold ImgFits
  split at k
  · next hs => rw [if_pos hs]; simpa [Option.any_eq_true] using k
  · next hs =>
    rw [if_neg hs]
    simp only [Bool.and_eq_true, List.all_eq_true, List.mem_range] at k
    exact k

def rtHasB (s : State) (t : TowerId) (j : RtJob) (addr n v : Nat) : Bool :=
  if isSp addr then match sfind (s.brick (j.br t)).blocks j.block with
    | some k => k.spOk addr n && decide (v = k.spRd (pbid (j.br t)) (addr % 2 ^ 32) n)
    | none => false
  else (s.tw t).kwinOk addr n && engHasB s t addr n v

theorem rtHas_of {s : State} {t : TowerId} {j : RtJob} {addr n v : Nat} (k : rtHasB s t j addr n v = true) : RtHas s t j addr n v := by
  unfold rtHasB at k
  unfold RtHas
  split at k
  · next hs =>
    rw [if_pos hs]
    split at k
    · next z hz => simp only [Bool.and_eq_true, decide_eq_true_eq] at k; exact ⟨z, hz, k.1, k.2⟩
    · cases k
  · next hs =>
    rw [if_neg hs]
    simp only [Bool.and_eq_true] at k
    exact ⟨k.1, engHas_of k.2⟩

def rtFitsB (s : State) (t : TowerId) (j : RtJob) (addr n : Nat) : Bool :=
  if isSp addr then (sfind (s.brick (j.br t)).blocks j.block).isSome else (s.tw t).kwinOk addr n && engFitsB s t addr n

theorem rtFits_of {s : State} {t : TowerId} {j : RtJob} {addr n : Nat} (k : rtFitsB s t j addr n = true) : RtFits s t j addr n := by
  unfold rtFitsB at k
  unfold RtFits
  split at k
  · next hs => rw [if_pos hs]; exact k
  · next hs => rw [if_neg hs]; simp only [Bool.and_eq_true] at k; exact ⟨k.1, engFits_of k.2⟩

/-! Witnesses: the instructions. -/

theorem witness_StepRunsFrontCommand : ({ sUp with pending := [.heartbeat .t0] } : State).pending = .heartbeat .t0 :: [] := rfl

theorem witness_IntegerArithmeticResults : ∀ r ∈ ([(0x10, infoIadd, wR 5 0 1 0 0x48), (0x11, infoIadd, wI 5 0 0 3),
    (0x12, infoIaddc, wR 5 0 1 0 2), (0x17, infoIadd64, wR 6 0 2 0 0), (0x13, infoDAB true 0, wR 5 0 1 0 0),
    (0x14, infoDAB true 0x100, wR 5 0 1 0 0x100), (0x15, infoDABC false true 0, wR 5 0 1 2 0), (0x16, infoImac64, wR 6 0 1 2 0),
    (0x18, infoDAB true 0x100, wR 5 0 2 0 0), (0x19, infoDAB true 0x100, wR 5 0 2 0 0x100), (0x1A, infoDA, wR 5 2 0 0 0),
    (0x1B, infoDABC false true 0x180, wR 5 0 3 1 0x80)] : List (Nat × OpInfo × IWord)),
    ∃ x, ReadyNow r.1 r.2.1 g0 r.2.2 (sI r.1 r.2.2) x := ready_of (by decide +kernel)

theorem witness_LogicAndShiftResults : ∀ r ∈ ([(0x20, infoDABC true true 0x0FF, wR 5 0 1 2 0x96), (0x21, infoDAB true 0, wR 5 0 4 0 0),
    (0x22, infoDAB true 0x100, wR 5 2 4 0 0x100), (0x23, infoDABC false false 0x100, wR 5 0 1 2 0), (0x24, infoDAB true 0x100, wR 5 3 1 0 0),
    (0x25, infoDABC false true 0, wR 5 3 1 0 0), (0x26, infoDA, wR 5 3 0 0 0), (0x27, infoDA, wR 5 1 0 0 0), (0x28, infoDA, wR 5 1 0 0 0),
    (0x29, infoDABC false true 0x0FF, wR 5 0 1 2 0x11)] : List (Nat × OpInfo × IWord)),
    ∃ x, ReadyNow r.1 r.2.1 g0 r.2.2 (sI r.1 r.2.2) x := ready_of (by decide +kernel)

theorem witness_TernBitIsTableBit : (31 : Nat) < 32 := by decide
theorem witness_LzcCountsLeadingZeros : (1 : R32) ≠ 0 ∧ 32 - lzc32 1 ≤ 1 := by decide

/-- p = 31 leaves one bit of a longer field, and p = 32 none. -/
theorem witness_BitFieldResults : (1 : Nat) = min ((BitVec.ofNat 32 0x81F).toNat / 256 % 64) (32 - (BitVec.ofNat 32 0x81F).toNat % 64) ∧
    (0 : Nat) = min ((BitVec.ofNat 32 0x820).toNat / 256 % 64) (32 - (BitVec.ofNat 32 0x820).toNat % 64) := by decide

theorem witness_CompareAndPredicateResults : ∀ r ∈ ([(0x30, infoPcmp, wR 1 0 1 0 0x80), (0x31, infoPcmp, wR 1 0 1 0 0),
    (0x32, infoPcmpH, wR 2 0 1 0 0), (0x33, infoPfun, wR 1 0 1 2 0x96), (0x34, infoSel, wR 5 0 1 0 8), (0x35, infoPredw, wR 5 0 0 0 0),
    (0x36, infoWpred, wR 0 0 0 0 7), (0x37, infoTally, wR 5 0 0 0 0x180), (0x38, infoXlane, wR 5 0 1 0 0xD0)] :
    List (Nat × OpInfo × IWord)), ∃ x, ReadyNow r.1 r.2.1 g0 r.2.2 (sI r.1 r.2.2) x := ready_of (by decide +kernel)

theorem witness_MoveAndUniformResults : (∀ r ∈ ([(0x00, infoNop, wR 0 0 0 0 0), (0x40, infoMov, wI 5 0 0 0xFFFFFF),
    (0x41, infoMov64, wX 6 0 0 0 0 0x123456789), (0x42, infoGetsr, wR 5 0 0x10 0 0), (0x43, infoPutsr, wR 0 0 0x14 0 0), (0x44, infoUniMov, wR 3 0 0 0 0),
    (0x45, infoUni 0, wR 3 0 1 0 0), (0x46, infoUni 0, wI 3 0 0 5), (0x47, infoUniTern, wR 3 0 1 2 0x96), (0x48, infoUni 0x100, wR 3 0 1 0 0x100),
    (0x49, infoUniCmp, wR 1 0 1 0 0x80)] : List (Nat × OpInfo × IWord)), ∃ x, ReadyNow r.1 r.2.1 g0 r.2.2 (sI r.1 r.2.2) x) ∧
    (∃ x, prepare 0x42 (fun _ => true) infoGetsr g0 (wR 5 0 0x10 0 0) (sI 0x42 (wR 5 0 0x10 0 0)) = .go x ∧ x.exec ≠ 0) :=
  ⟨ready_of (by decide +kernel), goes_of (by decide +kernel)⟩

theorem witness_FloatArithmeticResults : ∀ r ∈ ([(0x50, infoF true rmArith, wI 5 0 0 0x3F8000), (0x51, infoF true rmArith, wR 5 0 1 0 0),
    (0x52, infoFmac, wR 5 0 1 2 0), (0x53, infoF true rmZero, wR 5 0 2 0 0), (0x54, infoF true rmZero, wR 5 0 2 0 0), (0x60, infoH rmArith, wR 5 0 1 0 0),
    (0x61, infoH rmArith, wR 5 0 1 0 0), (0x62, infoHmac, wR 5 0 1 2 0), (0x63, infoH rmZero, wR 5 0 1 0 0), (0x64, infoH rmZero, wR 5 0 1 0 0)] :
    List (Nat × OpInfo × IWord)), ∃ x, ReadyNow r.1 r.2.1 g0 r.2.2 (sI r.1 r.2.2) x := ready_of (by decide +kernel)

theorem witness_ConversionResults : ∀ r ∈ ([(0x70, infoCvt, wR 5 0 0 0 0x20), (0x71, infoCvtpk, wR 5 0 1 0 0x20), (0x72, infoCvtupk, wR 5 0 0 0 0x20),
    (0x73, infoMxpack, wR 5 0 0 0 0xA0), (0x74, infoMxunpack, wR 5 0 0 0 0xA0), (0x75, infoFint, wR 5 0 0 0 0), (0x80, infoTrans, wR 5 0 0 0 0)] :
    List (Nat × OpInfo × IWord)), ∃ x, ReadyNow r.1 r.2.1 g0 r.2.2 (sI r.1 r.2.2) x := ready_of (by decide +kernel)

/-- A state of `sI` with other contents of the launch, group or brick. -/
def sJ (op : Nat) (w : IWord) (f : Brick → Brick) : State := (sI op w).modBrick b0 f
def setG (r : Nat) (v : R32) (b : Brick) : Brick :=
  { b with groups := b.groups.map fun p => (p.1, { p.2 with threads := p.2.threads.map fun t => wrG t r v }) }
def modRun (f : RunCtx → RunCtx) (b : Brick) : Brick := { b with run := b.run.map f }
def modGrp (f : Group → Group) (b : Brick) : Brick := { b with groups := b.groups.map fun p => (p.1, f p.2) }

theorem witness_ControlFlowResults :
    (∀ r ∈ ([(0x01, infoBr true false false, wI 0 0 0 2), (0x03, infoBr true true false, wI 5 0 0 2), (0x07, infoPlainB false true fun _ => true, wR 0 0 0 0 0),
      (0x0A, infoPlainB true true fun f => decide (f.imm24 < 2 ^ 16), wI 0 0 0 9), (0x06, infoPlainB false false fun _ => true, wR 0 0 0 0 0)] :
      List (Nat × OpInfo × IWord)), ∃ x, ReadyNow r.1 r.2.1 g0 r.2.2 (sI r.1 r.2.2) x) ∧
    (∀ r ∈ ([(0x02, false, wR 0 4 0 0 0), (0x04, true, wR 5 4 0 0 0), (0x05, false, wR 0 4 0 0 0)] : List (Nat × Bool × IWord)),
      ∃ x, prepare r.1 (fun _ => true) (infoBr false r.2.1 true) g0 r.2.2 (sI r.1 r.2.2) = .go x ∧
        ∀ l < 32, x.exec.toNat.testBit l = true → (x.a l).toNat % 8 = 0 ∧ (x.a l).toNat < x.run.codeSize) ∧
    (∃ x, prepare 0x08 (fun _ => true) (infoPlainB true false fun f => decide (f.imm24 < 2 ^ 16)) g0 (wI 0 0 0 7) (sI 0x08 (wI 0 0 0 7)) = .go x ∧
      lowLane x.exec = some 0) ∧
    (∃ x, prepare 0x09 (fun _ => true) (infoPlainB false true fun _ => true) g0 (wR 0 0 0 0 0) (sI 0x09 (wR 0 0 0 0 0)) = .go x ∧ x.run.debug = false) ∧
    (∃ x, prepare 0x09 (fun _ => true) (infoPlainB false true fun _ => true) g0 (wR 0 0 0 0 0)
      (sJ 0x09 (wR 0 0 0 0 0) (modRun fun r => { r with debug := true })) = .go x ∧ x.run.debug = true) := by
  refine ⟨ready_of (by decide +kernel), ?_, goes_of (by decide +kernel), goes_of (by decide +kernel), goes_of (by decide +kernel)⟩
  intro r hr
  fin_cases hr <;> exact goes_of (by decide +kernel)

/-- A memory word: offset, SIZE, ORDER, SCOPE and AOP. -/
def wM (d a b c off size order scope aop : Nat) : IWord :=
  wX d a b c 0 (off * 2 ^ 32 + size * 2 ^ 29 + order * 2 ^ 26 + scope * 2 ^ 23 + aop * 2 ^ 16)

/-- Every lane of g8 and g9 holds the pair 0x200000, in a window of the launch that grants writes. -/
def sM (op : Nat) (w : IWord) : State := sJ op w fun b => setG 8 0x200000 (setG 9 0 (modRun (fun r =>
  { r with wins := [⟨0x200000, 0x100000, true, false⟩], cluster := 2 }) b))

theorem witness_IssueTimeFaults :
    (∃ x, prepare 0x02 (fun _ => true) (infoBr false false true) g0 (wR 0 0 0 0 0) (sI 0x02 (wR 0 0 0 0 0)) = .go x ∧
      (x.exec.toNat.testBit 0 = true ∧ (x.a 0).toNat % 8 ≠ 0)) ∧
    (∃ x, prepare 0x02 (fun _ => true) (infoBr false false true) g0 (wR 0 4 0 0 0) (sJ 0x02 (wR 0 4 0 0 0) (setG 4 256)) = .go x ∧
      (x.exec.toNat.testBit 0 = true ∧ x.run.codeSize ≤ (x.a 0).toNat)) ∧
    (∃ x, prepare 0xA4 (fun _ => true) (infoMem .g .load) g0 (wM 5 8 0 0 2 2 0 0 0) (sM 0xA4 (wM 5 8 0 0 2 2 0 0 0)) = .go x ∧
      (sfind x.br.l1in g0.sched.val = none ∧ x.grp.acq = none ∧ x.f.mOrder.testBit 1 = false ∧
        firstFault (sM 0xA4 (wM 5 8 0 0 2 2 0 0 0)) x .g false = some (0x10, 0))) ∧
    (∃ grp c l pc i, prepare 0x10 (fun _ => true) infoIadd g0 (wR 40 0 1 0 0) (sI 0x10 (wR 40 0 1 0 0)) = .fault grp c l pc i) :=
  ⟨goes_of (by decide +kernel), goes_of (by decide +kernel), goes_of (by decide +kernel), faults_of (by decide +kernel)⟩

theorem witness_ScratchpadAccessResults :
    (∃ x, MemReady 0xA1 .sp .store g0 (wM 5 0 0 0 0xFF9 0 0 0 0) (sI 0xA1 (wM 5 0 0 0 0xFF9 0 0 0 0)) x) ∧
    (∃ x, MemReady 0xA0 .sp .load g0 (wM 5 4 0 0 8 2 0 0 0) (sI 0xA0 (wM 5 4 0 0 8 2 0 0 0)) x) ∧
    (∃ x, MemReady 0xB0 .sp .atom g0 (wM 5 4 1 0 8 2 0 0 0) (sI 0xB0 (wM 5 4 1 0 8 2 0 0 0)) x) ∧
    (∃ x, prepare 0xB0 (fun _ => true) (infoMem .sp .atom) g0 (wM 5 4 1 0 8 2 0 0 0)
      (sJ 0xB0 (wM 5 4 1 0 8 2 0 0 0) (modGrp fun q => { q with threads := th0 0 :: List.replicate 31 { Thread.init with exited := true }, cur := 1 })) = .go x ∧ x.exec = 1#32 <<< 0) :=
  ⟨goes_of (by decide +kernel), goes_of (by decide +kernel), goes_of (by decide +kernel), goes_of (by decide +kernel)⟩

/-- The rank of a cluster of two other than the block's own. -/
def wC (b off size : Nat) : IWord := wM 6 4 b 0 (0x80000 + off) size 0 0 0

theorem witness_GlobalAndClusterAccessIssue :
    (∃ x, MemReady 0xA2 .csp .load g0 (wC 0 8 2) (sM 0xA2 (wC 0 8 2)) x) ∧ (∃ x, MemReady 0xA3 .csp .store g0 (wC 0 8 2) (sM 0xA3 (wC 0 8 2)) x) ∧
    (∃ x, MemReady 0xB1 .csp .atom g0 (wC 1 8 2) (sM 0xB1 (wC 1 8 2)) x) ∧
    (∃ x, MemReady 0xA4 .g .load g0 (wM 5 8 0 0 4092 2 0 0 0) (sM 0xA4 (wM 5 8 0 0 4092 2 0 0 0)) x) ∧
    (∃ x, MemReady 0xA5 .g .store g0 (wM 5 8 0 0 4 2 0 0 0) (sM 0xA5 (wM 5 8 0 0 4 2 0 0 0)) x) ∧
    (∃ x, MemReady 0xA6 .g .prefetch g0 (wM 0 8 0 0 4 2 0 0 0) (sM 0xA6 (wM 0 8 0 0 4 2 0 0 0)) x) ∧
    (∃ x, MemReady 0xB2 .g .atom g0 (wM 5 8 1 0 4 2 0 3 0) (sM 0xB2 (wM 5 8 1 0 4 2 0 3 0)) x) ∧
    (∃ x, MemReady 0xB3 .g .red g0 (wM 0 8 1 0 4 2 0 3 0) (sM 0xB3 (wM 0 8 1 0 4 2 0 3 0)) x) ∧
    (∃ x, prepare 0xB4 (fun _ => true) infoFence g0 (wR 0 0 0 0 0x1B0) (sI 0xB4 (wR 0 0 0 0 0x1B0)) = .go x ∧
      (sfind x.br.l1in g0.sched.val = none ∧ x.grp.acq = none ∧ x.br.mxOut x.grp.gid = false ∧
        x.br.released x.grp.gid (bits x.f.mod 6 4) = true)) :=
  ⟨goes_of (by decide +kernel), goes_of (by decide +kernel), goes_of (by decide +kernel), goes_of (by decide +kernel), goes_of (by decide +kernel),
    goes_of (by decide +kernel), goes_of (by decide +kernel), goes_of (by decide +kernel), goes_of (by decide +kernel)⟩

/-- A load of a constant window, and atomics that the L1 performs. -/
theorem witness_GlobalAndClusterAccessIssue_const :
    (∃ x, prepare 0xA4 (fun _ => true) (infoMem .g .load) g0 (wM 5 8 0 0 4092 2 0 0 0) (sJ 0xA4 (wM 5 8 0 0 4092 2 0 0 0) fun b =>
        setG 8 0x200000 (setG 9 0 (modRun (fun r => { r with wins := [⟨0x200000, 0x100000, false, true⟩] }) b))) = .go x ∧
      (x.exec ≠ 0 ∧ sfind x.br.l1in g0.sched.val = none ∧ x.grp.acq = none ∧ x.f.mOrder.testBit 1 = false ∧ x.f.mOrder.testBit 0 = false ∧
        x.f.mSize ≤ 3 ∧ x.f.mHint ≠ 4 ∧ ∀ l, l < 32 → x.exec.toNat.testBit l = true → x.run.winConst (laneAddr x .g l).toNat x.f.mBytes = true)) ∧
    (∃ x, prepare 0xB2 (fun _ => true) (infoMem .g .atom) g0 (wM 5 8 1 0 4 2 0 1 0) (sM 0xB2 (wM 5 8 1 0 4 2 0 1 0)) = .go x ∧
      (x.f.mScope < 2 ∧ firstFault (sM 0xB2 (wM 5 8 1 0 4 2 0 1 0)) x .g true = none ∧
        ∀ l, l < 32 → x.exec.toNat.testBit l = true → (sM 0xB2 (wM 5 8 1 0 4 2 0 1 0)).targetB (laneAddr x .g l).toNat ≠ .host)) ∧
    (∃ x, prepare 0xB3 (fun _ => true) (infoMem .g .red) g0 (wM 0 8 1 0 4 2 3 1 0) (sM 0xB3 (wM 0 8 1 0 4 2 3 1 0)) = .go x ∧
      (x.f.mScope < 2 ∧ x.br.released x.grp.gid 1 = true ∧ firstFault (sM 0xB3 (wM 0 8 1 0 4 2 3 1 0)) x .g true = none ∧
        ∀ l, l < 32 → x.exec.toNat.testBit l = true → (sM 0xB3 (wM 0 8 1 0 4 2 3 1 0)).targetB (laneAddr x .g l).toNat ≠ .host)) :=
  ⟨goes_of (by decide +kernel), goes_of (by decide +kernel), goes_of (by decide +kernel)⟩

/-- A matrix word: FMT in [31:28], TIMEOUT and the other second-word fields as given. -/
def wMx (d a b c fmt rest : Nat) : IWord := wX d a b c 0 (fmt * 2 ^ 28 + rest)

theorem witness_MatrixInstructionIssue :
    (∃ x, prepare 0xC0 (fun _ => true) infoWload g0 (wMx 0 8 0 0 1 0) (sM 0xC0 (wMx 0 8 0 0 1 0)) = .go x ∧
      ((x.grp.acq = none ∧ x.grp.bound = none ∧ x.br.mx.queue.length < 16) ∧
        imgFault (sM 0xC0 (wMx 0 8 0 0 1 0)) .t0 x.run x.blk x.imgAddr (imgBytes x.f.xFmt 1 64 x.f.xSparse) false = none)) ∧
    (∃ x, prepare 0xC1 (fun _ => true) infoSwap g0 (wMx 0 0 0 0 0 0) (sM 0xC1 (wMx 0 0 0 0 0 0)) = .go x ∧
      (x.grp.acq = none ∧ x.grp.bound = none ∧ x.br.mx.queue.length < 16)) ∧
    (∃ x, prepare 0xC2 (fun _ => true) infoStream g0 (wMx 0 8 1 2 1 0) (sM 0xC2 (wMx 0 8 1 2 1 0)) = .go x ∧
      ((x.grp.acq = none ∧ x.grp.bound = none ∧ x.br.mx.queue.length < 16) ∧ (1 ≤ (x.b x.low).toNat ∧ (x.b x.low).toNat ≤ 64) ∧
        imgFault (sM 0xC2 (wMx 0 8 1 2 1 0)) .t0 x.run x.blk x.imgAddr (imgBytes x.f.xFmt 1 (x.b x.low).toNat 0) false = none)) ∧
    (∃ x, prepare 0xC3 (fun _ => true) infoDrain g0 (wMx 0 8 0 0 1 0) (sM 0xC3 (wMx 0 8 0 0 1 0)) = .go x ∧
      ((x.grp.acq = none ∧ x.grp.bound = none ∧ x.br.mx.queue.length < 16) ∧
        imgFault (sM 0xC3 (wMx 0 8 0 0 1 0)) .t0 x.run x.blk x.imgAddr (imgBytes x.f.xFmt 1 (x.br.mx.extentAhead x.f.xBuf) 0) true = none)) ∧
    (∃ x, prepare 0xC4 (fun _ => true) infoMma g0 (wMx 24 0 8 16 1 0) (sM 0xC4 (wMx 24 0 8 16 1 0)) = .go x ∧
      (x.grp.acq = none ∧ x.grp.bound = none ∧ x.br.mx.queue.length < 16)) ∧
    (∃ x, prepare 0xC5 (fun _ => true) infoBatch g0 (wMx 0 8 0 0 0 (4096 * 128)) (sM 0xC5 (wMx 0 8 0 0 0 (4096 * 128))) = .go x ∧
      (x.grp.acq = none ∧ x.grp.bound = none ∧ isSp x.imgAddr = false ∧
        imgFault (sM 0xC5 (wMx 0 8 0 0 0 (4096 * 128))) .t0 x.run x.blk x.imgAddr 128 false = none)) :=
  ⟨goes_of (by decide +kernel), goes_of (by decide +kernel), goes_of (by decide +kernel), goes_of (by decide +kernel), goes_of (by decide +kernel),
    goes_of (by decide +kernel)⟩


/-- A queue of the array with one entry. -/
def mxE (st : MxSt) (k : MxKind) : MxEntry := ⟨5, grp0.gid, 0, 0, 0, st, k⟩
def w8 : WTile := ⟨true, 1, 0, [], [], []⟩
def sQ (st : MxSt) (k : MxKind) : State := sJ 0 (wR 0 0 0 0 0) fun b =>
  { b with run := b.run.map fun r => { r with wins := [⟨0x200000, 0x100000, true, false⟩] }, mx := { b.mx with front := w8, queue := [mxE st k] } }

/-- The same with 32 KiB of scratchpad that no block has written, and an extent of one row. -/
def sS (st : MxSt) (k : MxKind) : State := (sQ st k).modBrick b0 fun b => { b with
  blocks := [(0, { blk0 with spBytes := 32768, fresh := true })], mx := { b.mx with h0 := ⟨false, 1, []⟩ } }
def spA (o : Nat) : Nat := 2 ^ 63 + o

/-- Zero records of the rows of an image in scratchpad. -/
def rowsB (s : State) (who block a fmt f rows mask : Nat) : Bool :=
  decide (isMx fmt = false) && (activeRows rows mask).all fun i => imgHasB s b0 who block (a + i * mxRec fmt f) (mxRec fmt f) 0

theorem rows_of {s : State} {who block a fmt f rows mask : Nat} (k : rowsB s who block a fmt f rows mask = true) :
    RowsHave s b0 who block a fmt f rows mask (fun _ => 0) (fun _ => 0) := by
  simp only [rowsB, Bool.and_eq_true, decide_eq_true_eq, List.all_eq_true] at k
  exact fun i hi => ⟨imgHas_of (k.2 i hi), (fun h => by simp [k.1] at h), fun _ => rfl⟩

theorem parses_of {fmt sp w recs sc ix : Nat} (k : ((parseWeights fmt sp w recs sc ix).any fun t => decide (t.fmt = 1 ∧ t.sparse = 0)) = true) :
    ∃ t, parseWeights fmt sp w recs sc ix = some t ∧ t.fmt = 1 ∧ t.sparse = 0 := by
  simpa [Option.any_eq_true] using k

theorem witness_MatrixArrayExecution :
    let s := sS .queued (.wload (spA 0) 1 0)
    (s.tw .t0).frozen = false ∧ (s.brick b0).mx.next MxKind.isLoad = some (mxE .queued (.wload (spA 0) 1 0)) ∧ storesDone s b0 grp0.gid (spA 0) = true ∧
    WeightsHave s b0 5 0 (spA 0) 1 0 (s.width b0) 0 0 0 ∧ ∃ tile, parseWeights 1 0 (s.width b0) 0 0 0 = some tile := by
  refine ⟨by decide +kernel, by decide +kernel, by decide +kernel, ⟨imgHas_of (by decide +kernel), ?_, ?_⟩, Option.isSome_iff_exists.mp (by decide +kernel)⟩
  · rw [if_neg (by decide)]
  · rw [if_pos rfl]

theorem witness_MatrixArrayExecution_stream :
    let s := sS .queued (.stream (spA 0) 1 2 3 0 false)
    (s.tw .t0).withheld b0.s.val = false ∧ (s.brick b0).mx.next MxKind.isStream = some (mxE .queued (.stream (spA 0) 1 2 3 0 false)) ∧
    storesDone s b0 grp0.gid (spA 0) = true ∧ (s.brick b0).mx.front.valid = true ∧ mxPair (s.brick b0).mx.front.fmt 1 = some false ∧ ((s.brick b0).mx.half 0).int = false ∧
    recordFault s b0 { run0 with wins := [⟨0x200000, 0x100000, true, false⟩] } 0 (spA 0) 1 (sparseF w8.sparse) 2 = none ∧
    (s.brick b0).run = some { run0 with wins := [⟨0x200000, 0x100000, true, false⟩] } ∧
    RowsHave s b0 5 0 (spA 0) 1 (sparseF w8.sparse) 2 3 (fun _ => 0) (fun _ => 0) :=
  ⟨by decide +kernel, by decide +kernel, by decide +kernel, by decide +kernel, by decide +kernel, by decide +kernel, by decide +kernel, by decide +kernel, rows_of (by decide +kernel)⟩

theorem witness_MatrixArrayExecution_drain :
    let s := sS .queued (.drain (spA 0) 1 0 0)
    (s.brick b0).mx.next MxKind.isDrain = some (mxE .queued (.drain (spA 0) 1 0 0)) ∧ ((s.brick b0).mx.half 0).int = false ∧ s.width b0 ≤ 64 ∧
    ((s.brick b0).mx.half 0).extent = 1 ∧ isMx 1 = false ∧ ImgFits s b0 0 (spA 0 + 0 * mxRec 1 1)
      (drainRow 1 0 (s.width b0) (fun n => sget 0 ((s.brick b0).mx.half 0).acc (0 * 64 + n)) (s.brick b0).sr).1.2 :=
  ⟨by decide +kernel, by decide +kernel, by decide +kernel, by decide +kernel, by decide +kernel, imgFits_of (by decide +kernel)⟩

theorem witness_MatrixArrayExecution_rest :
    ((sQ .running (.wload 0x200000 1 0)).brick b0).mx.running MxKind.isLoad = some (mxE .running (.wload 0x200000 1 0)) ∧
    ((sQ .queued .swap).brick b0).mx.next (fun k => decide (k = .swap)) = some (mxE .queued .swap) ∧
    ((sQ .running (.stream 0 1 1 1 0 true)).brick b0).mx.running MxKind.isStream = some (mxE .running (.stream 0 1 1 1 0 true)) ∧
    (let b := (sQ .running (.drain (spA 0) 1 0 1)).brick b0
     b.mx.running MxKind.isDrain = some (mxE .running (.drain (spA 0) 1 0 1)) ∧ b.portErr 5 = none ∧
      b.portDone 5 (drainScope (sQ .running (.drain (spA 0) 1 0 1)) b0 (spA 0)) = true ∧
      { b with outst := [⟨9, 0, some 5, 0, 1, .none, false, true, 0, 0, 0⟩] }.portDone 5 1 = false) ∧
    ((sQ .queued (.mma 24 0xF [])).brick b0).mx.next MxKind.isMma = some (mxE .queued (.mma 24 0xF [])) ∧
    ((sQ .queued (.mma 24 0xF [])).brick b0).group? 0 = some grp0 ∧ grp0.gid = (mxE .queued (.mma 24 0xF [])).gid := by decide +kernel

/-- A request of a batch with a row of its own and a drain, and the batch, whose header and image of zeros have arrived. -/
def bReq : BatchReq := ⟨1, grp0.gid, 0, 0, 0, spA 0, 1, 1, 0, some (spA 128, 1, 0, 0)⟩
def bat (fired sent : Bool) : Batch := ⟨5, 0x200080, 1, [bReq], fired, true, sent⟩
def bRet (line k v : Nat) : Ret := ⟨line * 4 + k, BitVec.ofNat 256 v, 0, true, false, none⟩
def bBuf (i : Nat) : EngBuf := ⟨5, i, 0x4001 + i, [0, 1, 2, 3], (List.range 4).map fun k => bRet (0x4001 + i) k (if i = 0 ∧ k = 0 then 1 else 0)⟩
def sB (st : MxSt) (u : Batch) (held : Option Nat) : State := (sS st (.batch 5)).modBrick b0 fun b =>
  { b with mx := { b.mx with batches := [u], batchTile := held }, ebuf := (List.range 65).map bBuf }

theorem witness_batchDeadline : bat false false ∈ ((sB .queued (bat false false) none).brick b0).mx.batches ∧ (bat false false).fired = false := by decide +kernel

/-- A fired batch whose tile the front registers hold, or which the array reads. -/
theorem witness_batchEntryExecute :
    let s := sB .queued (bat true false) none
    let run := { run0 with wins := [⟨0x200000, 0x100000, true, false⟩] }
    ((s.brick b0).mx.running MxKind.isBatch = none ∧ (s.brick b0).mx.next MxKind.isBatch = some (mxE .queued (.batch 5)) ∧ (s.brick b0).run = some run ∧
      (s.brick b0).mx.batches.find? (fun v => decide (v.id = 5)) = some (bat true false) ∧
      ((bat true false).reqs.all fun r => storesDone s b0 r.gid r.addr && storesDone s b0 r.gid (bat true false).addr) = true ∧
      (s.brick b0).mx.batchTile ≠ some (bat true false).addr ∧ ((sB .queued (bat true false) (some 0x200080)).brick b0).mx.batchTile = some 0x200080 ∧
      1 / 65536 = 0 ∧ weightOk (1 % 256) (1 / 256 % 256) = true ∧ imgFault s .t0 run Block.init (0x200080 + 128) (imgBytes 1 1 64 0) false = none ∧
      mxPair 1 1 = some false ∧ recordFault s b0 run 0 (spA 0) 1 1 1 = none ∧ s.width b0 = 64) ∧
    ImgHas s b0 5 0 0x200080 128 1 ∧ WeightsHave s b0 5 0 (0x200080 + 128) 1 0 64 0 0 0 ∧ (∃ w, parseWeights 1 0 64 0 0 0 = some w ∧ w.fmt = 1 ∧ w.sparse = 0) ∧
    RowsHave s b0 1 0 (spA 0) 1 1 1 1 (fun _ => 0) (fun _ => 0) ∧ (∀ i n, i < 1 → n ≤ mxRec 1 1 → ImgFits s b0 0 (spA 128 + i * mxRec 1 1) n) := by
  refine ⟨by decide +kernel, imgHas_of (by decide +kernel), ⟨imgHas_of (by decide +kernel), by rw [if_neg (by decide)], by rw [if_pos rfl]⟩,
    parses_of (by decide +kernel),
    rows_of (by decide +kernel), fun i n hi hn => imgFits_of ?_⟩
  have h : ∀ n : Fin 129, imgFitsB (sB .queued (bat true false) none) b0 0 (spA 128 + 0 * mxRec 1 1) n = true := by decide +kernel
  obtain rfl : i = 0 := by omega
  exact h ⟨n, Nat.lt_succ_of_le (hn.trans (by decide))⟩

theorem witness_batchEntryExecute_end :
    let s := sB .running (bat true true) none
    (s.brick b0).mx.running MxKind.isBatch = some (mxE .running (.batch 5)) ∧ (s.brick b0).mx.batches.find? (fun v => decide (v.id = 5)) = some (bat true true) ∧
      ∀ r ∈ (bat true true).reqs, (s.brick b0).portDone r.id (drainScope s b0 ((r.drain.map fun d => d.1).getD r.addr)) = true ∧
        (s.brick b0).portErr r.id = none := by decide +kernel

/-- An operation entry with a completion word, and its handle in g0. -/
def opE (st : Option R32) : OpEntry := ⟨0x41000003, 0, grp0.gid, 0, 0, 0, st, false⟩
def sOp (op : Nat) (w : IWord) (st : Option R32) : State := sJ op w fun b => setG 0 0x41000003 { b with ops := [(1, opE st)] }

theorem witness_EngineIssueAndWait :
    (∃ x, prepare 0xD0 (fun _ => true) infoIssue g0 (wX 5 8 0 0 0 0) (sM 0xD0 (wX 5 8 0 0 0 0)) = .go x ∧
      ((x.grp.acq = none ∧ x.br.released x.grp.gid 4 = true ∧ x.br.mxOut x.grp.gid = false ∧ x.br.opSlot = some 0) ∧ x.br.mx.queue.length < 16)) ∧
    (∃ x, prepare 0xD1 (fun _ => true) infoIssue g0 (wX 5 8 0 0 0 0) (sM 0xD1 (wX 5 8 0 0 0 0)) = .go x ∧
      ((x.grp.acq = none ∧ x.br.released x.grp.gid 4 = true ∧ x.br.mxOut x.grp.gid = false ∧ x.br.opSlot = some 0) ∧
        (((sM 0xD1 (wX 5 8 0 0 0 0)).tw .t0).route 0).load < 16)) ∧
    (∃ x, prepare 0xD2 (fun _ => true) infoIssue g0 (wX 5 8 0 0 0 0) (sM 0xD2 (wX 5 8 0 0 0 0)) = .go x ∧
      ((x.grp.acq = none ∧ x.br.released x.grp.gid 4 = true ∧ x.br.mxOut x.grp.gid = false ∧ x.br.opSlot = some 0) ∧
        ((sM 0xD2 (wX 5 8 0 0 0 0)).tw .t0).nbu.cmds.length < 32)) ∧
    (∃ x, prepare 0xD3 (fun _ => true) infoWait g0 (wR 5 0 0 0 0) (sOp 0xD3 (wR 5 0 0 0 0) (some 0x80000000)) = .go x ∧
      (x.grp.acq = none ∧ x.br.opFind (x.a x.low) x.grp.block = some (1, opE (some 0x80000000)) ∧ statusResult 0x80000000 = 0)) ∧
    (∃ x, prepare 0xD4 (fun _ => true) infoWait g0 (wR 5 0 0 0 0) (sOp 0xD4 (wR 5 0 0 0 0) (some 0x80000000)) = .go x ∧
      (x.grp.acq = none ∧ x.br.opFind (x.a x.low) x.grp.block = some (1, opE (some 0x80000000)))) ∧
    (∃ x, prepare 0xD4 (fun _ => true) infoWait g0 (wR 5 0 0 0 0) (sOp 0xD4 (wR 5 0 0 0 0) none) = .go x ∧
      (x.grp.acq = none ∧ x.br.opFind (x.a x.low) x.grp.block = some (1, opE none))) :=
  ⟨goes_of (by decide +kernel), goes_of (by decide +kernel), goes_of (by decide +kernel), goes_of (by decide +kernel), goes_of (by decide +kernel), goes_of (by decide +kernel)⟩

/-- Every thread of the group has arrived at a barrier in its first phase. -/
def sArr (key : Nat) : State := sJ 0 (wR 0 0 0 0 0) (modGrp fun q => { q with threads := q.threads.map fun t => { t with arr := [(key, 0)] } })

theorem witness_BarrierResults :
    (∃ x, prepare 0xB5 (fun y => decide (bits y.mod 7 6 = 0) || decide (bits y.mod 7 6 = 3)) infoBar g0 (wI 0 0 0 15) (sI 0xB5 (wI 0 0 0 15)) = .go x ∧
      (sfind x.br.l1in g0.sched.val = none ∧ x.grp.acq = none ∧ x.br.released x.grp.gid (if x.f.mod.testBit 8 then 2 else 1) = true)) ∧
    (∃ x, prepare 0xB5 (fun y => decide (bits y.mod 7 6 = 1) || decide (bits y.mod 7 6 = 3)) infoBar g0 (wI 0 0 0x140 15) (sI 0xB5 (wI 0 0 0x140 15)) = .go x ∧
      (sfind x.br.l1in g0.sched.val = none ∧ x.grp.acq = none ∧ x.br.released x.grp.gid (if x.f.mod.testBit 8 then 2 else 1) = true)) ∧
    (∃ x, prepare 0xB5 (fun y => decide (bits y.mod 7 6 = 2) || decide (bits y.mod 7 6 = 3)) infoBar g0 (wI 0 0 0x80 3) (sI 0xB5 (wI 0 0 0x80 3)) = .go x ∧
      (sfind x.br.l1in g0.sched.val = none ∧ x.grp.acq = none)) ∧
    (((sArr 15).tw .t0).frozen = false ∧ sfind ((sArr 15).brick b0).blocks 0 = some blk0 ∧ ((sArr 15).brick b0).arrived 0 15 (blk0.curPhase 15) = (true, true) ∧
      ((sArr 15).brick b0).arrived 0 14 (blk0.curPhase 14) = (false, true)) ∧
    ((sArr 31).clusterMembers b0 blk0 = [(0, 0)] ∧ (((sArr 31).tw .t0).brick 0).arrived 0 31 (blk0.curPhase 31) = (true, true)) ∧
    (∃ x, prepare 0xB5 (fun y => decide (bits y.mod 7 6 = 2) || decide (bits y.mod 7 6 = 3)) infoBar g0 (wI 0 0 0x180 3) (sI 0xB5 (wI 0 0 0x180 3)) = .go x ∧
      (x.f.mod.testBit 8 = true ∧ x.cur.toNat.testBit 0 = true ∧ ((x.grp.thread 0).barWaitOp (x.f.imm24 + 16) (x.blk.curPhase (x.f.imm24 + 16))).bar = none)) :=
  ⟨goes_of (by decide +kernel), goes_of (by decide +kernel), goes_of (by decide +kernel), by decide +kernel, by decide +kernel, goes_of (by decide +kernel)⟩

def sPend : State := sJ 0 (wR 0 0 0 0 0) (modGrp fun q => { q with pend := [⟨.f, 0, [5], [], [], 1⟩], gap := true, sleep := some 9 })

theorem witness_LatencyExpiryResults : (sPend.tw .t0).frozen = false ∧ (sPend.group? g0).isSome = true ∧
    ((sPend.group? g0).bind fun q => q.pend.find? fun p => decide (p.cls = .f)) = some ⟨.f, 0, [5], [], [], 1⟩ := by decide +kernel

/-- The brick's group has a packet open. -/
def sEv (op : Nat) (w : IWord) : State := sJ op w fun b => { b with ev := evOpen 0 grp0.gid 1 0 b.ev }

theorem witness_EventAndMarkerResults :
    (∃ x, prepare 0xE0 (fun _ => true) (infoMark true fun f => decide (f.imm24 < 2 ^ 16)) g0 (wI 0 0 0 0xFFFF) (sI 0xE0 (wI 0 0 0 0xFFFF)) = .go x ∧
      x.br.ev.opened = none) ∧
    (∃ x, prepare 0xE1 (fun _ => true) (infoMark false fun _ => true) g0 (wR 0 0 0 0 0) (sI 0xE1 (wR 0 0 0 0 0)) = .go x ∧ x.br.ev.opened = none) ∧
    (∃ x, prepare 0xE2 (fun _ => true) (infoMark true fun f => decide (f.imm24 < 0xF0)) g0 (wI 0 0 0 0xEF) (sI 0xE2 (wI 0 0 0 0xEF)) = .go x ∧
      x.br.ev.opened = none) ∧
    (∃ x, prepare 0xE3 (fun _ => true) infoEvPut g0 (wR 0 0 0 0 1) (sEv 0xE3 (wR 0 0 0 0 1)) = .go x ∧ x.br.evMine x.grp.gid = true) ∧
    (∃ x, prepare 0xE4 (fun _ => true) (infoMark false fun _ => true) g0 (wR 0 0 0 0 0) (sEv 0xE4 (wR 0 0 0 0 0)) = .go x ∧ x.br.evMine x.grp.gid = true) ∧
    (((sJ 0 (wR 0 0 0 0 0) fun b => { b with ev := evDrop 0 b.ev }).tw .t0).fget Fld.dbgTraceCtl_EN = 0 ∧
      evAvail ((sJ 0 (wR 0 0 0 0 0) fun b => { b with ev := evDrop 0 b.ev }).brick b0).ev = true ∧
      (((sJ 0 (wR 0 0 0 0 0) fun b => { b with ev := evDrop 0 b.ev }).brick b0).ev.q.map EvEntry.drop) = [true]) :=
  ⟨goes_of (by decide +kernel), goes_of (by decide +kernel), goes_of (by decide +kernel), goes_of (by decide +kernel), goes_of (by decide +kernel),
    by decide +kernel⟩


/-! Witnesses: the memory system. -/

/-- A line of tower 0's HBM that its cache holds clean and whole. -/
def ln : Nat := 0x4000
def okChk : Nat := (eccEncode 0).toNat
def dl : DirLine := { DirLine.init with
  valid := 15, chk := BitVec.ofNat 128 (okChk + okChk * 2 ^ 32 + okChk * 2 ^ 64 + okChk * 2 ^ 96) }
def sH (f : Brick → Brick) (m : MemSys → MemSys) : State :=
  (sJ 0 (wR 0 0 0 0 0) f).modTw .t0 fun x => { x with mem := m { x.mem with dir := [(ln, dl)] } }

def idM (m : MemSys) : MemSys := m
def idB (b : Brick) : Brick := b

/-- A load of one lane that waits at the input, its store, and the operation in flight. -/
def op1 (k : MemKind) : MemOp :=
  ⟨3, 1, false, grp0.gid, 0, 0, k, 0, 4, false, 0, false, 0, 0, false, 5, [⟨0, ln * 128 + 4, 77, 0, .l1⟩], [], [], [], false, 0, none⟩
def sL1 (o : MemOp) : State := sH (fun b => { b with l1in := [(0, o)] }) idM
def ret1 : Ret := ⟨ln * 4, 0, eccEncode 0, true, false, none⟩
def op2 : MemOp := { op1 .load with need := [(7, ln * 4)] }
def sUpQ : State := sH (fun b => { b with upQ := [⟨7, true, [ret1]⟩], inflight := [(3, op2)] }) idM
def sFly (o : MemOp) : State := sH (fun b => { b with inflight := [(3, o)] }) idM
/-- A line of host memory. -/
def hln : Nat := 2 ^ 40
def sHostRd : State := sH (fun b => { b with mortarRd := [⟨7, hln, [3], 0, false⟩], inflight := [(3, { op1 .load with need := [(7, hln * 4 + 3)] })] }) idM
def csp1 : CspMsg := ⟨4, none, none, grp0.gid, 1, 0, 0, .store, 4, 0, false, [⟨0, 0xFFC, 9, 0, .away⟩]⟩
def sCsp : State := sH (fun b => { b with cspQ := [csp1] }) idM

/-- It is the turn of the operation that waits at scheduler 0's input. -/
def turnB (o : MemOp) : Bool :=
  let s := sL1 o
  !(s.tw .t0).frozen && decide (sfind (s.brick b0).l1in 0 = some o) && decide ((0 + 3 - (s.brick b0).l1last) % 4 = 0) &&
  decide ((s.brick b0).inflight = []) && ((uniq (o.l1Secs.map fun c => c / 4)).all fun l => !hostHeld s b0 (decide (o.kind = .store)) l)

theorem witness_BrickMemoryResults :
    (turnB (op1 .load) = true ∧ ((sL1 (op1 .load)).brick b0).mregs = [] ∧ (uniq ((op1 .load).l1Secs.map fun c => c / 4)).length = 1 ∧
      1 ≤ ((sL1 (op1 .load)).brick b0).ways ∧ ((sL1 (op1 .load)).brick b0).l1 = [] ∧ (op1 .load).acquire = false) ∧
    (turnB { op1 .load with hint := 4 } = true ∧ turnB { op1 .prefetch with hint := 4 } = true ∧ turnB (op1 .store) = true) ∧
    ((sUpQ.brick b0).upQ[0]? = some ⟨7, true, [ret1]⟩ ∧ (eccDecode ret1.data ret1.chk).1 = .clean ∧ sfind (sUpQ.brick b0).inflight 3 = some op2 ∧
      (7, ret1.sector) ∈ op2.need) ∧
    ((sHostRd.brick b0).mortarRd[0]? = some ⟨7, hln, [3], 0, false⟩ ∧ sHostRd.targetB (hln * 128) = .host ∧ sHostRd.hostDown = false ∧
      (sHostRd.brick b0).firstOf 7 hln = true) ∧
    (op2.firstErr = none ∧ (op1 .load).need = [] ∧ (op2.lanes.map LaneAcc.lane).Nodup ∧ (sUpQ.brick b0).group? 0 = some grp0 ∧ grp0.gid = op2.gid) ∧
    (sfind ((sFly (op1 .atom)).brick b0).inflight 3 = some (op1 .atom) ∧ (op1 .atom).firstErr = none ∧ (op1 .atom).kind.isAtomic = true ∧
      128 % (op1 .atom).bytes = 0 ∧ ∀ a ∈ (op1 .atom).lanes, a.via = .l1 ∧ a.addr % (op1 .atom).bytes = 0 ∧
        (sFly (op1 .atom)).targetB (a.addr / 128 * 128) ≠ .host) ∧
    ((sCsp.brick b0).cspQ[0]? = some csp1 ∧ sCsp.cspTarget b0 1 0 0 = some (0, 0) ∧ sfind ((sCsp.tw .t0).brick 0).blocks 0 = some blk0) := by
  decide +kernel

def out1 (csp : Bool) : Outst := ⟨8, 0, none, grp0.gid, 1, .none, csp, true, 0, 0, 0⟩
def sAck (csp : Bool) : State := sH (fun b => { b with ackQ := [8], ackIn := [(8, .tower)], outst := [out1 csp] }) idM

/-- The group's next line is not in its instruction cache: the line of the code window is `ln`, or host memory; the line has arrived, or has
not been asked for. -/
def sFetch (base : Nat) (e : List EngBuf) : State :=
  sH (fun b => { b with icache := [], ebuf := e, run := b.run.map fun r => { r with codeBase := base } }) idM
def fBuf : EngBuf := ⟨fetchUnit, 1, ln, [0, 1, 2, 3], (List.range 4).map fun k => ⟨ln * 4 + k, 5, 0, true, false, none⟩⟩
def fetchB (s : State) (base : Nat) : Bool :=
  decide (s.group? g0 = some grp0) && decide ((s.brick b0).run = some { run0 with codeBase := base }) &&
  decide (grp0.fetchLine (s.brick b0) 256 = some 0) && decide (roRoom (s.brick b0).icache 64 4 (sget 0 (s.brick b0).romru (0 % 64)) 0 [] = some []) &&
  (s.tw .t0).kwinOk base 128

theorem witness_AcknowledgementResults :
    (Live .t0 (sAck false) ∧ ((sAck false).brick b0).ackQ[0]? = some 8 ∧ (8, AckScope.lvl .tower) ∈ ((sAck false).brick b0).ackIn ∧
      (∀ o ∈ ((sAck false).brick b0).outst, o.wid = 8 → o.csp = false) ∧ ∃ o ∈ ((sAck true).brick b0).outst, o.wid = 8 ∧ o.csp = true) ∧
    (fetchB (sFetch (ln * 128) [fBuf]) (ln * 128) = true ∧
      PortHas (sFetch (ln * 128) [fBuf]) b0 fetchUnit (ln * 128) 128 (5 * (1 + 2 ^ 256 + 2 ^ 512 + 2 ^ 768))) ∧
    (fetchB (sFetch (ln * 128) []) (ln * 128) = true ∧ (sFetch (ln * 128) []).targetB (ln * 128) = .hbm .t0) ∧
    (fetchB (sFetch (hln * 128) []) (hln * 128) = true ∧ (sFetch (hln * 128) []).targetB (hln * 128) = .host ∧ (sFetch (hln * 128) []).hostDown = false) :=
  ⟨by unfold Live; decide +kernel, ⟨by decide +kernel, portHas_of (by decide +kernel)⟩, by decide +kernel, by decide +kernel⟩


def rd1 : RdMsg := ⟨7, ln, [0, 3], 0, false⟩
def vis1 : VisCopy := ⟨1, 15, 5, 0⟩
def rln : Nat := 0x100000000
def fill1 : FillReg := ⟨ln + 1, 3, 3, 0, 0, 0, 1, [.brick .t0 0 7 true [0, 1] [1], .agent ⟨.t0, 26, 0⟩], false⟩
def sRd : State := sH (fun b => { b with downQ := [rd1], mortarRd := [rd1] }) fun m => { m with fills := [fill1] }
def sVisRd : State := sH (fun b => { b with mortarRd := [⟨7, rln, [1], 0, false⟩] }) fun m => { m with vis := [(rln, vis1)] }

theorem witness_HomeReadResults : (Live .t0 sRd ∧ (sRd.brick b0).downQ[0]? = some rd1 ∧ (sRd.brick b0).mortarRd[0]? = some rd1 ∧
      (sRd.targetB (rd1.line * 128)).home? = some .t0 ∧ (sRd.brick b0).firstOf rd1.rid rd1.line = true) ∧
    (HomeFree sRd .t0 .t0 (.hbm .t0) ln ∧ LlcHolds sRd .t0 (.hbm .t0) ln [0, 3]) ∧
    ((sVisRd.brick b0).mortarRd[0]? = some ⟨7, rln, [1], 0, false⟩ ∧ (sVisRd.brick b0).firstOf 7 rln = true ∧
      (sVisRd.targetB (rln * 128)).home? = some .t1 ∧ sfind (sVisRd.tw .t0).mem.vis rln = some vis1 ∧ vis1.valid.testBit 1 = true) ∧
    ((sRd.tw .t0).mem.fills.find? (fun f => decide (f.line = ln + 1)) = some fill1 ∧ fill1.got = fill1.want ∧ fill1.got < 16) :=
  ⟨by unfold Live; decide +kernel, ⟨homeFree_of (by decide +kernel), llcHolds_of (by decide +kernel)⟩, by decide +kernel, by decide +kernel⟩

def wrWhole : WrMsg := ⟨9, 2, ln, 5, BitVec.ofNat 128 (2 ^ 32 - 1), 0⟩
def wrNarrow : WrMsg := ⟨9, 2, ln, 5, 3, 0⟩
def sWr (w : WrMsg) : State := sH (fun b => { b with writeQ := [w], mortarWr := [w] }) idM
def mrg1 : MergeEnt := ⟨0, ln * 4 + 1, 5, 3⟩
def sMrg : State := sH idB fun m => { m with merge := [mrg1] }

theorem witness_HomeWriteResults : (Live .t0 (sWr wrWhole) ∧ ((sWr wrWhole).brick b0).writeQ[0]? = some wrWhole ∧
      ((sWr wrWhole).brick b0).mortarWr[0]? = some wrWhole ∧ wrWhole.hasWhole = true ∧ ((sWr wrNarrow).brick b0).mortarWr[0]? = some wrNarrow ∧
      wrNarrow.hasWhole = false ∧ ((sWr wrWhole).targetB (ln * 128)).home? = some .t0 ∧ ((sWr wrWhole).brick b0).firstWr 2 ln = true ∧
      ((sWr wrNarrow).brick b0).firstWr 2 ln = true ∧ ((sWr wrWhole).tw .t0).mem.merge = []) ∧
    (HomeFree (sWr wrWhole) .t0 .t0 (.hbm .t0) ln ∧ HomeFree (sWr wrNarrow) .t0 .t0 (.hbm .t0) ln ∧ LlcRoom (sWr wrWhole) .t0 (.hbm .t0) ln) ∧
    ((sMrg.tw .t0).mem.merge[0]? = some mrg1 ∧ (sMrg.target (mrg1.sector * 32)).home? = some .t0 ∧ (sMrg.target (mrg1.sector * 32)).isHbm = true ∧
      (eccDecode ((sMrg.tw .t0).mem.now mrg1.sector).1.1 ((sMrg.tw .t0).mem.now mrg1.sector).1.2).1 ≠ .uncorrectable) :=
  ⟨by unfold Live; decide +kernel, ⟨homeFree_of (by decide +kernel), homeFree_of (by decide +kernel), fun _ => .inl (by decide +kernel)⟩, by decide +kernel⟩

def snp1 : Snoop := ⟨ln, true, [], false⟩
def sCoh : State := sH idB fun m => { m with visIn := [.inv 9, .ack ln], dead := [⟨ln, true, 0⟩], snoops := [snp1] }

theorem witness_CoherenceMessageResults : (Live .t0 sCoh ∧ (sCoh.tw .t0).mem.visIn[0]? = some (.inv 9) ∧ (sCoh.tw .t0).mem.visIn[1]? = some (.ack ln) ∧
      sfind (sCoh.tw .t0).mem.dir ln = some dl ∧ (sCoh.tw .t0).mem.dead[0]? = some ⟨ln, true, 0⟩ ∧ (sCoh.tw .t0).mem.fills = [] ∧
      dl.h = .hi ∧ dl.locked = false ∧ dl.v = false ∧ (sCoh.tw .t0).gstopped = false ∧
      (sCoh.tw .t0).hbmRoom ln = true ∧ (sCoh.tw .t0).levelNow ((sCoh.tw .t0).place ln).1 0 = 16 ∧ ln ∉ (sCoh.tw .t0).mem.retired ∧
      (sCoh.tw .t0).mem.snoops.find? (fun q => decide (q.line = ln)) = some snp1 ∧ (sCoh.target (ln * 128)).isHbm = true) := by
  unfold Live
  decide +kernel

def atm1 (a : Nat) : AtomMsg := ⟨6, some 3, a, 8, 0, false, 0, false, [⟨0, a, 1, 0, .away⟩]⟩
def red1 (line : Nat) : RedReq := ⟨.tile .t0 0 1, line, false, false, true, 1, [0x3F800000], 0, none⟩
def sAt (a : Nat) : State := sH (fun b => { b with atomQ := [atm1 a] }) fun m => { m with redQ := [red1 (a / 128)] }

theorem witness_HomeAtomicResults : (Live .t0 (sAt (ln * 128 + 24)) ∧ ((sAt (ln * 128 + 24)).brick b0).atomQ[0]? = some (atm1 (ln * 128 + 24)) ∧
      ((sAt (ln * 128 + 24)).brick b0).firstWr 6 ln = true ∧ (ln * 128 + 24) % 32 + 8 ≤ 32 ∧ ((sAt (ln * 128 + 24)).targetB (ln * 128 + 24)).home? = some .t0 ∧
      (sAt (ln * 128 + 24)).targetB (ln * 128) = .hbm .t0 ∧ ((sAt (ln * 128 + 24)).tw .t0).mem.redQ[0]? = some (red1 ln)) ∧
    HomeLine (sAt (ln * 128 + 24)) .t0 .t0 (.hbm .t0) ln 0 ∧
    ((sAt (hln * 128)).targetB (hln * 128) = .host ∧ (sAt (hln * 128)).hostDown = false ∧ ((sAt (hln * 128)).brick b0).firstWr 6 hln = true ∧
      ((sAt (hln * 128)).targetB (hln * 128)).isHbm = false) :=
  ⟨by unfold Live; decide +kernel, homeLine_of (by decide +kernel), by decide +kernel⟩

def sWatch (add : Bool) (line : Nat) : State := sH idB fun m => { m with watchOp := some ⟨add, line⟩, watch := [⟨ln, false⟩] }

theorem witness_WatchAndSeedResults : (sUp.tw .t0).fget Fld.llcWatchRes_BUSY = 0 ∧
    ((sWatch true ln).modTw .t0 fun x => x.fset Fld.llcWatchRes_BUSY 1 |>.fset Fld.llcWatchRes_BUSY 1).t0.fget Fld.llcWatchRes_BUSY = 1 ∧
    ((sWatch true ln).watchSlice .t0 ln).isSome = true ∧ (∃ w ∈ ((sWatch true ln).tw .t0).mem.watch, w.line = ln) ∧
    (∀ w ∈ ((sWatch true (ln + 1)).tw .t0).mem.watch, w.line ≠ ln + 1) ∧ ((sWatch true (ln + 1)).watchSlice .t0 (ln + 1)).isSome = true ∧
    (sWatch true rln).watchSlice .t0 rln = none ∧ ((sWatch true (ln + 1)).tw .t0).mem.watch.length < 4 ∧ Live .t0 (sWatch true rln) := by
  unfold Live
  decide +kernel

def req1 (f : Bool) : HbmReq := ⟨3, ln, 3, false, f, none, false, 0, some ⟨.t0, 26, 0⟩⟩
def sHbm (f : Bool) : State := sH idB fun m => { m with
  chans := [(0, { Chan.init with q := [req1 f] })], fills := [⟨ln, 3, 0, 0, 0, 0, 1, [], false⟩] }
def chan0 (f : Bool) : Chan := ((sHbm f).tw .t0).markPast (sget Chan.init ((sHbm f).tw .t0).mem.chans 0).started

theorem witness_HbmControllerResults : (Live .t0 (sHbm true) ∧ ∀ f : Bool, (match chooseGrant ((sHbm f).tw .t0) (chan0 f) [0] [] with
        | some (i, c) => decide (c.q[i]? = some (req1 f))
        | none => false) = true ∧ (chan0 f).q[0]? = some (req1 f)) ∧ (req1 true).parity < 3 ∧
    ((sUp.tw .t0).fget Fld.hbmReg_THR_EN = 1 ∧ 5 < (sUp.tw .t0).stackN ∧
      (∀ j, j < 16 → (sget Chan.init (sUp.tw .t0).mem.chans (80 + j)).q.length < (sUp.tw .t0).fget Fld.hbmReg_LWM ∧
        (sget Chan.init (sUp.tw .t0).mem.chans (80 + j)).q.length < (sUp.tw .t0).fget Fld.hbmReg_HWM)) ∧
    (let s := sUp.modTw .t0 fun x => { (x.fset Fld.hbmReg_HWM 1).fset Fld.hbmChGrant_OVER 1 0 3 with
        mem := { x.mem with chans := [(0, { Chan.init with q := [req1 true] })] } }
     (s.tw .t0).fget Fld.hbmReg_HWM ≤ (sget Chan.init (s.tw .t0).mem.chans 0).q.length ∧ (s.tw .t0).fget Fld.hbmChGrant_OVER 0 3 = 1) ∧
    (sUp.t0.setNow = [] ∧ bits 0x8000000000 39 32 = 128 ∧ 128 < bits 0x8100000000 39 32) := by
  unfold Live
  decide +kernel

def scr1 : Scrub := ⟨ln, ln + 1, ln + 9, 0, 0, 0, 0, 0, 0, 0, 0⟩
def wb1 (bank run : Bool) : WbEnt := ⟨ln * 4 + 8, bank, run⟩
def sEcc (f : MemSys → MemSys) : State := (sH idB fun m => f { m with
    wbq := [wb1 false false], retired := [7, 8], scrub := some scr1, raw := some ⟨true, ln + 1, 3, 5, 6, false⟩, direct := [(scrubAgent .t0, ln, 15)] }).modTw .t0 fun x =>
  (x.fset Fld.eccScrubBase_LINE ln).fset Fld.eccScrubLimit_LINE (ln + 1)

theorem witness_EccUnitResults : (Live .t0 (sEcc idM) ∧ ((sEcc idM).tw .t0).mem.wbq[0]? = some (wb1 false false) ∧
      sfind ((sEcc idM).tw .t0).mem.dir ((ln * 4 + 8) / 4) = none ∧ ((sEcc idM).tw .t0).mem.merge = [] ∧ ((sEcc idM).tw .t0).mem.lost = [] ∧
      ((sEcc idM).tw .t0).mem.engHeld ((ln * 4 + 8) / 4) = false ∧ ((sEcc idM).tw .t0).mem.chans = [] ∧
      ((sEcc idM).tw .t0).levelNow (((sEcc idM).tw .t0).place ((ln * 4 + 8) / 4)).1 30 = 16 ∧ (sEcc idM).homeOr ((ln * 4 + 8) / 4) .t0 = .t0 ∧
      (eccDecode (((sEcc idM).tw .t0).mem.stored (ln * 4 + 8)).1 (((sEcc idM).tw .t0).mem.stored (ln * 4 + 8)).2).1 = .clean ∧
      (let s := sEcc fun m => { m with wbq := [wb1 true false], chks := [(ln * 4 + 8, 1)], direct := [(⟨.t0, 30, 2 + (ln * 4 + 8)⟩, ln + 2, 1)] }
       (eccDecode ((s.tw .t0).mem.stored (ln * 4 + 8)).1 ((s.tw .t0).mem.stored (ln * 4 + 8)).2).1 = .correctable ∧ (s.tw .t0).mem.wbq = [wb1 true false])) ∧
    (((sEcc idM).tw .t0).mem.retired.Nodup ∧ ((sEcc idM).tw .t0).mem.scrub = some scr1 ∧ scr1.status = 0 ∧ scr1.next < scr1.last ∧
      ((sEcc idM).target (ln * 128)).home? = some .t0 ∧ ln ∉ ((sEcc idM).tw .t0).mem.retired ∧ ((sEcc idM).tw .t0).mem.engHeld ln = false ∧
      (scrubAgent .t0, ln, 15) ∈ ((sEcc idM).tw .t0).mem.direct ∧
      (∀ k, k < 4 → (eccDecode (((sEcc idM).tw .t0).mem.stored (ln * 4 + k)).1 (((sEcc idM).tw .t0).mem.stored (ln * 4 + k)).2).1 ≠ .uncorrectable ∧
        (eccDecode (((sEcc idM).tw .t0).mem.now (ln * 4 + k)).1.1 (((sEcc idM).tw .t0).mem.now (ln * 4 + k)).1.2).1 ≠ .uncorrectable)) ∧
    ((sUp.tw .t0).mem.scrub = none ∧ (BitVec.ofNat 64 64).getLsbD 62 = false ∧ bits 64 11 0 ≠ 0 ∧
      ((sEcc idM).tw .t0).fget Fld.eccScrubBase_LINE ≤ ((sEcc idM).tw .t0).fget Fld.eccScrubLimit_LINE ∧
      (((sEcc idM).tw .t0).regionOf ln).isSome = true ∧ ((sEcc idM).tw .t0).regionOf ln = ((sEcc idM).tw .t0).regionOf (ln + 1)) ∧
    ((sUp.tw .t0).mem.raw = none ∧ (sUp.targetB (ln * 128)).home? = some .t0 ∧ (sUp.targetB (rln * 128)).home? ≠ some .t0) ∧
    (((sEcc idM).tw .t0).mem.raw = some ⟨true, ln + 1, 3, 5, 6, false⟩ ∧ (sEcc idM).targetB ((ln + 1) * 128) = .hbm .t0 ∧
      sfind ((sEcc idM).tw .t0).mem.dir (ln + 1) = none ∧ ((sEcc idM).tw .t0).mem.engHeld (ln + 1) = false ∧ ((sEcc idM).tw .t0).mem.fills = [] ∧
      ((sEcc idM).tw .t0).levelNow (((sEcc idM).tw .t0).place (ln + 1)).1 30 = 16 ∧
      (let s := sEcc fun m => { m with raw := some ⟨false, ln + 1, 3, 5, 6, true⟩, direct := [(rawAgent .t0, ln + 1, 8)] }
       (rawAgent .t0, ln + 1, 2 ^ 3) ∈ (s.tw .t0).mem.direct ∧ (s.tw .t0).mem.raw = some ⟨false, ln + 1, 3, 5, 6, true⟩)) := by
  unfold Live
  decide +kernel

/-- A decoder over the first 256 MiB; host address 0 is device address 0, line `ln` among it. -/
def sDec (viral : Bool) (f : MemSys → MemSys) : State := { sH idB f with host := { HostPort.init with up := true, viral := viral, dec0 := some (0, 2 ^ 28) } }

theorem witness_HostMemoryResults : ((sDec false idM).hdm ((ln * 128 + 64) / 64 * 64) = some (ln * 128 + 64) ∧ devTower (ln * 128 + 64) = .t0 ∧
      ((sDec false idM).tw .t0).gstopped = false ∧ ((sDec false idM).tw .t0).serving = true ∧ (sDec false idM).host.up = true ∧
      ((sDec false idM).target (ln * 128 + 64)).home? = some .t0 ∧ ((sDec false idM).tw .t0).mem.lost = [] ∧ (sDec true idM).host.viral = true ∧
      ln ∈ ((sDec false fun m => { m with retired := [ln] }).tw .t0).mem.retired) ∧
    HomeLine (sDec false idM) .t0 .t0 (.hbm .t0) ln 0 ∧
    (let s := sDec false fun m => { m with dir := [] }
     HomeFree s .t0 .t0 (.hbm .t0) ln ∧ sfind (s.tw .t0).mem.dir ln = none ∧ ((s.tw .t0).setLines ((s.tw .t0).setOf ln)).length < 16 ∧
      (s.tw .t0).hbmRoom ln = true ∧ (s.tw .t0).levelNow ((s.tw .t0).place ln).1 ((hostAgent 1).charged .t0) = 16) ∧
    ({ sDec false idM with t0 := (sDec false idM).t0.fset Fld.glbTower_STATE 3 |>.fset Fld.glbTower_STATE 1 } : State).t0.serving = false :=
  ⟨by decide +kernel, homeLine_of (by decide +kernel), ⟨homeFree_of (by decide +kernel), by decide +kernel⟩, by decide +kernel⟩

def sGo (w : HostWr) : State := { sUp with host := { HostPort.init with up := true, gos := [w] } }

theorem witness_HostPortResults : (4608 * 2 ^ 20) % 2 ^ 28 = 0 ∧ 2 * sUp.hbmSize < 2 * sUp.hbmSize + 2 ^ 28 ∧ sUp.host.up = true ∧
    sUp.host.perst = false ∧ sUp.host.railBad = false ∧ (sGo (.store .t0 0 8)).host.gos[0]? = some (.store .t0 0 8) ∧ sUp.hostDown = false ∧
    (∀ w ∈ (sGo (.store .t0 0 8)).host.gos, ∀ tw sl wid a d, w = .evict tw sl wid a d → a / 128 ≠ 0) ∧
    (sGo (.evict .t0 0 8 0x80 5)).host.gos = [.evict .t0 0 8 0x80 5] ∧ (sGo (.evict .t0 0 8 0x80 5)).hostDown = false ∧
    ({ sUp.host with ideOn := true } : HostPort).ideOn = true := by
  refine ⟨by decide +kernel, by decide +kernel, by decide +kernel, by decide +kernel, by decide +kernel, by decide +kernel, by decide +kernel, ?_,
    by decide +kernel, by decide +kernel, rfl⟩
  intro w hw tw sl wid a d hd
  simp [sGo] at hw
  simp [hw] at hd

/-- Host windows are enabled and none is open. -/
def sWin : State := sUp.modTw .t0 fun x => x.fset Fld.mgtProtCfg_HWIN_EN 1

theorem witness_ControlSpaceResults : (sUp.host.up = true ∧ sizeOk 0 8 = true ∧ (sUp.tw (barTower 0x4000000)).barGone = false ∧
      (sUp.tw (barTower 0x4000000)).hwinOk 0x4000000 false = true ∧ (State.reset.tw (barTower 0)).barGone = true ∧ sizeOk 0 2 = false ∧
      (regAt 0x600008).isSome = true ∧ (sUp.tw .t0).mgmtAlive = true ∧ (sWin.tw .t0).hwinOk 0 true = false ∧ sUp.t0.setNow = [] ∧ sUp.t0.cyc % 2 = 0) := by decide +kernel


/-! Witnesses: launches and data movers. -/

/-- A launch record (R498): two blocks of four threads with 32 registers, 256 bytes of code, an interrupt at the end; with `n` entries in
its list of windows at 0x200000. -/
def rec0 (n : Nat) : Nat :=
  (2 ^ 56 + 2 ^ 48) + 9 * 2 ^ (8 * 0x08) + 2 * 2 ^ (8 * 0x0C) + 0x100000 * 2 ^ (8 * 0x10) + 256 * 2 ^ (8 * 0x18) + 4 * 2 ^ (8 * 0x20) +
    32 * 2 ^ (8 * 0x22) + 1 * 2 ^ (8 * 0x23) + n * 2 ^ (8 * 0x34) + (if n = 0 then 0 else 0x200000 * 2 ^ (8 * 0x38)) +
    0x200000 * 2 ^ (8 * 0x80) + (2 ^ 63 + 0x100000) * 2 ^ (8 * 0x88)

def la0 (p : LPhase) : Launch := ⟨1, [], 2, 3, 0x800000, 7, none, p, rec0 0, 0, 0, none, false, 0, 0, [], false, 0, 0, [], 0, 0, 0, 0, 0, none, 0, none, none⟩
def sLa (l : Launch) : State := sUp.modTw .t0 fun x => { x with cp := { x.cp with launches := [l], lastNum := 1 } }

/-- A clean whole line of given data. -/
def lineOf (v : Nat) : DirLine := { dl with
  data := BitVec.ofNat 1024 v
  chk := BitVec.ofNat 128 ((List.range 4).foldl (fun a k => a + (eccEncode (BitVec.ofNat 256 (v >>> (256 * k)))).toNat <<< (32 * k)) 0) }

/-- Table 2 at 0x800000 with 16 entries: enabled, its state line held clean, entry 0 submitted with serial 7. -/
def dSub : DirLine := lineOf (7 * 2 ^ 32 + 1)
def sLt : State := sUp.modTw .t0 fun x =>
  let x := (x.fset Fld.cpLtCfg_BASE 0x10000 2).fset Fld.cpLtStat_STATE 1 2
  { x with mem := { x.mem with dir := [(0x10000, dSub)], watch := [⟨0x10000, true⟩] }, cp := { x.cp with scan := [(2, 0, none)], sigs := [0x10000], watched := [(2, [0x10000])] } }

/-- The record, the list of descriptors and the table's state lines as memory holds them, one line at 0x10000 and the next two, the list at 0x4000. -/
def sKi (p : LPhase) (rcd entry : Nat) : State := (sLa { la0 p with rcd := rcd, entry := 0, base := 0x800000 }).modTw .t0 fun x =>
  { x with mem := { x.mem with dir := [(0x4000, lineOf entry), (0x10000, lineOf 0), (0x10010, lineOf (rec0 0 % 2 ^ 1024)), (0x10011, lineOf (rec0 0 / 2 ^ 1024))] } }

theorem witness_LaunchTableResults :
    ((sUp.tw .t0).fget Fld.cpLtStat_STATE 2 ≠ 1 ∧ (2 ^ 63 + 0x800000 : Nat).testBit 63 = true ∧
      sUp.inOwn .t0 ((sUp.tw .t1).ltBase 2 + 2 ^ 46) (2048 + 256 * (sUp.tw .t0).ltEntries 2) = false) ∧
    ((sLt.tw .t0).fget Fld.cpLtStat_STATE 2 ≠ 0 ∧ (0 : Nat).testBit 63 = false ∧ (sLt.tw .t0).cp.sigs = [0x10000] ∧ (sLt.tw .t0).fget Fld.cpLtStat_STATE 2 = 1 ∧
      0x10000 ∈ (sLt.tw .t0).ltLines 2) ∧
    ((Live .t0 sLt ∧ (sLt.tw .t0).cpRuns = true ∧ (sLt.tw .t0).cp.scan.find? (fun p => decide (p.1 = 2)) = some (2, 0, none) ∧
      sLt.targetB (((sLt.tw .t0).ltBase 2 / 128 + 0) * 128) = .hbm .t0 ∧ (sLt.tw .t0).ltBase 2 / 128 + 0 = 0x10000 ∧
      dbytes (7 * 2 ^ 32 + 1) 0 8 % 256 = 1) ∧ HomeLine sLt .t0 .t0 (.hbm .t0) 0x10000 (BitVec.ofNat 1024 (7 * 2 ^ 32 + 1))) ∧
    ((∀ k ∈ ((sLa (la0 .taken)).tw .t0).cp.launches, k.phase ≠ .kiln) ∧
      ((sLa (la0 .taken)).tw .t0).cp.launches.find? (fun l => decide (l.phase = LPhase.taken)) = some (la0 .taken) ∧
      ((sLa (la0 .taken)).tw .t0).launch? 1 = some (la0 .taken) ∧ kilnRecord (sLa (la0 .taken)) .t0 (rec0 0) = none ∧ lDescs (rec0 0) = 0 ∧
      kilnRecord sUp .t0 1 = some (1, 0)) ∧
    ((sKi .taken 0 0).t0.launch? 1 = some { la0 .taken with rcd := 0, entry := 0 } ∧ EngHas (sKi .taken 0 0) .t0 (0x800000 + 2048 + 256 * 0) 256 (rec0 0) ∧
      EngFits (sKi .taken 0 0) .t0 (0x800000 + 8 * 0) 8) := by
  refine ⟨by decide +kernel, by decide +kernel, ⟨by unfold Live; decide +kernel, homeLine_of (by decide +kernel)⟩, by decide +kernel, by decide +kernel,
    engHas_of (by decide +kernel), engFits_of (by decide +kernel)⟩

/-- An entry of the list that the kiln refuses, and one of a route descriptor in the launch's window. -/
theorem witness_LaunchTableResults_entry :
    let s := sKi .kiln (rec0 1) 0
    let l := { la0 .kiln with rcd := rec0 1, entry := 0 }
    (Live .t0 s ∧ s.t0.cpRuns = true ∧ s.t0.cp.launches.find? (fun l => decide (l.phase = LPhase.kiln)) = some l ∧ s.t0.launch? 1 = some l ∧
      l.desc < lDescs l.rcd ∧ s.targetB (lList l.rcd + 8 * 0) ≠ .host ∧ bits 0 63 62 = 0) ∧ EngHas s .t0 (lList l.rcd + 8 * 0) 8 0 ∧
    (let e := 2 ^ 63 + ln * 128
     let s := sKi .kiln (rec0 1 ) e
     let run := runOf 1 (rec0 1) 0
     EngHas s .t0 (lList (rec0 1) + 8 * 0) 8 e ∧ bits e 63 62 = 2 ∧ bits e 61 48 = 0 ∧ bits e 47 0 % 128 = 0 ∧ run.outside (bits e 47 0) 128 = false ∧
       s.targetB (bits e 47 0) ≠ .host ∧ EngHas s .t0 (bits e 47 0) 128 e) := by
  refine ⟨by unfold Live; decide +kernel, engHas_of (by decide +kernel), engHas_of (by decide +kernel), by decide +kernel, by decide +kernel, by decide +kernel,
    by decide +kernel, by decide +kernel, engHas_of (by decide +kernel)⟩

def laR : Launch := { la0 .running with accepted := true, bricks := [0], held := true, next := 1 }
/-- Brick 0 holds the launch, with a delivered block that fits. -/
def sPl (cl : Nat) : State := (sLa laR).modTw .t0 fun x => { x with bricks := [(0, { Brick.init with
    run := some { run0 with cluster := cl, spBytes := 0 }, delivered := [⟨1, 0, 0, 0⟩] })] ++
  (if cl = 2 then [(1, { Brick.init with run := some { run0 with cluster := 2, spBytes := 0 }, delivered := [⟨1, 1, 1, 0⟩] })] else []) }

theorem witness_BlockSchedulingResults :
    (Live .t0 (sLa (la0 .running)) ∧ ((sLa (la0 .running)).tw .t0).cpRuns = true ∧ ((sLa (la0 .running)).tw .t0).cp.launches = [la0 .running] ∧
      (la0 .running).next < lNblock (rec0 0) ∧ lCluster (rec0 0) ≤ 1 ∧ lMax (rec0 0) = 0 ∧ ((sLa (la0 .running)).tw .t0).cp.resv = none ∧
      ((sLa (la0 .running)).tw .t0).liveBricks.filter ((sLa (la0 .running)).tw .t0).canTake = [0, 1] ∧ lMin (rec0 0) ≤ 2) ∧
    (((sPl 1).tw .t0).launch? 1 = some laR ∧ laR.next < lNblock laR.rcd ∧
      nextAfter ((sPl 1).tw .t0).lidOf laR.rot ((((sPl 1).tw .t0).lmap.filter fun p => laR.bricks.contains p.2 && ((sPl 1).tw .t0).hasRoom p.2).map Prod.snd) = [0]) ∧
    ((((sPl 1).tw .t0).placeable 0).any fun z => decide (z.1.cluster ≤ 1)) = true ∧
    (((sPl 2).modBrick b0 fun b => { b with delivered := [⟨1, 0, 0, 0⟩], run := some { run0 with cluster := 2, spBytes := 2 ^ 20 } }).t0.placeable 0) = none ∧
    (∀ p : Fin 24, ∀ d ∈ (((sPl 2).tw .t0).brick p).delivered.head?, ∀ r ∈ (((sPl 2).tw .t0).brick p).run, d.launch = 1 ∧ r.cluster = 2) ∧
    (match ((List.range 24).filterMap fun p => match ((sPl 2).tw .t0).brick (0 * 24 + p) |>.delivered with
      | d :: _ => if d.launch = 1 ∧ d.clusterId = 0 then (((sPl 2).tw .t0).placeable (0 * 24 + p)).map fun z => (0 * 24 + p, z) else none
      | [] => none) with
      | [a, b] => decide (a.2.1.cluster = 2) && decide (b.2.1.cluster = 2)
      | _ => false) = true := by
  unfold Live
  decide +kernel

def sFlt : State := (sPl 1).modTw .t0 fun x => { x with faultIn := [⟨1, 0, grp0.gid, 0x13, 0, 0, 0⟩] }
def laW (p : LPhase) (entry : Nat) : Launch := { laR with phase := p, bricks := [], entry := entry }
/-- The completion records of table 2 lie in host memory. -/
def sCpl (p : LPhase) : State := (sLa (laW p 3)).modTw .t0 fun x => x.fset Fld.cpLtCpl_CPL (2 ^ 41) 2 |>.fset Fld.cpLtStat_STATE 1 2

theorem witness_LaunchEndingResults :
    (Live .t0 sFlt ∧ (sFlt.tw .t0).faultIn = [⟨1, 0, grp0.gid, 0x13, 0, 0, 0⟩] ∧ (sFlt.tw .t0).cp.launches.find? (fun l => l.is 1) = some laR ∧
      laR.num = 1 ∧ laR.phase = .running ∧ (sFlt.tw .t0).launch? 1 = some laR) ∧
    ((sCpl .lost).tw .t0).fget Fld.cpLtStat_STATE (bits (2 * 256 + 3) 10 8) ≠ 0 ∧
    ((sCpl .lost).tw .t0).cp.launches.find? (fun l => decide (l.table = bits (2 * 256 + 3) 10 8) && decide (l.entry = bits (2 * 256 + 3) 7 0) &&
      [LPhase.taken, LPhase.kiln, LPhase.running, LPhase.lost].contains l.phase) = some (laW .lost 3) ∧
    (((sCpl .lost).tw .t0).cpRuns = true ∧ ((sCpl .lost).tw .t0).launch? 1 = some (laW .lost 3)) ∧
    (((sCpl .ending).tw .t0).launch? 1 = some (laW .ending 3) ∧ ((sCpl .ending).tw .t0).launchAcked (laW .ending 3) = true ∧ (laW .ending 3).rcd ≠ 0 ∧
      (sCpl .ending).hostDown = false ∧ (sCpl .ending).targetB (((sCpl .ending).tw .t0).fget Fld.cpLtCpl_CPL 2 * 64 + 64 * 3) = .host) ∧
    (((sCpl .written).tw .t0).launch? 1 = some (laW .written 3) ∧ HostWr.cpl .t0 1 ∉ (sCpl .written).host.gos ∧
      (sCpl .written).t0.mem.snoops ++ (sCpl .written).t1.mem.snoops = [] ∧
      lMsi (laW .written 3).rcd = true ∧ (laW .written 3).table < 8) ∧
    (let s := (sCpl .written).modTw .t0 fun x => { x with mem := { x.mem with dir := [(0x10000, dl)] } }
     EngFits s .t0 ((laW .written 3).base + 8 * (laW .written 3).entry) 8) ∧
    (let s := (sCpl .ending).modTw .t0 fun x => { (x.fset Fld.cpLtCpl_CPL 0x20000 2) with mem := { x.mem with dir := [(0x10001, dl)] } }
     s.targetB (s.t0.fget Fld.cpLtCpl_CPL 2 * 64 + 64 * 3) ≠ .host ∧ EngFits s .t0 (s.t0.fget Fld.cpLtCpl_CPL 2 * 64 + 64 * 3) 64) := by
  unfold Live
  refine ⟨by decide +kernel, by decide +kernel, by decide +kernel, by decide +kernel, by decide +kernel, by decide +kernel, engFits_of (by decide +kernel),
    by decide +kernel, engFits_of (by decide +kernel)⟩

/-- A copy of 128 bytes from `ln`, and the same with a completion word; the descriptor lies in a line that the cache holds. -/
def mv0 (cpl : Bool) : Nat := 2 ^ 56 + ln * 128 * 2 ^ 64 + (ln + 64) * 128 * 2 ^ 128 + 128 * 2 ^ 192 + (if cpl then 2 ^ 41 + (ln + 1) * 128 * 2 ^ (8 * 0x30) else 0)
def dmC (started : Bool) (block : Nat) (cpl : Bool) : DmCmd :=
  ⟨1, ln * 128, started, if started then mv0 cpl else 0, block, 0, false, cpl, none, none, false⟩
def sDm (c : DmCmd) : State := (sH idB fun m => { m with dir := [(ln, dl), (ln + 1, dl), (ln + 64, dl)] }).modTw .t0 fun x => { x with
  dm := { x.dm with cmds := [c], lastSeq := 1 } }

theorem witness_DataMoverResults :
    ((Live .t0 (sDm (dmC false 0 false)) ∧ ((sDm (dmC false 0 false)).tw .t0).dm.cmds = [dmC false 0 false] ∧
      (((sDm (dmC false 0 false)).tw .t0).dm.cmds.filter DmCmd.started).length < 8 ∧
      ((sDm (dmC false 0 false)).tw .t0).dm.cmds.filter (fun c => !c.started) = [dmC false 0 false] ∧ (dmC false 0 false).desc = 0 ∧
      (sDm (dmC false 0 false)).targetB (ln * 128) ≠ .host ∧ (mBad 0).isSome = true) ∧ EngHas (sDm (dmC false 0 false)) .t0 (ln * 128) 64 0) ∧
    (((sDm (dmC true 0 false)).t0.dm.cmds.find? (fun c => decide (c.seq = 1)) = some (dmC true 0 false) ∧ 0 < mBlocks (mv0 false) ∧
      ((sDm (dmC true 0 false)).tw .t0).dmRemFail 1 = none ∧ mOp (mv0 false) = 0 ∧ mRemote (mv0 false) = false ∧ mCmode (mv0 false) = 0 ∧
      mBad (mv0 false) = none ∧ (sDm (dmC true 0 false)).targetB (mSrc (mv0 false)) ≠ .host ∧ (sDm (dmC true 0 false)).targetB (mDst (mv0 false)) ≠ .host ∧
      min (mBlock (mv0 false)) (mLen (mv0 false) - 0) = 128) ∧
      EngHas (sDm (dmC true 0 false)) .t0 (mSrc (mv0 false)) 128 0 ∧ EngFits (sDm (dmC true 0 false)) .t0 (mDst (mv0 false)) 128) ∧
    ((sDm (dmC true 1 false)).t0.dm.cmds.find? (fun c => decide (c.seq = 1)) = some (dmC true 1 false) ∧ mBlocks (mv0 false) ≤ 1 ∧
      (sDm (dmC true 1 false)).dmOpen .t0 (dmC true 1 false) = false) ∧
    ((sDm (dmC true 1 true)).t0.dm.cmds.find? (fun c => decide (c.seq = 1)) = some (dmC true 1 true) ∧
      (sDm (dmC true 1 true)).dmOpen .t0 (dmC true 1 true) = false ∧ (sDm (dmC true 1 true)).targetB (mCpl (mv0 true)) ≠ .host) ∧
    EngFits (sDm (dmC true 1 true)) .t0 (mCpl (mv0 true)) 4 := by
  unfold Live
  exact ⟨⟨by decide +kernel, engHas_of (by decide +kernel)⟩, ⟨by decide +kernel, engHas_of (by decide +kernel), engFits_of (by decide +kernel)⟩,
    by decide +kernel, by decide +kernel, engFits_of (by decide +kernel)⟩


/-! Witnesses: the links and the fabric. -/

/-- Port 0 in a link state. -/
def sPt (st : Nat) (f : Port → Port) : State := sUp.modTw .t0 fun x => ((x.setLstate 0 st).fset Fld.rtrStat_TOPO 1).modPort 0 f
def prt (s : State) : Port := (s.tw .t0).port 0
def idP (p : Port) : Port := p

/-- A 16-byte acknowledgement message of type 0x10. -/
def msg0 : FMsg := ⟨0x10, 0, 16, 5, 1024, 0, 0, 7, 0, 0, 9⟩
theorem foldl_lt {α : Type} (b : Nat) (f : Nat → α → Nat) (hf : ∀ c a, c < b → f c a < b) (l : List α) (c : Nat) (hc : c < b) :
    l.foldl f c < b := by
  induction l generalizing c with
  | nil => exact hc
  | cons a r ih => exact ih _ (hf c a hc)

theorem flitCheck_lt (n : Nat) : flitCheck n < 2 ^ 64 := by
  refine Nat.xor_lt_two_pow (foldl_lt _ _ (fun c i hc => foldl_lt _ _ (fun c j _ => ?_) _ _ hc) _ _ (by decide)) (by decide)
  unfold crcBit
  simp only
  split
  · exact Nat.xor_lt_two_pow (Nat.mod_lt _ (by decide)) (by decide)
  · exact Nat.mod_lt _ (by decide)

theorem parts {a b h p c : Nat} (hh : h < a) (hp : p < b) :
    (h + p * a + c * (a * b)) % a = h ∧ (h + p * a + c * (a * b)) / a % b = p ∧
      (h + p * a + c * (a * b)) / (a * b) = c ∧ (h + p * a + c * (a * b)) % (a * b) = h + p * a := by
  have hn : h + p * a < a * b := by nlinarith
  have e : h + p * a + c * (a * b) = h + (p + c * b) * a := by ring
  have ha : 0 < a := by omega
  refine ⟨by rw [e, Nat.add_mul_mod_self_right, Nat.mod_eq_of_lt hh], ?_, ?_, ?_⟩
  · rw [e, Nat.add_mul_div_right _ _ ha, Nat.div_eq_of_lt hh, Nat.zero_add, Nat.add_mul_mod_self_right, Nat.mod_eq_of_lt hp]
  · rw [Nat.add_mul_div_right _ _ (by omega), Nat.div_eq_of_lt hn, Nat.zero_add]
  · rw [Nat.add_mul_mod_self_right, Nat.mod_eq_of_lt hn]

theorem powAdd {k n m : Nat} (h : k = n + m) : 2 ^ k = 2 ^ n * 2 ^ m := h ▸ Nat.pow_add 2 n m

/-- A flit with a header word, a payload and the check that R415 gives. -/
def FlitIs (f : Flit) (hdr pay : Nat) : Prop := f.toNat % 2 ^ 32 = hdr ∧ f.toNat / 2 ^ 32 % 2 ^ 1952 = pay ∧
  f.toNat / 2 ^ 1984 = flitCheck (f.toNat % 2 ^ 1984)

/-- The header word, the payload and the check of a flit that `mkFlit` builds. -/
theorem mkFlit_parts (h p : Nat) (hh : h < 2 ^ 32) (hp : p < 2 ^ 1952) : FlitIs (mkFlit h p) h p := by
  have e : (2 : Nat) ^ 1984 = 2 ^ 32 * 2 ^ 1952 := powAdd (by decide)
  have e' : (2 : Nat) ^ 2048 = 2 ^ 64 * (2 ^ 32 * 2 ^ 1952) :=
    (powAdd (n := 64) (m := 1984) (by decide)).trans (congrArg _ e)
  have hc := flitCheck_lt (h + p * 2 ^ 32)
  have ht : (mkFlit h p).toNat = h + p * 2 ^ 32 + flitCheck (h + p * 2 ^ 32) * (2 ^ 32 * 2 ^ 1952) := by
    unfold mkFlit
    simp only [BitVec.toNat_ofNat, Nat.mod_eq_of_lt hp, e, e']
    apply Nat.mod_eq_of_lt
    generalize (2 : Nat) ^ 1952 = b at *
    generalize flitCheck _ = c at *
    generalize (2 : Nat) ^ 32 = a at *
    generalize (2 : Nat) ^ 64 = d at *
    nlinarith [Nat.zero_le (a * b), Nat.mul_le_mul_right (a * b) (Nat.succ_le_of_lt hc), Nat.mul_le_mul_right a (Nat.succ_le_of_lt hp)]
  obtain ⟨p1, p2, p3, p4⟩ := parts (c := flitCheck (h + p * 2 ^ 32)) hh hp
  unfold FlitIs
  rw [ht, e]
  exact ⟨p1, p2, p3.trans (congrArg flitCheck p4.symm)⟩

theorem pay_lt {p b : Nat} (h : p < 2 ^ 32) (k : 32 ≤ b) : p < 2 ^ b := h.trans_le (Nat.pow_le_pow_right (by decide) k)

def hCtl : Nat := 2 * 2 ^ 30 + 4095 * 16
def hDat (n : Nat) : Nat := 2 ^ 28 + n * 2 ^ 16 + 4095 * 16
def flCtl : Flit := mkFlit hCtl (7 + 3 * 256)
/-- A data flit on channel 1 with sequence number n whose payload is the first four bytes of a message header and zeros. -/
def flDat (n : Nat) : Flit := mkFlit (hDat n) (0x10 + 16 * 2 ^ 16)
def acks (hdr : Nat) (s : State) : Bool := (((s.tw .t0).fecCount 0 false []).takeAck 0 hdr).2
def sTx : State := sPt 5 fun p => p.modTx 1 fun t => { t with credits := 256, adv := 256, q := [msg0] }
def sCtl (st op arg : Nat) (f : Port → Port) : State := sPt st fun p => f { p with ctlIn := [⟨op, arg⟩] }
/-- A well-formed identity: serial 7, tower 1, revisions 1 and 1, the four buffers of R418. -/
def idn : Nat := 7 * 2 ^ 56 + 1024 * 2 ^ 120 + 2 ^ 136 + 2 ^ 144 + 256 * 2 ^ 152 + 256 * 2 ^ 168 + 384 * 2 ^ 184 + 32 * 2 ^ 200
/-- An identity whose lowest revision is 2. -/
def idn2 : Nat := idn + 2 ^ 136 + 2 ^ 144

theorem witness_LinkFlitResults : (FlitIs flCtl hCtl (7 + 3 * 256) ∧ FlitIs (flDat 0) (hDat 0) (0x10 + 16 * 2 ^ 16) ∧
      FlitIs (flDat 1) (hDat 1) (0x10 + 16 * 2 ^ 16)) ∧
    ((sPt 5 idP).t0.locked 0 = true ∧ (prt (sPt 5 idP)).retryWait = false ∧ acks hCtl (sPt 5 idP) = false ∧ bits hCtl 31 30 = 2 ∧
      (7 + 3 * 256) % 256 = 7) ∧
    (acks (hDat 0) (sPt 5 idP) = false ∧ bits (hDat 0) 31 30 = 0 ∧ (sPt 5 idP).t0.carries 0 = true ∧
      bits (hDat 0) 27 16 = 0 ∧ (sPt 5 idP).t0.lstate 0 ≠ 7 ∧ ((prt (sPt 5 idP)).vrx 1).resetting = false ∧
      ((prt (sPt 5 idP)).vrx 1).occ < vcBuffer 1 ∧
      (vcAccept 1 ((sPt 5 idP).t0.time17 / 17) 0 (0x10 + 16 * 2 ^ 16) ((prt (sPt 5 idP)).vrx 1)).reset = false ∧
      acks (hDat 1) (sPt 5 idP) = false ∧ bits (hDat 1) 27 16 = 1) ∧
    ((prt (sPt 5 fun p => { p with ctlOut := [⟨1, 0⟩] })).ctlOut = [⟨1, 0⟩] ∧
      (prt (sPt 5 fun p => { p with replay := [⟨4, 0, 9⟩], replayAt := some (4, 4) })).replay.find? (fun e => decide (e.seq = 4)) = some ⟨4, 0, 9⟩ ∧
      ((((List.range 4).map fun i => ((prt sTx).rot + i) % 4).find? fun v => sTx.t0.vcReady 0 v) = some 1 ∧ sTx.t0.vcReady 0 3 = false ∧
        (prt sTx).replayAt = none ∧ sTx.t0.carries 0 = true ∧ sTx.t0.gstopped = false) ∧ ∀ v, v < 4 → (sPt 5 idP).t0.vcReady 0 v = false) ∧
    (CtlFirst .t0 0 1 (sCtl 5 1 0 idP) ⟨1, 0⟩ [] ∧ 0 % 4096 = (prt (sCtl 5 1 0 idP)).nseq ∧ (prt (sCtl 5 1 0 idP)).replay = [] ∧
      CtlFirst .t0 0 1 (sCtl 5 1 9 idP) ⟨1, 9⟩ [] ∧
      (∃ e ∈ (prt (sCtl 5 1 4 fun p => { p with replay := [⟨4, 0, 9⟩], nseq := 5 })).replay, e.seq = 4)) ∧
    ((prt (sPt 5 fun p => { p with retryWait := true })).retryWait = true ∧
      (prt ((sPt 5 fun p => { p with retryWait := true }).modTw .t0 fun x => x.fset Fld.lnkCfg_RETRY_LIMIT 8)).retries + 1 <
        ((sPt 5 idP).modTw .t0 fun x => x.fset Fld.lnkCfg_RETRY_LIMIT 8).t0.fget Fld.lnkCfg_RETRY_LIMIT 0 ∧
      (prt (sPt 5 fun p => { p with ctlWait := [(⟨2, 0⟩, 7)] })).ctlWait = [(⟨2, 0⟩, 7)]) ∧
    (CtlFirst .t0 0 2 (sCtl 4 2 idn idP) ⟨2, idn⟩ [] ∧ (sCtl 4 2 idn idP).t0.lstate 0 = 4 ∧ identBad idn = false ∧ identField idn 23 1 = 1 ∧
      identBad (idn + 1) = true ∧ identBad idn2 = false ∧ (prt (sCtl 5 2 idn fun p => { p with ident := some idn })).ident = some idn ∧
      (sCtl 7 2 idn idP).t0.lstate 0 = 7 ∧ (prt (sCtl 7 2 idn idP)).ident ≠ some idn) ∧
    (CtlFirst .t0 0 3 (sCtl 5 3 1 idP) ⟨3, 1⟩ [] ∧ CtlFirst .t0 0 4 (sCtl 5 4 1 idP) ⟨4, 1⟩ []) := by
  refine ⟨⟨mkFlit_parts _ _ (by decide) (pay_lt (by decide) (by decide)), mkFlit_parts _ _ (by decide) (pay_lt (by decide) (by decide)),
    mkFlit_parts _ _ (by decide) (pay_lt (by decide) (by decide))⟩, ?_⟩
  unfold CtlFirst
  decide +kernel

def sLane (st op arg : Nat) (f : Port → Port) : State := sCtl st op arg fun p => f { p with perm := [0, 1, 2, 3] }
def wellMargins : List Nat := [9, 9, 9, 9]

theorem witness_LinkTrainingResults : ((sPt 1 idP).t0.hasPort 0 = true ∧ (sPt 1 idP).t0.lstate 0 = 1 ∧ (sPt 1 idP).t0.linksRun = true ∧
      (sPt 0 idP).t0.lstate 0 = 0 ∧ (sPt 2 idP).t0.lstate 0 = 2 ∧ (sPt 3 idP).t0.lstate 0 = 3 ∧ laneOrderWf [2, 0, 3, 1] wellMargins = true) ∧
    ((sPt 5 idP).t0.locked 0 = true ∧ CtlFirst .t0 0 9 (sCtl 5 9 0 idP) ⟨9, 0⟩ []) ∧
    ((sPt 5 idP).t0.laneBusy 0 = false ∧ (prt (sPt 5 idP)).asked = none ∧
      (sPt 5 fun p => { p with sw := some ⟨1, true, true⟩ }).t0.laneBusy 0 = true ∧ (prt (sPt 5 fun p => { p with sw := some ⟨1, true, true⟩ })).want = none) ∧
    (CtlFirst .t0 0 5 (sLane 5 5 2 idP) ⟨5, 2⟩ [] ∧ (sLane 5 5 2 idP).t0.laneBusy 0 = false ∧ (prt (sLane 5 5 2 idP)).asked = none ∧
      CtlFirst .t0 0 5 (sLane 5 5 4 idP) ⟨5, 4⟩ []) ∧
    (CtlFirst .t0 0 6 (sLane 6 6 2 fun p => { p with recal := some ⟨2, false, true⟩ }) ⟨6, 2⟩ [] ∧
      (prt (sLane 6 6 2 fun p => { p with recal := some ⟨2, false, true⟩ })).lane 2 = 2 ∧
      (prt (sLane 6 6 2 fun p => { p with recal := some ⟨2, false, true⟩ })).sw = none) ∧
    (CtlFirst .t0 0 7 (sLane 5 7 2 fun p => { p with asked := some 2 }) ⟨7, 2⟩ [] ∧ CtlFirst .t0 0 8 (sLane 5 8 2 fun p => { p with asked := some 2 }) ⟨8, 2⟩ [] ∧
      CtlFirst .t0 0 8 (sLane 5 8 2 fun p => { p with asked := some 2, want := some 1 }) ⟨8, 2⟩ [] ∧
      (prt (sLane 5 8 2 fun p => { p with asked := some 2, want := some 1 })).want = some 1 ∧
      CtlFirst .t0 0 7 (sLane 6 7 2 fun p => { p with recal := some ⟨2, true, true⟩ }) ⟨7, 2⟩ []) ∧
    ((prt (sPt 5 fun p => { p with sw := some ⟨1, true, true⟩ })).sw = some ⟨1, true, true⟩ ∧
      (prt (sPt 6 fun p => { p with recal := some ⟨2, true, false⟩ })).recal = some ⟨2, true, false⟩) ∧
    (let s := (sPt 5 idP).modTw .t0 fun x => (x.fset Fld.lnkCfg_RECAL_THRESH 10).fset Fld.lnkLane_CORR_SYM 11 0 3
     (List.range 4).find? (fun l => decide (s.t0.fget Fld.lnkCfg_RECAL_THRESH 0 <
        ((List.range 4).map fun l => s.t0.fget Fld.lnkLane_CORR_SYM 0 l).getD l 0 - (prt s).base.getD l 0)) = some 3) := by
  unfold CtlFirst
  decide +kernel


/-! Witnesses: the router and its engines. -/

/-- Tower 0 among two modules along X; port 0 locked, and messages where `f` puts them. -/
def sR (st : Nat) (f : Rtr → Rtr) : State := (sPt st idP).modTw .t0 fun x =>
  (((x.fset Fld.rtrCfg_DX 2).fset Fld.rtrCfg_DY 1).fset Fld.rtrCfg_DZ 1).modRtr f
def ownMsg (m : FMsg) (r : Rtr) : Rtr := { r with own := [m] }
def toMe : FMsg := { msg0 with dst := 0 }
def toNb : FMsg := { msg0 with typ := 0x31, dst := 1 }
def hopIs (st : Nat) (m : FMsg) (o : Bool) (h : Hop) : Bool := match (sR st (ownMsg m)).t0.takeMsg .own with
  | some (k, x) => decide (k = m) && decide (x.nextHop k o = h)
  | none => false
/-- No port is open: the detour table sends node 1 to port 2 where `st` says that it is locked, and has no entry for it else. -/
def sDet (e : Nat) : Tower := ((sR 1 (ownMsg toNb)).t0.setLstate 2 5).setReg .rtrDetour 0 0 (e * 16)

theorem witness_RouterResults : (Live .t0 (sR 5 (ownMsg toMe)) ∧ (sR 5 (ownMsg toMe)).t0.takeMsg .own = some (toMe, (sR 5 id).t0) ∧
      (sR 5 (ownMsg { toMe with hops := 64 })).t0.takeMsg .own = some ({ toMe with hops := 64 }, (sR 5 id).t0) ∧ toMe.via = 9 ∧ toMe.hops < 64) ∧
    (hopIs 5 toMe true .here = true ∧ hopIs 5 { msg0 with dst := 1024 } true .hinge = true ∧ (sR 5 id).t1.serving = true ∧
      ((sR 5 id).modTw .t1 fun x => x.fset Fld.glbTower_STATE 1).t1.serving = false ∧ hopIs 5 toNb true (.port 0) = true) ∧
    ((sDet 2).nextHop toNb true = .detour 2 ∧ (sDet 15).nextHop toNb true = .none) ∧
    (toMe.dst % 1024 = (sR 5 id).t0.node ∧ toNb.flags.testBit 0 = false ∧ (1025 : Nat) % 1024 ≠ (sR 5 id).t0.node ∧
      1025 / 1024 % 2 ≠ (sR 5 id).t0.id.nat) ∧
    (sR 5 fun r => { r with inbox := [{ msg0 with typ := 0x1F }] }).t0.takeInbox 0x1F = some ({ msg0 with typ := 0x1F }, (sR 5 id).t0) := by
  unfold Live
  decide +kernel

/-- Admission window 0 grants reads and writes of line `ln` and of an address without memory behind it. -/
def sRem (f : Rtr → Rtr) (m : MemSys → MemSys) : State := (sH idB m).modTw .t0 fun x =>
  ((((((x.fset Fld.rtrAdmitBase_LINE ln).fset Fld.rtrAdmitLimit_LINE ln).fset Fld.rtrAdmitBase_RD 1).fset Fld.rtrAdmitBase_WR 1)).modRtr f)
def inb (m : FMsg) (r : Rtr) : Rtr := { r with inbox := [m] }
def mWr : FMsg := ⟨1, 0, 48, 0, 5, 0, 0, 7, ln * 128 + 9 * 2 ^ 128, 0, 0⟩
def mRd : FMsg := ⟨2, 0, 32, 0, 5, 0, 0, 7, ln * 128 + 16 * 2 ^ 64, 0, 0⟩
def rq1 (n : Nat) : RemReq := ⟨{ mWr with via := 9 }, n, .dm 0 1⟩
def took (s : State) (typ : Nat) (P : FMsg → Tower → Bool) : Bool := match (s.tw .t0).takeInbox typ with
  | some (m, x) => P m x
  | none => false

/-- The checks of this file that stand for hypotheses on memory: `engFits_of`, `engHas_of`. -/
theorem witness_RemoteRequestResults :
    (Live .t0 (sRem (inb mWr) idM) ∧ took (sRem (inb mWr) idM) 1 (fun m x => x.admits true (m.field 16 8) (m.len - 32) && decide (m.field 16 8 % 16 = 0) &&
        decide (48 ≤ m.len) && engFitsB (sRem (inb mWr) idM) .t0 (m.field 16 8) (m.len - 32)) = true ∧
      took (sRem (inb { mWr with body := 9 }) idM) 1 (fun m x => !x.admits true (m.field 16 8) (m.len - 32)) = true ∧
      took (sRem (inb mWr) fun m => { m with retired := [ln] }) 1 (fun m x => x.admits true (m.field 16 8) (m.len - 32) &&
        decide (m.field 16 8 % 128 + (m.len - 32) ≤ 128) && decide (m.field 16 8 / 128 = ln)) = true ∧
      (sRem (inb mWr) fun m => { m with retired := [ln] }).targetB (ln * 128) = .hbm .t0 ∧ (sRem (inb mWr) idM).t0.mem.lost = [] ∧
      sfind (sRem (inb mWr) idM).t0.mem.vis ln = none) ∧
    (took (sRem (inb mRd) idM) 2 (fun m x => x.admits false (m.field 16 8) (m.field 24 4) && decide (m.field 24 4 = 16) &&
        engHasB (sRem (inb mRd) idM) .t0 (m.field 16 8) (m.field 24 4) 0) = true ∧
      took (sRem (inb { mRd with body := 9 }) idM) 2 (fun m x => !x.admits false (m.field 16 8) (m.field 24 4)) = true ∧
      took (sRem (inb mRd) fun m => { m with retired := [ln] }) 2 (fun m x => x.admits false (m.field 16 8) (m.field 24 4) &&
        decide (m.field 24 4 % 16 = 0) && decide (m.field 16 8 % 128 + m.field 24 4 ≤ 128) && decide (m.field 16 8 / 128 = ln)) = true) ∧
    ([0x10, 0x11, 0x1E].all (fun typ => took (sRem (fun r => { inb { mRd with typ := typ } r with rem := [rq1 1] }) idM) typ fun m x =>
      decide (x.rtr.rem.find? (fun q => decide (q.msg.tag = m.tag)) = some (rq1 1))) = true ∧
      ([1, 4].all fun n => decide (((sRem (fun r => { r with rem := [rq1 n] }) idM).tw .t0).rtr.rem.find? (fun q => decide (q.msg.tag = 7)) = some (rq1 n))) = true) := by
  unfold Live
  decide +kernel

/-- An all-reduce of 256 bytes between the two towers, rank 0, and a chunk of its first step. -/
def cd0 (cpl : Bool) : Nat := 2 ^ 56 + (if cpl then 2 ^ 45 + (ln + 1) * 128 * 2 ^ (8 * 0x28) else 0) + (ln + 2) * 128 * 2 ^ (8 * 0x08) + 256 * 2 ^ (8 * 0x10) +
  2 * 2 ^ (8 * 0x14) + 100 * 2 ^ (8 * 0x1C) + (ln + 1) * 128 * 2 ^ (8 * 0x20) + 3 * 2 ^ (8 * 0x38) + 4 * 2 ^ (8 * 0x3C)
def cr0 : CollRun := ⟨cd0 false, [0, 1024], 0, 0, [], 0, [], 0, false⟩
def sCo (f : Rtr → Rtr) (bad : Bool) : State := (sH idB fun m => { m with
    dir := [(ln, lineOf (if bad then 1 else cd0 false)), (ln + 1, lineOf (1024 * 2 ^ 16)), (ln + 2, lineOf 0), (ln + 3, lineOf 0)] }).modTw .t0 fun x => x.modRtr f
def cmsg (group fcl step off : Nat) : FMsg :=
  ⟨0x20, 2, 176, 0, 1024, 0, 0, 7, group + 4 * 2 ^ 32 + step * 2 ^ 64 + (if step < 2 ^ 15 then 2 ^ 80 else 0) + off * 2 ^ 96 + fcl * 2 ^ 128, 0, 8⟩
def cout (n : Nat) (no : Bool) : CollOut := ⟨cmsg 3 0 0 0, n, no⟩
def collIs (m : FMsg) (P : CollRun → FMsg → Tower → Bool) : Bool :=
  took (sCo (fun r => { inb m r with coll := [(1, cr0)] }) false) 0x20 fun m x => !(x.rtr.collFailed.contains (m.field 16 4, m.field 20 4)) &&
    match x.rtr.collOf (m.field 16 4) (m.field 20 4) with
    | some (_, c) => P c m x
    | none => false

theorem witness_CollectiveResults :
    (Live .t0 (sCo (fun r => { r with collQ := [ln * 128] }) true) ∧ (sCo id true).inHbm .t0 (ln * 128) 128 = true ∧
      engHasB (sCo (fun r => { r with collQ := [ln * 128] }) true) .t0 (ln * 128) 128 1 = true ∧
      collCheck (sCo (fun r => { r with collQ := [ln * 128] }) true) .t0 1 ≠ 0 ∧
      (let s := sCo (fun r => { r with collQ := [ln * 128] }) false
       engHasB s .t0 (ln * 128) 128 (cd0 false) = true ∧ collCheck s .t0 (cd0 false) = 0 ∧ cG (cd0 false) = 2 ∧ cRank (cd0 false) = 0 ∧
        engHasB s .t0 (cMlist (cd0 false)) (2 * 2) (1024 * 2 ^ 16) = true ∧
        (List.range 2).map (fun i => bits (1024 * 2 ^ 16) (16 * i + 15) (16 * i)) = [0, 1024] ∧ (s.tw .t0).faddr = 0 ∧ uniq [0, 1024] = [0, 1024])) ∧
    (cr0.step < cSteps cr0.desc ∧ 0 < cSeg cr0.desc ∧ cr0.out.length < 16 ∧
      engHasB (sCo (fun r => { r with coll := [(1, cr0)] }) false) .t0 (cBuf cr0.desc + cSegOf cr0.desc (cRank cr0.desc) 0 * cSeg cr0.desc + 0)
        (min 3968 (cSeg cr0.desc - 0)) 0 = true) ∧
    (took (sCo (fun r => inb (cmsg 9 0 0 0) { r with coll := [(1, cr0)] }) false) 0x20 (fun m x => decide (x.rtr.collOf (m.field 16 4) (m.field 20 4) = none)) = true ∧
      collIs (cmsg 3 5 0 0) (fun c m _ => decide (m.field 32 1 ≠ cFcl c.desc)) = true ∧
      collIs (cmsg 3 0 9 0) (fun c m _ => decide (m.field 32 1 = cFcl c.desc) && decide (cSteps c.desc ≤ wireStep c.desc (m.field 24 2))) = true ∧
      collIs (cmsg 3 0 0 0) (fun c m _ => decide (m.field 32 1 = cFcl c.desc) && decide (wireStep c.desc (m.field 24 2) < cRs c.desc) &&
        decide (m.field 26 2 = cSegOf c.desc ((cRank c.desc + cG c.desc - 1) % cG c.desc) (wireStep c.desc (m.field 24 2))) &&
        decide (m.len - 48 = min 3968 (cSeg c.desc - m.field 28 4)) && decide (c.applied = []) && decide (c.lines = 0) &&
        decide (m.field 24 2 < 2 ^ 15) && decide (cRm c.desc ≠ 4) && decide (cBuf c.desc % 128 = 0) && decide ((m.len - 48) / 128 = 1) &&
        homeLineB (sCo (fun r => { inb m r with coll := [(1, cr0)] }) false) .t0 .t0 (.hbm .t0)
          ((cBuf c.desc + m.field 26 2 * cSeg c.desc + m.field 28 4) / 128) 0) = true ∧
      collIs (cmsg 3 0 (2 ^ 15) 0) (fun c m _ => decide (m.field 32 1 = cFcl c.desc) && decide (wireStep c.desc (m.field 24 2) < cSteps c.desc) &&
        decide (cRs c.desc ≤ wireStep c.desc (m.field 24 2)) && decide (m.len - 48 = min 3968 (cSeg c.desc - m.field 28 4)) &&
        decide (m.field 26 2 = cSegOf c.desc ((cRank c.desc + cG c.desc - 1) % cG c.desc) (wireStep c.desc (m.field 24 2))) &&
        engFitsB (sCo (fun r => { inb m r with coll := [(1, cr0)] }) false) .t0 (cBuf c.desc + m.field 26 2 * cSeg c.desc + m.field 28 4) (m.len - 48)) = true) ∧
    (took (sCo (fun r => { inb { cmsg 0 0 0 0 with typ := 0x12 } r with coll := [(1, { cr0 with out := [cout 1 false] })] }) false) 0x12 (fun m _ =>
        decide (m.field 16 1 = 0) && decide (m.tag = 7)) = true ∧
      ([(1, false), (4, false), (1, true)].all fun p => decide (([(1, { cr0 with out := [cout p.1 p.2] })] : SMap CollRun).findSome? (fun e =>
        e.2.out.find? fun o => decide (o.msg.tag = 7)) = some (cout p.1 p.2))) = true) ∧
    (cCplEn (cd0 false) = false ∧ cCplEn (cd0 true) = true ∧ cCpl (cd0 true) % 4 = 0 ∧
      engFitsB (sCo (fun r => { r with coll := [(1, { cr0 with desc := cd0 true, ended := true, result := 0x62 })] }) false) .t0 (cCpl (cd0 true)) 4 = true) := by
  unfold Live
  decide +kernel

def mTime (kind t1 t2 t3 stamp : Nat) : FMsg := ⟨0x30, 0, 48, 0, 1, 0, 0, 7, kind + t1 * 2 ^ 64 + t2 * 2 ^ 128 + t3 * 2 ^ 192, stamp, 0⟩

theorem witness_DeviceTimeResults : ((sR 5 id).t0.fget Fld.rtrTimeCfg_MASTER = 0 ∧
      (((sR 5 id).modTw .t0 fun x => x.fset Fld.rtrTimeCfg_PARENT 0).tw .t0).eligible 3 0 = true ∧
      (((sR 5 id).modTw .t0 fun x => x.fset Fld.rtrTimeCfg_PARENT 8).tw .t0).fget Fld.rtrTimeCfg_PARENT = 8 ∧ (sR 5 id).t1.serving = true) ∧
    (took (sR 5 (inb (mTime 1 100 0 0 500))) 0x30 (fun m x => decide (m.field 16 1 = 1) && decide (m.via < 8) && x.eligible 3 m.via) = true ∧
      took (sR 5 fun r => { inb (mTime 2 1000 9000 9100 1300) r with timeWait := 1 }) 0x30 (fun m x => decide (m.field 16 1 = 2) &&
        decide (x.fget Fld.rtrTimeCfg_MASTER = 0) && decide (x.rtr.timeWait ≠ 0) &&
        decide (1000 < (((m.field 32 8 : Int) - m.field 24 8) - ((m.stamp : Int) - m.field 40 8)) / 2)) = true ∧
      took (sR 5 fun r => { inb (mTime 2 1000 1100 1200 1300) r with timeWait := 1 }) 0x30 (fun m _ =>
        decide ((((m.field 32 8 : Int) - m.field 24 8) - ((m.stamp : Int) - m.field 40 8)) / 2 ≤ 1000)) = true) := by decide +kernel


/-! Witnesses: bring-up and the engines. -/

/-- Tower 0 in a step of bring-up. -/
def sBt (step sub : Nat) (f : Tower → Tower) : State := sUp.modTw .t0 fun x => f ((x.fset Fld.glbTower_STATE 0).modSys fun y => { y with
  boot := { y.boot with step := step, sub := sub }, mgmt := { y.mgmt with up := decide (3 ≤ step) } })

theorem witness_BringUpResults :
    ((sBt 2 0 id).t0.mgmtAlive = true ∧ (sBt 2 0 id).t0.sys.mgmt.up = false ∧ (sBt 2 0 id).t0.sys.boot.step = 2 ∧ (sBt 2 0 id).t0.sys.boot.restored = true ∧
      (sBt 2 0 id).t0.fget Fld.mgtStat_TRIAL = 0 ∧ (sBt 2 0 id).t0.bankValid 0 = false ∧ (sBt 2 0 id).t0.bankValid 1 = false) ∧
    ((sBt 3 0 id).t0.sys.boot.step = 3 ∧ fusesAgree (sBt 3 0 id).t0.sys.fuses = true ∧ (sBt 3 0 id).t0.restoring 6 = none ∧
      fusesAgree { Fuses.sample with part := 1 } = false) ∧
    ((sBt 5 0 id).t0.lock = [] ∧ (sBt 5 0 id).t0.sys.boot.bad = [] ∧ (sBt 5 0 id).t0.enabled.getLsbD 7 = true ∧
      (sBt 5 0 fun x => x.modSys fun y => { y with fuses := { y.fuses with spare := 0 } }).t0.sys.fuses.spare = 0) ∧
    ((sBt 6 2 id).t0.sys.boot.sub = 2 ∧ (sBt 6 2 id).t0.sys.boot.pattern = 0 ∧ (sBt 6 2 id).t0.sys.boot.full = false ∧
      (sBt 6 2 fun x => x.modBoot fun b => { b with pattern := 7, full := true }).t0.sys.boot.rows = [] ∧
      ([ln, pinBase .t0 / 128].filter fun l => !hbmLine .t0 6 l) = [pinBase .t0 / 128]) ∧
    ((sBt 9 0 id).t0.fget Fld.rtrCfg_LOCK = 0 ∧ (sBt 9 0 id).t0.sys.boot.step = 9 ∧
      (let x := (sBt 9 0 fun x => (x.fset Fld.rtrCfg_LOCK 1).fset Fld.rtrCfg_DX 16 |>.fset Fld.rtrCfg_DY 8 |>.fset Fld.rtrCfg_DZ 2).t0
       x.fget Fld.licStat_FABRIC = 0 ∧ x.fget Fld.rtrCfg_LOCK = 1 ∧ 128 < x.extent 0 * x.extent 1 * x.extent 2) ∧
      (let x := (sBt 9 0 fun x => (x.fset Fld.rtrCfg_LOCK 1).fset Fld.rtrTopo_MODE 2 3 |>.setLstate 3 5 |>.fset Fld.lnkPartner_VALID 1 3).t0
       x.extent 0 * x.extent 1 * x.extent 2 ≤ 128 ∧ (∀ p, p < 8 → x.hasPort p = true → x.fget Fld.rtrTopo_MODE p = 2 → x.active p = true ∧ x.partnerOk p = true) ∧
         ∀ p, p < 8 → x.hasPort p = true → x.fget Fld.rtrTopo_MODE p = 1 → x.active p = true → x.partnerOk p = true) ∧
      (let x := (sBt 9 0 fun x => (x.fset Fld.rtrCfg_LOCK 1).fset Fld.rtrTopo_MODE 2 3 |>.setLstate 3 5 |>.fset Fld.lnkPartner_VALID 1 3 |>.fset Fld.lnkPartner_NODE 5 3).t0
       (List.range 8).find? (fun p => x.hasPort p && x.active p && decide (x.fget Fld.rtrTopo_MODE p = 1 ∨ x.fget Fld.rtrTopo_MODE p = 2) &&
        decide (x.fget Fld.lnkPartner_VALID p = 1) && !x.partnerOk p) = some 3)) ∧
    ((sBt 10 0 id).t0.sys.boot.step = 10 ∧ ∀ f, f = 1 ∨ f = 2 ∨ f = 3 → (sBt 10 0 id).t0.sys.store.read (0x20 + f) = none) := by
  refine ⟨?_, ?_, by decide +kernel, by decide +kernel, by decide +kernel, by decide +kernel, ?_⟩
  · decide +kernel
  · decide +kernel
  · rintro f (rfl | rfl | rfl) <;> decide +kernel

/-- A tile program in scratchpad: 16 rows by 64 columns by 64, 8-bit, FP32 out. -/
def td0 (mode : Nat) : Nat := 2 ^ 56 + 3 * 2 ^ 52 + 3 * 2 ^ 48 + mode * 2 ^ 36 + (1 * 2 ^ 9 + 2 * 2 ^ 6 + 3 * 2 ^ 3 + 4) + 16 * 2 ^ 64 + 64 * 2 ^ 96 + 64 * 2 ^ 128 +
  2 ^ 160 + 2 ^ 176 + 2 ^ 192 + (spA 0 + 128 * 2 ^ 64) * 2 ^ (8 * 0x20) + (spA 2048 + 128 * 2 ^ 64) * 2 ^ (8 * 0x38) +
  ((if mode = 0 then spA 10240 else ln * 128) + 256 * 2 ^ 64) * 2 ^ (8 * 0x50)
def tile0 (started : Bool) : TpTile := ⟨0, 0, List.range 16, [], started⟩
def unit0 (err : Option Nat) : TpUnit := ⟨0, 0, 0, 0, 0, [tile0 true], 0, err⟩
def tr0 : TpRun :=
  ⟨5, 0, grp0.gid, 0x200000, 64, none, some (BitVec.ofNat 2048 (td0 0)), 0, none, none, [], 0, [], 0, false, 0, false, false⟩
def drn0 : TpDrain := ⟨0, 0, 0, 0, 0, 0, 0, [0, 1], false⟩
/-- The lines of the descriptor as they arrive for the sequencer. -/
def tBuf (i : Nat) : EngBuf := ⟨tileUnit, i, 0x4000 + i, [0, 1, 2, 3],
  (List.range 4).map fun k => ⟨(0x4000 + i) * 4 + k, BitVec.ofNat 256 (td0 0 >>> (1024 * i + 256 * k)), 0, true, false, none⟩⟩
/-- A brick whose tile program stands as given, with 32 KiB of scratchpad that no block has written, and its descriptor's lines. -/
def sTp (r : TpRun) : State := (sM 0 (wR 0 0 0 0 0)).modBrick b0 fun b => { b with
  blocks := [(0, { blk0 with spBytes := 32768, fresh := true })], tp := { b.tp with run := some r }, ebuf := [tBuf 0, tBuf 1] }
def sTpE (a : Nat) : State := sJ 0 (wR 0 0 0 0 0) fun b => { b with
  blocks := [(0, { blk0 with fresh := true })], mx := { b.mx with queue := [⟨1, grp0.gid, 0, 0, 0, .queued, .tile 5 a⟩] } }
def trU (err : Option Nat) (staged : List TpStage) : TpRun := { tr0 with unit := 1, cur := some (unit0 err), staged := staged }
def trN : TpRun := { tr0 with desc := none }
def runM : RunCtx := { run0 with wins := [⟨0x200000, 0x100000, true, false⟩], cluster := 2 }

theorem witness_TileSequencerResults :
    (∀ a ∈ [spA 0, 0x200000], Live .t0 (sTpE a) ∧ ((sTpE a).brick b0).mx.next MxKind.isTile = some ⟨1, grp0.gid, 0, 0, 0, .queued, .tile 5 a⟩) ∧
    ((isSp (spA 0) = true ∧ blk0.spOk (spA 0) 256 = true ∧ isSp 0x200000 = false ∧ ((sTpE 0x200000).brick b0).dcache = [] ∧
      (sTpE 0x200000).t0.kwinOk 0x200000 256 = true ∧ (sTpE 0x200000).targetB 0x200000 = .hbm .t0 ∧ (sTpE 0x200000).targetB 0x200080 = .hbm .t0)) ∧
    ((((sTp trN).brick b0).run = some runM ∧ trN.addr % 128 = 0 ∧ isSp trN.addr = false ∧ (sTp trN).targetB trN.addr ≠ .host ∧
      ((sTp trN).brick b0).dcache = [] ∧ startCheck (sTp trN) runM { blk0 with spBytes := 32768, fresh := true } (tdesc (td0 0)) = none ∧
      (startCheck (sTp trN) runM { blk0 with spBytes := 32768 } (tdesc 0)).isSome = true) ∧ ImgHas (sTp trN) b0 tileUnit trN.block trN.addr 256 (td0 0)) ∧
    (tr0.unit < (tdesc (td0 0)).units tr0.width ∧ tr0.ended = false ∧ tr0.next = none ∧ (tdesc (td0 0)).lm = false ∧ (tdesc (td0 0)).lk = false ∧
      (tdesc (td0 0)).mk' = false ∧ (tdesc (td0 0)).zb = false) ∧
    ((trU (some 0x13) []).result = 0 ∧ (sTp (trU (some 0x13) [])).tpLost b0 5 = none ∧ (trU (some 0x13) []).cur = some (unit0 (some 0x13)) ∧
      (sTp { tr0 with ended := true }).tpDone b0 { tr0 with ended := true } = true ∧ tr0.cplOk = false ∧
      (let s := (sTp tr0).modTw .t1 fun x => { x with mem := { x.mem with redErr := [(.tile .t0 0 5, 0x15)] } }
       s.tpLost b0 5 = some 0x15 ∧ (s.brick b0).portDone tileUnit 2 = true)) := by
  unfold Live
  exact ⟨by decide +kernel, by decide +kernel, ⟨by decide +kernel, imgHas_of (by decide +kernel)⟩, by decide +kernel, by decide +kernel⟩

/-- The weights of a K-step, the step itself, and a drain. -/
theorem witness_TileSequencerResults_steps :
    let x := tdesc (td0 0)
    ((sTp (trU none [])).t0.withheld b0.s.val = false ∧ (trU none []).stageNext x.kt = some (unit0 none, 0) ∧ x.cols 64 0 = 64 ∧ x.sparse = 0 ∧ isMx x.wfmt = false ∧
      (∀ i, i < 64 → ImgHas (sTp (trU none [])) b0 (tpWho 2 0 0) 0 (x.w.row 0 0 0 (64 * 0 + i) + 0) (8 * fmtWidth x.wfmt) 0) ∧
      (parseWeights x.wfmt 0 64 0 0 0).isSome = true ∧ parseWeights 1 1 64 0 0 0 = none) ∧
    (let r := trU none [⟨0, 0, WTile.empty⟩]
     (unit0 none).step x.kt 0 = some 0 ∧ (unit0 none).tiles.filter (fun q => !q.skip.contains 0) = [tile0 true] ∧ (tile0 true).half = 0 ∧ r.drains = [] ∧
      ∀ row, row < 16 → ImgHas (sTp r) b0 (tpWho 3 0 0) 0 (x.a.row 0 0 0 row + 0) (8 * fmtWidth x.afmt * x.f) 0) ∧
    (let r := { tr0 with drains := [drn0] }
     x.mode = 0 ∧ (tdesc (td0 1)).mode = 1 ∧ (sTp r).tpSettled b0 5 = true ∧ (sTp r).tpLost b0 5 = none ∧
      (∀ row ∈ drn0.rows, ((sTp tr0).tw .t0).kwinOk ((tdesc (td0 1)).o.row 0 0 0 row + 64 * 0 * fmtWidth (tdesc (td0 1)).ofmt / 8)
        ((tdesc (td0 1)).cols 64 0 * fmtWidth (tdesc (td0 1)).ofmt / 8) = true) ∧
      ∀ i, i < 2 → ImgFits (sTp r) b0 0 (x.o.row 0 0 0 (drn0.rows.getD i 0) + 64 * 0 * fmtWidth x.ofmt / 8) 256) :=
  ⟨⟨by decide +kernel, by decide +kernel, by decide +kernel, by decide +kernel, by decide +kernel, by intro i hi; apply imgHas_of; revert i; decide +kernel,
    by decide +kernel, by decide +kernel⟩,
   ⟨by decide +kernel, by decide +kernel, by decide +kernel, by decide +kernel, by intro i hi; apply imgHas_of; revert i; decide +kernel⟩,
   ⟨by decide +kernel, by decide +kernel, by decide +kernel, by decide +kernel, by decide +kernel, by intro i hi; apply imgFits_of; revert i; decide +kernel⟩⟩


/-! Witnesses: route units and near-bank units. -/

/-- A dispatch of one token of 128 bytes to one expert, its gating entry, table, length word, map and rows in lines after `ln`; a combine of it. -/
def rd0 (op : Nat) : Nat := 2 ^ 56 + op * 2 ^ 54 + (ln + 1) * 128 * 2 ^ 64 + 2 ^ 128 + 2 ^ 160 + 2 ^ 176 + (if op = 0 then (ln + 8) * 128 * 2 ^ (8 * 0x18) + 128 * 2 ^ (8 * 0x20) else
  (ln + 9) * 128 * 2 ^ (8 * 0x50) + 128 * 2 ^ (8 * 0x58)) +
  128 * 2 ^ (8 * 0x24) + (ln + 2) * 128 * 2 ^ (8 * 0x28) + (ln + 3) * 128 * 2 ^ (8 * 0x30) + (ln + 4) * 128 * 2 ^ (8 * 0x38)
/-- An expert in this tower's memory, and one in another module. -/
def ent0 (kind : Nat) : Nat := kind + 16 * 2 ^ 16 + (ln + 16) * 128 * 2 ^ 64 + 128 * 2 ^ 128 + (if kind = 3 then 5 * 2 ^ 32 + 0x100000000 * 2 ^ 192 else 0)
def job0 : RtJob := ⟨3, 6, 0, 0, 1, grp0.gid, 0, ln * 128⟩
def rr0 (op phase : Nat) : RtRun := ⟨job0, rd0 op, phase, [], [], [], [], 0, none, none, 0, 0, false, false, false, none, 0, false⟩
def sRt (r : Option RtRun) (q : List RtJob) : State := ((sM 0 (wR 0 0 0 0 0)).modTw .t0 fun x => { x with
  mem := { x.mem with dir := [(ln, lineOf (rd0 0)), (ln + 1, lineOf (0x3F800000 * 2 ^ 32)), (ln + 2, lineOf (ent0 1)), (ln + 3, lineOf 0), (ln + 4, lineOf 0), (ln + 8, lineOf 7), (ln + 9, lineOf 0),
    (ln + 16, lineOf 0), (ln + 17, lineOf 0)] }
  routes := [(0, { RtUnit.init with run := r, q := q })] })
def rrT : RtRun := { rr0 0 1 with gates := [(0, 0x3F800000)], table := [ent0 1], lens := [1] }
def rrW (w : List RtItem) : RtRun := { rrT with work := w }
/-- The state in which the checks of memory are made. -/
def sRr (r : RtRun) : State := sRt (some r) []
def hasR (r : RtRun) (a n v : Nat) : Bool := rtHasB (sRr r) .t0 r.job a n v
def fitsR (r : RtRun) (a n : Nat) : Bool := rtFitsB (sRr r) .t0 r.job a n

/-- `rtHas_of` and `rtFits_of` say what the checks stand for. -/
theorem witness_RouteUnitResults :
    (Live .t0 (sRt none [job0]) ∧ ((sRt none [job0]).rtCtx .t0 job0).isSome = true ∧ job0.addr % 128 = 0 ∧ isSp job0.addr = false ∧
      (sRt none [job0]).targetB job0.addr ≠ .host ∧ rtHasB (sRt none [job0]) .t0 job0 job0.addr 128 (rd0 0) = true ∧ rOp (rd0 1) = 1) ∧
    ((rr0 0 0).ended = false ∧ (rr0 0 0).err = none ∧ rTokens (rd0 0) * rTopk (rd0 0) = 1 ∧ (128 - rGate (rd0 0) % 128) / 8 = 16 ∧
      hasR (rr0 0 0) (rGate (rd0 0)) 8 (0x3F800000 * 2 ^ 32) = true ∧ bits (0x3F800000 * 2 ^ 32) 15 0 < rExperts (rd0 0) ∧ rExperts (rd0 0) = 1 ∧
      hasR (rr0 0 0) (rTable (rd0 0)) 32 (ent0 1) = true ∧ ((sRr (rr0 0 0)).rtCtx .t0 job0).isSome = true ∧
      (match (sRr (rr0 0 0)).rtCtx .t0 job0 with
        | some (ctx, _) => decide (expertBad (sRr (rr0 0 0)) ctx (rd0 0) (ent0 1) = none)
        | none => false) = true) ∧
    (let r := rrW [.row 0 0 0 0]
     hasR r (rSrc (rd0 0)) (rRow (rd0 0)) 7 = true ∧ eKind (ent0 1) = 1 ∧ fitsR r (expRow r 0 0) (rRow (rd0 0)) = true ∧ rNoMap (rd0 0) = false ∧
      fitsR r (rMap (rd0 0)) 8 = true ∧ expRow r 0 0 % 128 = 0 ∧ rRow (rd0 0) % 128 = 0 ∧ isSp (rMap (rd0 0)) = false ∧
      rMap (rd0 0) + 8 ≤ expRow r 0 0 ∧ r.phase = 1 ∧ rOp (rd0 0) = 0 ∧ r.out = none) ∧
    ([rrW [.mark 0 0 0 0], rrW [.map 0 0]].all (fun r => fitsR r (rMap (rd0 0)) 8) = true ∧
      (let r := rrW [.zero 0 1]
       fitsR r (expRow r 0 1) (rRow (rd0 0)) = true)) ∧
    (let r := { rrT with phase := 2 }
     r.next < rExperts (rd0 0) ∧ (sRr r).t0.remOut 0 r.job.num (some 0) = false ∧ (sRr r).t0.remFail 0 r.job.num = false ∧ eKind (ent0 1) ≠ 3 ∧
      eKind (ent0 3) = 3 ∧ fitsR r (rLen (rd0 0) + 4 * 0) 4 = true) ∧
    ({ rr0 0 0 with err := some 0x42 }.err = some 0x42 ∧ { rr0 0 0 with ended := true, result := 0x42 }.cplOk = false ∧
      (sRr { rr0 0 0 with ended := true }).t0.remOut 0 3 none = false) := by
  unfold Live
  refine ⟨by decide +kernel, by decide +kernel, by decide +kernel, by decide +kernel, by decide +kernel, by decide +kernel⟩

/-- A combine of the one token, whose map word names row 0 of the expert. -/
def mv0' : Nat := 0x3F800000 * 2 ^ 32 + 2 ^ 31
def rrC : RtRun := { rr0 1 1 with tmap := some mv0' }
theorem witness_RouteUnitResults_combine :
    rrC.next < rTokens (rd0 1) ∧ rrC.table = [] ∧ hasR rrC (rTable (rd0 1)) (32 * rExperts (rd0 1)) (ent0 1) = true ∧ rrC.out = none ∧
    combineSlots (rd0 1) [ent0 1] mv0' = [mv0'] ∧ bits mv0' 63 32 = 0x3F800000 ∧ eKind (ent0 1) ≠ 2 ∧
    hasR rrC (slotRow [ent0 1] mv0') (rRow (rd0 1)) 0 = true ∧ (rd0 1).testBit 37 = false ∧
    fitsR rrC (rDst (rd0 1) + 0 * rDstPitch (rd0 1)) (rOutRow (rd0 1)) = true ∧
    (match (sRr rrC).rtCtx .t0 job0 with
      | some (ctx, k) => !k.retired && decide (expertBad (sRr rrC) ctx (rd0 1) (ent0 1) = none)
      | none => false) = true := by
  refine ⟨by decide +kernel, by decide +kernel, by decide +kernel, by decide +kernel, by decide +kernel, by decide +kernel, by decide +kernel,
    by decide +kernel, by decide +kernel, by decide +kernel, by decide +kernel⟩

/-- One step over one row of 128 elements and the NBUs of chain indices 0 and 1: regions 0 to 2 lie in pinned memory. Its completion word lies in line `ln`
when `cpl` says so. -/
def nd0 (op : Nat) (cpl : Bool) : Nat := 2 ^ 56 + 2 ^ 51 + (if cpl then 2 ^ 50 + ln * 128 * 2 ^ (8 * 0x18) else 0) + 2 ^ 80 + 2 * 2 ^ 96 + 2 ^ 128 + 128 * 2 ^ 160 +
  512 * 2 ^ 16 * 2 ^ 512 + (512 * 2 ^ 36 + 512 * 2 ^ 16) * 2 ^ 576 + (1024 * 2 ^ 36 + 512 * 2 ^ 16) * 2 ^ 640 +
  (op + 0 * 2 ^ 8 + 1 * 2 ^ 16 + (if op = 1 then 2 else 255) * 2 ^ 24 + 255 * 2 ^ 32) * 2 ^ 1024
def nu (f : NbuUnit → NbuUnit) : NbuUnit := f NbuUnit.init
def nc0 (f : NbuCmd → NbuCmd) : NbuCmd := f ⟨1, .driver, none, ln * 128, false, none, 0, false, [], [], false, 0, 0, 0, false⟩
def sNb (desc : Nat) (k : NbuCmd) : State := (sH idB fun m => { m with dir := [(ln, lineOf desc), (ln + 1, lineOf (desc / 2 ^ 1024)), (ln + 2, lineOf 0)] }).modTw .t0 fun x => { x with
  nbu := { x.nbu with cmds := [k], lastSeq := 1 } }.fset Fld.llcCfg_PINNED 4
def ncRun (op : Nat) (u0 u1 : NbuUnit) : NbuCmd := nc0 fun k => { k with asked := true, desc := nd0 op false, delivered := true, units := [(0, u0), (1, u1)] }
def isFront (c : Nat) (k : NbuCmd) : Bool := decide (((sNb 0 k).t0.nbu.queueOf c).head? = some k)
def stU (f : NbuUnit → NbuUnit) : NbuUnit := f (nu fun u => { u with started := true })
def uS : NbuUnit := stU id
def uP (sent : SMap (List R32)) : NbuUnit := stU fun u => { u with own := [(0, [5])], sent := sent }

theorem srcHas_of {s : State} {x : NAcc} {reg r e n v : Nat} (hk : nKind (nRegion x.k.desc reg) ≤ 1) (hg : x.unit.got = [])
    (hw : s.nbuWin x.t x.k.src.kw (nbuAddr x.t x.slice (nOff (nRegion x.k.desc reg) + (if nKind (nRegion x.k.desc reg) = 0 then
      r * nPitch (nRegion x.k.desc reg) else 0) + e * fmtWidth (nFmt (nRegion x.k.desc reg)) / 8)) (n * fmtWidth (nFmt (nRegion x.k.desc reg)) / 8) = true)
    (he : engHasB s x.t (nbuAddr x.t x.slice (nOff (nRegion x.k.desc reg) + (if nKind (nRegion x.k.desc reg) = 0 then
      r * nPitch (nRegion x.k.desc reg) else 0) + e * fmtWidth (nFmt (nRegion x.k.desc reg)) / 8)) (n * fmtWidth (nFmt (nRegion x.k.desc reg)) / 8) v = true) :
    ∃ vs, SrcHas s x reg r e n vs := by
  refine ⟨(List.range n).map fun i => (convert (nFmt (nRegion x.k.desc reg)) 0 0 false false 0 (elemOf (fmtWidth (nFmt (nRegion x.k.desc reg))) v i)).1, ?_⟩
  unfold SrcHas
  simp only [if_pos hk]
  refine ⟨v, ⟨hw, ?_⟩, rfl⟩
  rw [hg]
  exact engHas_of he

theorem nbuFits_of {s : State} {x : NAcc} {line : Nat} (hd : x.dst = some line) (hw : s.nbuWin x.t x.k.src.kw (line * 128) 128 = true)
    (he : engFitsB s x.t (line * 128) 128 = true) : NbuFits s x := ⟨line, hd, hw, engFits_of he⟩

theorem witness_NearBankResults :
    (Live .t0 (sNb 0 (nc0 id)) ∧ (sNb 0 (nc0 id)).t0.nbu.head = some (nc0 id) ∧ (nc0 id).asked = false ∧ (sNb 0 (nc0 id)).nbuPlace .t0 false (ln * 128) = true ∧
      (sNb 0 (nc0 id)).nbuPlace .t0 false (2 ^ 46) = false ∧ (sNb 0 (nc0 id)).nbuPlace .t0 false (ln * 128 + 4) = true) ∧
    ((sNb 0 (nc0 fun k => { k with asked := true })).t0.nbu.head = some (nc0 fun k => { k with asked := true }) ∧
      (let s := sNb (nd0 1 false) (nc0 fun k => { k with asked := true })
       engHasB s .t0 (ln * 128) 128 (nd0 1 false % 2 ^ 1024) = true ∧ nSteps (nd0 1 false % 2 ^ 1024) = 1 ∧
        engHasB s .t0 (ln * 128 + 128) 32 (nd0 1 false / 2 ^ 1024) = true ∧ nbuCheck s .t0 none (nd0 1 false) = none) ∧
      (let s := sNb 1 (nc0 fun k => { k with asked := true })
       engHasB s .t0 (ln * 128) 128 1 = true ∧ nSteps 1 = 0 ∧ nbuCheck s .t0 none 1 = some 0x50)) ∧
    ((nc0 fun k => { k with asked := true, desc := nd0 1 false }).desc ≠ 0 ∧ ((sNb 0 (nc0 id)).t0.nbu.queueOf 0).length < 8) ∧
    (isFront 0 (ncRun 1 (nu id) (nu id)) = true ∧ (nu id).started = false ∧ isFront 0 (ncRun 1 (stU fun u => { u with stepDone := true }) uS) = true) ∧
    (isFront 0 (ncRun 1 uS uS) = true ∧ (sNb 0 (ncRun 1 uS uS)).t0.nbuWithheld 0 = false ∧ (sget Region.init (sNb 0 (ncRun 1 uS uS)).t0.sys.regions ((sNb 0 (ncRun 1 uS uS)).t0.chainSlice 0 / 8)).ret.testBit 1 = false ∧
      (sNb 0 (ncRun 1 uS uS)).t0.sliceLive ((sNb 0 (ncRun 1 uS uS)).t0.chainSlice 0) = true ∧ (sNb 0 (ncRun 1 uS uS)).t0.chainSlice 0 = 0 ∧
      (match nbuFirst (sNb 0 (ncRun 1 uS uS)) .t0 (ncRun 1 uS uS) 0 uS (nStep (nd0 1 false) 0) with
        | .done _ _ => true
        | _ => false) = true ∧
      ((sNb 0 (ncRun 1 uS uS)).modTw .t0 fun x => { x with lock := [(0, 8)] }).t0.sliceLive 0 = false) ∧
    (isFront 1 (ncRun 0x20 (uP [(0, [5])]) (uP [])) = true ∧ (nStep (nd0 0x20 false) 0).isStat = true ∧ 0 < nWidth (nd0 0x20 false) ∧
      (1 - nFirst (nd0 0x20 false)) % nWidth (nd0 0x20 false) = 1 ∧
      (uP [(0, [5])]).sent.find? (fun m => (sfind (uP []).own m.1).isSome && (sfind (uP []).sent m.1).isNone) = some (0, [5]) ∧
      (stU fun u => { u with inn := [(0, [5])] }).inn = [(0, [5])]) ∧
    ((sNb 0 (nc0 fun k => { k with errs := [(0, 4, 0x13), (0, 2, 0x17)] })).t0.nbu.cmds.find? (fun k => !k.ended && !k.errs.isEmpty) =
        some (nc0 fun k => { k with errs := [(0, 4, 0x13), (0, 2, 0x17)] }) ∧
      (sNb 0 (nc0 id)).t0.mem.snoops = [] ∧ (sNb 0 (nc0 fun k => { k with ended := true })).t0.nbu.cmds.find? (fun k => decide (k.seq = 1)) =
        some (nc0 fun k => { k with ended := true }) ∧
      engFitsB (sNb 0 (nc0 fun k => { k with ended := true, desc := nd0 1 true, cplOk := true })) .t0 (nCpl (nd0 1 true)) 4 = true) := by
  unfold Live
  refine ⟨by decide +kernel, by decide +kernel, by decide +kernel, by decide +kernel, by decide +kernel, by decide +kernel, by decide +kernel⟩

/-- What a line access of unit 0 sees. -/
def nacc (k : NbuCmd) (reg : Nat) : NAcc := ⟨.t0, k, 0, 0, nbuDst .t0 0 k.desc reg 0 0⟩

/-- A line of an element operation and of a statistic, and of the pass that applies a statistic. -/
theorem witness_NearBankResults_lines :
    (let k := ncRun 1 uS uS
     let p := nStep (nd0 1 false) 0
     p.isStat = false ∧ p.op = 1 ∧ p.a = 1 ∧ p.b = 2 ∧ p.c = 0xFF ∧ p.d = 0 ∧ nPer k.desc p.walked = 32 ∧ (∃ vs, SrcHas (sNb 0 k) (nacc k 0) 1 0 0 32 vs) ∧
      (∃ vs, SrcHas (sNb 0 k) (nacc k 0) 2 0 0 32 vs) ∧ NbuFits (sNb 0 k) (nacc k 0)) ∧
    (let k := ncRun 0x20 uS uS
     (nStep (nd0 0x20 false) 0).isStat = true ∧ ∃ vs, SrcHas (sNb 0 k) ⟨.t0, k, 0, 0, none⟩ 1 0 0 32 vs) ∧
    (let u := stU fun u => { u with pass2 := true, stat := [(0, [5, 6])] }
     let k := ncRun 0x20 u u
     nRows (nd0 0x20 false) ≤ u.stat.length ∧ NbuFits (sNb 0 k) (nacc k 0)) :=
  ⟨⟨by decide +kernel, by decide +kernel, by decide +kernel, by decide +kernel, by decide +kernel, by decide +kernel, by decide +kernel,
    srcHas_of (v := 0) (by decide +kernel) (by decide +kernel) (by decide +kernel) (by decide +kernel),
    srcHas_of (v := 0) (by decide +kernel) (by decide +kernel) (by decide +kernel) (by decide +kernel),
    nbuFits_of (line := 2 ^ 33) (by decide +kernel) (by decide +kernel) (by decide +kernel)⟩,
   ⟨by decide +kernel, srcHas_of (v := 0) (by decide +kernel) (by decide +kernel) (by decide +kernel) (by decide +kernel)⟩,
   ⟨by decide +kernel, nbuFits_of (line := 2 ^ 33) (by decide +kernel) (by decide +kernel) (by decide +kernel)⟩⟩

/-- A gather of one row of a table in line `ln` + 2, by an index of zero, and a scalar result. -/
def ndG : Nat := nd0 0x40 false + 0xD * 2 ^ 636 + (ln + 2) * 128 * 2 ^ (1024 + 128) + 4 * 2 ^ (1024 + 192) + 4 * 2 ^ (1024 + 224) + 2 ^ (1024 + 248)
theorem witness_NearBankResults_gather :
    (let d := ndG
     let p := nStep d 0
     let k := { ncRun 1 uS uS with desc := d }
     p.op = 0x40 ∧ p.b = 0xFF ∧ p.count = 1 ∧ p.table = (ln + 2) * 128 ∧ p.trows = 4 ∧ nFmt (nRegion d 1) = 0xD ∧
      engHasB (sNb 0 k) .t0 (nbuAddr .t0 0 (nOff (nRegion d 1) + 0)) 4 0 = true ∧ (sNb 0 k).targetB p.table ≠ .host ∧
      engHasB (sNb 0 k) .t0 p.table 128 0 = true) ∧
    (let u := stU fun u => { u with pass2 := true, stat := [(0, [5])] }
     let d := nd0 0x30 false + 2 * 2 ^ (512 + 58)
     let k := { ncRun 0x30 u u with desc := d }
     nRows d = 1 ∧ (sfind u.stat 0).isSome = true ∧ nKind (nRegion d 0) = 2 ∧
      NbuFits (sNb 0 k) ⟨.t0, k, 0, 0, some (nbuAddr .t0 0 (nOff (nRegion d 0)) / 128)⟩) :=
  ⟨by decide +kernel, by decide +kernel, by decide +kernel, by decide +kernel, nbuFits_of (line := 2 ^ 33) (by decide +kernel) (by decide +kernel) (by decide +kernel)⟩


/-! Witnesses: power, heat, clocks and resets. -/

def sT (f : Tower → Tower) : State := sUp.modTw .t0 f
def sSeq (rails : Nat) (aux : Bool) : State := sT fun x => (x.fset Fld.glbTower_STATE 0).modSys fun y => { y with
  rails := rails, aux := aux, boot := { y.boot with step := 1 } }
def sOff : State := { (sSeq 0 false).modTw .t1 fun x => x.modSys fun y => { y with rails := 0, aux := false, boot := { y.boot with step := 0 } } with
  t0 := (sSeq 0 false).t0.modSys fun y => { y with boot := { y.boot with step := 0 } }, pins := ⟨true, false, false⟩ }

theorem witness_PowerSupplyResults : (sUp.t0.mgmtAlive = true ∧ sOff.pins.input = true ∧ sOff.pins.coldRst = false ∧ sOff.t0.isOff = true ∧ sOff.t1.isOff = true) ∧
    ((sSeq 0 false).t0.sequencing = true ∧ (sSeq 0 false).t0.seqNext 0 = 0 ∧ (sSeq 254 true).t0.seqNext 0 = 6 ∧
      (∀ q, q < 7 → 1 ≤ q → ((sSeq 254 true).t0.sys.rails ||| seqRails 6) &&& seqRails q = seqRails q) ∧
      (sSeq 4 true).t0.seqNext 0 = 2) ∧
    (sUp.t0.sequencing = false ∧ (sT fun x => x.modSys fun y => { y with vcoreBad := true }).t0.sys.vcoreBad = true ∧ sUp.t0.sys.rails.testBit 0 = true) ∧
    (sUp.t0.sys.rails.testBit 3 = true ∧ sUp.t0.sys.railAt = none ∧ sUp.t0.sys.boot.step ≠ 1 ∧ 2 ≤ sUp.t0.fget Fld.glbTower_STATE ∧
      (sSeq 254 true).t0.sys.boot.step = 1 ∧ sUp.t0.sys.aux = true) := by decide +kernel

def sRg (mode st : Nat) : State := sT fun x => (x.fset Fld.pwrRegion_MODE mode 5).fset Fld.pwrRegion_STATE st 5
def pwr0 (pin : Nat) : PowerSample :=
  { vin := 9, iin := 8, pin := BitVec.ofNat _ pin, railV := List.replicate 8 3, railI := List.replicate 8 4, sense := List.replicate 8 500, regions := List.replicate 72 400 }

theorem witness_PowerRegionResults :
    ((sT fun x => x.fset Fld.pwrSenseSel_SEL 7).t0.mgmtAlive = true ∧ 2 ∈ (sT fun x => x.fset Fld.pwrSenseSel_SEL 7).t0.effective ∧
      3 ≤ (sT fun x => x.fset Fld.pwrSenseSel_SEL 7).t0.effective.length ∧ (sT fun x => x.fset Fld.pwrSenseSel_SEL 3).t0.effective.length ≤ 2) ∧
    ((sRg 1 0).t0.ready = true ∧ (sRg 1 0).t0.rst 5 = 0 ∧ (sRg 1 0).t0.regionFree 5 = true ∧ (sRg 1 0).t0.fget Fld.pwrRegion_MODE 5 = 1 ∧
      (sRg 2 0).t0.fget Fld.pwrRegion_MODE 5 = 2 ∧ (sRg 2 0).t0.regionFree 5 = true) ∧
    ((sRg 0 1).t0.rst 5 = 1 ∧ (sRg 0 2).t0.rst 5 = 2 ∧ ((sRg 0 2).t0.region 5).ret = 0 ∧ (sRg 0 2).t0.fget Fld.pwrRegion_MODE 5 = 0 ∧
      (sRg 0 3).t0.rst 5 = 3 ∧ (sRg 0 4).t0.rst 5 = 4 ∧ ((sT fun x => x.modRegion 5 fun g => { g with ret := 1 }).t0.region 5).ret ≠ 0) ∧
    ((tripsAt ((sRg 0 0).t0.region 5).trips (sRg 0 0).t0.timeNs).length < 3 ∧ 3 ≤ (tripsAt [0, 0] 0).length) ∧
    (let x := (sT fun x => (x.fset Fld.pwrCap_LEVEL 5).fset Fld.thmRegion_LB 3).t0
     x.cyc % 16 < x.throttle 0 ∧ x.memCyc % 16 < x.fget Fld.thmRegion_LB 0) ∧
    (PowerSample.wf (pwr0 1000) = true ∧ (let x := (sT fun x => (x.fset Fld.pwrCap_EN 1).fset Fld.pwrCap_CAP_W 1000).t0
      x.fget Fld.pwrCap_EN = 1 ∧ x.fget Fld.pwrCap_CAP_W < (pwr0 1001).pin.toNat ∧ 100 * (pwr0 969).pin.toNat < 97 * x.fget Fld.pwrCap_CAP_W ∧
      (pwr0 970).pin.toNat ≤ x.fget Fld.pwrCap_CAP_W ∧ 97 * x.fget Fld.pwrCap_CAP_W ≤ 100 * (pwr0 970).pin.toNat)) := by decide +kernel

def thm0 (v : Nat) : ThermSample := ⟨List.replicate 160 (BitVec.ofNat _ v), List.replicate 6 600, List.replicate 72 0⟩
def sWear (e : Option Int) (d : Int) (c : Nat) : State := sT fun x => (x.modSys fun y => { y with wear := ⟨e, d, [480, 400], 0⟩ }).fset Fld.thmStat_MAX_C c

theorem witness_ThermalResults : (ThermSample.wf (thm0 600) = true ∧ sUp.t0.mgmtAlive = true ∧
      920 ≤ (accepted (fun i => sext 12 (((thm0 920).die.getD i 0).toNat)) fun _ => false).getD 3 0 ∧ sUp.t0.fget Fld.thmStat_SHUT = 0 ∧
      sUp.t0.fget Fld.thmSensor_SUSPECT 3 = 0) ∧
    ((sWear none 0 400).t0.sys.wear.ext = none ∧
      (let x := (sWear (some 400) 1 420).t0; 0 < x.sys.wear.dir * (sext 12 (x.fget Fld.thmStat_MAX_C) - 400)) ∧
      (let x := (sWear (some 400) 1 390).t0; x.sys.wear.dir * (sext 12 (x.fget Fld.thmStat_MAX_C) - 400) ≤ 0 ∧
        (sext 12 (x.fget Fld.thmStat_MAX_C) - 400).natAbs < 16) ∧
      (let x := (sWear (some 400) 1 384).t0; x.sys.wear.dir * (sext 12 (x.fget Fld.thmStat_MAX_C) - 400) ≤ 0 ∧
        16 ≤ (sext 12 (x.fget Fld.thmStat_MAX_C) - 400).natAbs)) ∧
    ((neighbours 5).any (fun _ => true) = true ∧ (0 : Int) ≤ 0 ∧ (-4000 : Int) ≤ -1 ∧ (-4001 : Int) < -4000) := by decide +kernel

def sRs (r : RstStage) (f : Tower → Tower) : State := sT fun x => f ((x.setRst r).fset Fld.glbTower_STATE (if r = .none then 2 else 3))

theorem witness_ResetResults :
    ((sT fun x => { x with brickReq := [(0, 1)] }).t0.brickReq.find? (fun p => decide (p.1 = 0)) = some (0, 1) ∧ sUp.t0.sliceLive 0 = true ∧
      ((sT fun x => { x with bricks := [(0, { Brick.init with phase := .resetting })] }).brick b0).phase = .resetting) ∧
    ((sT fun x => { x with cdrReq := some 1 }).t0.cdrReq = some 1 ∧ sUp.t0.fget Fld.glbTower_STATE = 2 ∧
      (sRs .cdQuiesce id).t0.drained = true ∧ (sRs .cdQuiesce id).t0.sys.rst = .cdQuiesce ∧ (sRs .warmQuiesce id).t0.sys.rst = .warmQuiesce ∧
      (sRs .warmQuiesce id).t0.drained = true ∧ (sRs .warmQuiesce id).t0.fget Fld.glbTower_STATE = 3) ∧
    ((sRs .cdHeld id).t0.sys.rst = .cdHeld ∧ (sRs .cdHeld id).t0.sys.vcoreBad = false ∧ (sRs .cdHeld id).t0.fget Fld.clkStat_CPLL_LOCK = 1 ∧
      (sRs .cdSelftest id).t0.sys.rst = .cdSelftest ∧ (sRs .cdArray id).t0.sys.rst = .cdArray ∧ (sRs .cdTrain id).t0.sys.rst = .cdTrain ∧
      (sRs .cdFill id).t0.sys.rst = .cdFill) ∧
    ((sT fun x => { x with warmReq := some 1 }).t0.warmReq = some 1 ∧ (sT fun x => { (x.fset Fld.glbTower_STATE 1) with warmReq := some 5 }).t0.warmReq = some 5 ∧
      (sT fun x => x.fset Fld.glbTower_STATE 1).t0.fget Fld.glbTower_STATE = 1 ∧
      (sT fun x => x.fset Fld.thmStat_SHUT 1 |>.fset Fld.thmSensor_ACCEPTED 900 3).t0.coolEnough = false) := by decide +kernel

theorem witness_ClockAndStopResults : (sUp.t0.mgmtAlive = true ∧ sUp.t0.fget Fld.glbTower_STATE = 2 ∧
      (sT fun x => x.fset Fld.clkStat_REF_OK 1).t0.fget Fld.clkStat_REF_OK = 1 ∧ sUp.t0.fget Fld.clkStat_REF_OK = 0 ∧
      sUp.t0.serving = true ∧ sUp.t1.serving = true) ∧
    (sUp.t0.resetting = false ∧ sUp.t0.fget Fld.rstGstop_STATE = 0 ∧ (sT fun x => x.fset Fld.rstGstop_STATE 1).t0.fget Fld.rstGstop_STATE = 1 ∧
      (sT fun x => x.fset Fld.glbTower_STATE 3).t0.resetting = true ∧
      (sT fun x => x.fset Fld.rstGstop_STATE 2).t0.fget Fld.rstGstop_STATE = 2 ∧ (sT fun x => x.fset Fld.rstGstop_STATE 2).t0.frozen = true) ∧
    sUp.t0.sys.mgmt.up = true := by decide +kernel

def pk0 (dst typ : Nat) : Nat := 1 + dst * 2 ^ 8 + 9 * 2 ^ 16 + 0xC8 * 2 ^ 24 + typ * 2 ^ 32 + 0x01 * 2 ^ 48 + 0x22 * 2 ^ 64
def mMgt (typ n : Nat) : FMsg := ⟨typ, 0, 64, 0, 5, 0, 0, 7, n + pk0 0 0 * 2 ^ 128, 0, 0⟩
def sMg (f : Tower → Tower) : State := sT fun x => f (x.modSys fun y => { y with mgmt := { y.mgmt with up := true, eid := 8, sessions := [.vdm] } })

theorem witness_ManagementResults : ((sMg id).t0.sys.mgmt.up = true ∧ (sMg id).t1.sys.mgmt.up = true ∧ (sMg id).t1.hostFacing = false ∧
      (sMg fun x => x.modSys fun y => { y with rails := 0 }).t0.mgmtAlive = false) ∧
    (bytesWf 9 (pk0 8 0) = true ∧ mctpDst (pk0 8 0) = 8 ∧ mctpType (pk0 8 0) = 0 ∧ mctpOwner (pk0 8 0) = true ∧ numAt (pk0 8 0) 6 1 = 1 ∧
      numAt (pk0 8 0) 7 1 % 4 ≤ 1 ∧ numAt (pk0 8 0) 8 1 = 0x22 ∧ mctpType (pk0 8 9) ∉ [0, 1, 5, 6, 0x7E] ∧ (sMg id).t0.mgmtAlive = true ∧
      mctpDst (pk0 9 0) ≠ 8) ∧
    (took (sMg fun x => x.modRtr (inb (mMgt 0x31 9))) 0x31 (fun m _ => decide (m.field 16 2 = 9) && decide (m.field 18 14 = 0)) = true ∧
      took (sMg fun x => x.modRtr (inb (mMgt 0x31 4))) 0x31 (fun m _ => decide (m.field 16 2 < 5)) = true ∧
      took (sMg fun x => x.modRtr (inb (mMgt 0x32 9))) 0x32 (fun m _ => decide (m.field 16 2 = 9) && decide (m.field 18 14 = 0)) = true) ∧
    (Transport.vdm ∈ (sMg id).t0.sys.mgmt.sessions ∧ Transport.link ∉ (sMg id).t0.sys.mgmt.sessions ∧ bytesWf 2 0xFFFF = true ∧
      (sMg id).t0.sys.mgmt.updating = false ∧ (sMg id).t0.fget Fld.mgtStat_TRIAL = 0 ∧ (sMg fun x => x.fset Fld.mgtStat_TRIAL 1).t0.fget Fld.mgtStat_TRIAL = 1 ∧
      (sMg fun x => x.fset Fld.mgtStat_HOST_FACING 1).t0.hostFacing = true ∧ (sMg fun x => x.fset Fld.mgtStat_HOST_FACING 1).host.up = true ∧
      Transport.vdm ∈ (sMg fun x => x.fset Fld.mgtStat_HOST_FACING 1).t0.sys.mgmt.sessions ∧
      (sMg fun x => x.fset Fld.mgtStat_HOST_FACING 1).t0.sys.mgmt.up = true) ∧
    ((match regAt 0x600008 with
      | some (r, _, _) => !r.isProtection
      | none => false) = true ∧ (match regAt (Reg.info .mgtProtCfg).base with
      | some (r, _, _) => r.isProtection
      | none => false) = true) := by decide +kernel


/-! Witnesses: service, the store, debugging and the statements over every command. -/

/-- 32 clean whole lines of zeros at `ln`, where nothing else is. -/
def sChunk : State := sH idB fun m => { m with dir := (List.range 32).map fun i => (ln + i, dl) }

theorem witness_ServiceAndStoreResults :
    (sUp.t0.serviceable 7 = true ∧ sUp.t0.serviceable 520 = false ∧ testRuns ((sT fun x => x.setTest 7 (some 1)).t0.test 7) = true ∧ sUp.t0.lock = [] ∧
      (sT fun x => { x with lock := [(7, 8)] }).t0.lock = [(7, 8)]) ∧
    (sUp.t0.enabled.getLsbD 7 = true ∧ sUp.t0.enabled.getLsbD 520 = false ∧ sUp.t0.ready = true ∧ sUp.t0.test 7 = 0 ∧ sUp.t0.testIdle 7 = true ∧
      (sJ 0 (wR 0 0 0 0 0) id).t0.testIdle 0 = false ∧ (sT fun x => x.fset Fld.glbTower_STATE 1).t0.ready = false) ∧
    (sUp.t0.stackN = 6 ∧ (sT fun x => x.setTest 7 (some 2)).t0.test 7 = 2 ∧ (sT fun x => x.setTest 7 (some 2)).t0.testIdle 7 = true ∧
      (sT fun x => x.setTest 7 (some 4)).t0.test 7 = 4 ∧ 3 ∈ (sT fun x => x.modSys fun y => { y with cals := [3] }).t0.sys.cals) ∧
    (sChunk.t0.licTakes .mgmt = true ∧ (sChunk.t0.licTakes .driver) = false ∧ (sChunk.target (rln * 128)).home? ≠ some .t0 ∧ keyCheck sChunk.t0 0 = 3 ∧
      ((List.range 4).all fun i => decide ((sChunk.target ((ln + i) * 128)).home? = some .t0) && homeLineB sChunk .t0 .t0 (sChunk.target ((ln + i) * 128)) (ln + i) 0) = true) ∧
    (let s := sT fun x => x.modStore fun y => { y with due := [6] }
     6 ∈ s.t0.sys.store.due ∧ 6 ∈ storeTypes ∧ s.t0.sys.aux = true ∧ { s with pins := ⟨true, false, false⟩ }.pins.input = true ∧ s.t0.sys.rails.testBit 2 = true ∧
      s.t0.sys.boot.restored = true ∧ s.t0.fget Fld.glbTower_STATE ≠ 0 ∧ bankSeq (s.t0.sys.store.banks 6).a = 0 ∧
      ({ s with pins := ⟨true, false, false⟩ } : State).storeTakes .t0 = true ∧ ({ s with pins := ⟨false, false, false⟩ } : State).storeTakes .t0 = false ∧
      bankSeq (s.t0.sys.store.banks 1).b = 0) := by decide +kernel

/-- The lines of the image meet what the statement asks of them. -/
theorem witness_licImage : ∀ i, i < 4 → (sChunk.target ((ln + i) * 128)).home? = some .t0 ∧
    HomeFree sChunk .t0 .t0 (sChunk.target ((ln + i) * 128)) (ln + i) ∧ CleanLine sChunk.t0.mem (ln + i) 0 := by
  intro i hi
  have k := List.all_eq_true.mp witness_ServiceAndStoreResults.2.2.2.1.2.2.2.2 i (List.mem_range.mpr hi)
  simp only [Bool.and_eq_true, decide_eq_true_eq] at k
  have h := homeLine_of k.2
  exact ⟨k.1, h.1, h.2.2.2⟩

/-- The trace writer in chunk 1 of four at line `ln`, exporting to host memory. -/
def sTr (f : Tower → Tower) : State := sChunk.modTw .t0 fun x => f (((((((((x.fset Fld.dbgTraceBase_CHUNK 512).fset Fld.dbgTraceSize_C 4).setReg .dbgTracePtr 0 0 4096).fset
  Fld.dbgTraceStat_STATE 1).fset Fld.dbgTraceCtl_EN 1).fset Fld.dbgTraceCtl_EXPORT_EN 1).fset Fld.dbgTraceCtl_RING 2).fset fldExportDst (2 ^ 40)).modTrace fun k =>
    { k with filled := 1 })
/-- The pointer stands inside chunk 0. -/
def sTrIn : State := sTr fun x => x.setReg .dbgTracePtr 0 0 3968
def evBr : State := sTrIn.modBrick b0 fun b => { b with ev := { b.ev with q := [{ drop := false, packet := 4, word := BitVec.ofNat 64 (0xF1 * 2 ^ 56), header := true, pending := false }] } }
def gStop (held : Bool) : State := sJ 0 (wR 0 0 0 0 0) fun b => modGrp (fun g => { g with held := held }) b
def pk1 (w : Nat) : Nat := 2 ^ 59 + 2 * 2 ^ 38 + w
def trFitsB (s : State) (t : TowerId) (addr n : Nat) : Bool := engFitsB s t addr n && !s.trSnooped t && (List.range (lineCount addr n)).all fun i =>
  decide ((s.tw t).levelNow ((s.tw t).place (addr / 128 + i)).1 31 = 16) &&
  decide ((sget Chan.init (s.tw t).mem.chans ((s.tw t).place (addr / 128 + i)).2).q.length + lineCount addr n ≤ 128)
theorem trFits_of {s : State} {t : TowerId} {addr n : Nat} (k : trFitsB s t addr n = true) : TrFits s t addr n := by
  simp only [trFitsB, Bool.and_eq_true, Bool.not_eq_true', List.all_eq_true, List.mem_range, decide_eq_true_eq] at k
  exact ⟨engFits_of k.1.1, k.1.2, k.2⟩

/-- The checks of this file that stand for hypotheses on memory: `trFits_of`, `engHas_of`. -/
theorem witness_DebugAndTraceResults :
    ((sT fun x => x.fset Fld.dbgCtl_FREEZE 1).pending = [] ∧ (sT fun x => x.fset Fld.dbgCtl_FREEZE 1).t0.fget Fld.dbgCtl_FREEZE = 1) ∧
    (bits (2 ^ 63 + 2 * 2 ^ 32) 62 61 ≠ 3 ∧ bits (2 ^ 63 + 2 * 2 ^ 32) 42 32 ≤ 16 ∧ ¬bits (17 * 2 ^ 32) 42 32 ≤ 16 ∧ bits (2 ^ 63 + 2 * 2 ^ 32) 31 16 = 0 ∧
      (2 ^ 63 + 2 * 2 ^ 32 : Nat).testBit 55 = false ∧ (2 ^ 63 + 2 ^ 55 : Nat).testBit 55 = true ∧ sUp.t0.fget Fld.licStat_DEEP_TRACE = 0) ∧
    ((sTr fun x => x.fset Fld.dbgTraceCtl_EN 0).t0.fget Fld.dbgTraceCtl_EN = 0 ∧ (sTr id).inOwn .t0 (sTr id).t0.trBase ((sTr id).t0.trChunks * 4096) = true ∧
      sUp.inOwn .t0 ((sTr fun x => x.fset Fld.dbgTraceBase_CHUNK (2 ^ 34)).t0.trBase) 4096 = false) ∧
    ((sTr id).t0.fget Fld.dbgTraceCtl_EN = 1 ∧ (2 ^ 63 : Nat).testBit 56 = false ∧ (2 ^ 63 : Nat).testBit 63 = true ∧ (sTr id).t0.trState = 1 ∧
      (sTr id).t0.trPtr % 4096 = 0 ∧ sTrIn.t0.trPtr % 4096 ≠ 0) ∧
    ((sTr id).t0.gstopped = false ∧ (sTr id).t0.sys.trace.out = [] ∧ (sTr id).t0.sys.trace.goal = none ∧ (sTr id).trSnooped .t0 = false ∧
      (sTr fun x => x.modTrace fun k => { k with out := trPieces 0 8 5 }).t0.sys.trace.out ≠ [] ∧ trFitsB sTrIn .t0 (sTrIn.t0.trBase + sTrIn.t0.trPtr) 128 = true) ∧
    ((sTr id).t0.trNoRoom = false ∧ (sTr id).t0.sys.trace.want = none ∧ (sTr fun x => x.fset Fld.dbgTraceStat_STATE 2).t0.trNoRoom = true ∧
      (sTr fun x => x.fset Fld.dbgTraceStat_STATE 2).t0.trState = 2) ∧
    (evBr.t0.trNext = some 0 ∧ evBr.t0.trState = 1 ∧ evBr.t0.gstopped = false ∧ evBr.t0.trNoRoom = false ∧
      ((evBr.t0.trMatch ((evTake (evBr.brick b0).ev).map fun e => e.word.toNat)).sys.trace.want = none) ∧ (evTake (evBr.brick b0).ev).length = 1 ∧
      trFitsB evBr .t0 (evBr.t0.trBase + evBr.t0.trPtr) 8 = true ∧
      ((sTr fun x => (x.fset Fld.dbgTraceCtl_SAMPLE_US 100).fset Fld.dbgTraceCtl_SAMPLE_MASK 2).t0.fget Fld.dbgTraceCtl_SAMPLE_US = 100)) ∧
    ((sTr id).t0.fget Fld.dbgTraceCtl_EXPORT_EN = 1 ∧ (sTr id).t0.exportNak = false ∧ (sTr id).exportOpen .t0 = false ∧ (sTr id).t0.sys.trace.sending = false ∧
      (sTr id).t0.sys.trace.exported < (sTr id).t0.sys.trace.filled ∧
      (exportPut .t0 ((sTr id).t0.fget fldExportDst * 128) 8 1 (sTr id)).isSome = true ∧
      (exportPut .t0 (ln * 128) 8 1 (sTr id)).isNone = true ∧
      engHasB (sTr id) .t0 ((sTr id).t0.trBase + (sTr id).t0.sys.trace.exported % (sTr id).t0.trChunks * 4096) 4096 0 = true) ∧
    (sUp.t0.sys.peek = none ∧ (sT fun x => x.modSys fun y => { y with peek := some 5 }).t0.sys.peek = some 5 ∧ (pk1 257).testBit 59 = true ∧
      (pk1 255) % 1024 = 255 ∧ bits (pk1 257) 58 49 < 576 ∧ ((gStop true).t0.brick (bits (pk1 257) 58 49)).group? (bits (pk1 257) 48 43) =
        some { grp0 with held := true } ∧ (gStop false).t0.gstopped = false) := by decide +kernel

theorem witness_FramedStatements : sUp.pending = [] ∧ State.reset.host.sound = true ∧ State.reset.memoryWf = true ∧
    sUp.t0.mgmtAlive = true ∧ State.reset.t0.mgmtAlive = false ∧ sUp.t0.sys.osc = none ∧ sUp.t0.gstopped = false := by decide +kernel

/-! A term that spells no command, for each check of `Instr.wf`, and one that does. -/

theorem test_wf_thermalSample : (Instr.thermalSample .t0 ⟨List.replicate 159 0, List.replicate 6 0, List.replicate 72 0⟩).wf = false ∧
    (Instr.thermalSample .t0 ⟨List.replicate 160 0, List.replicate 5 0, List.replicate 72 0⟩).wf = false ∧
    (Instr.thermalSample .t0 ⟨List.replicate 160 0, List.replicate 6 0, List.replicate 71 0⟩).wf = false ∧ (Instr.thermalSample .t0 (thm0 600)).wf = true := by decide +kernel
theorem test_wf_powerSample : (Instr.powerCapEvaluate .t0 { pwr0 9 with railV := [] }).wf = false ∧ (Instr.powerCapEvaluate .t0 { pwr0 9 with railI := [] }).wf = false ∧
    (Instr.powerCapEvaluate .t0 { pwr0 9 with sense := [] }).wf = false ∧ (Instr.powerCapEvaluate .t0 { pwr0 9 with regions := [] }).wf = false ∧
    (Instr.powerCapEvaluate .t0 (pwr0 9)).wf = true := by decide
theorem test_wf_trainComplete : (Instr.trainComplete .t0 0 true [0, 1, 1, 3] wellMargins).wf = false ∧ (Instr.trainComplete .t0 0 true [0, 1, 2, 3] []).wf = false ∧
    (Instr.trainComplete .t0 0 false [] []).wf = true ∧ (Instr.trainComplete .t0 0 true [3, 1, 2, 0] wellMargins).wf = true := by decide
theorem test_wf_mctpPacket : (Instr.mctpPacket .t0 .i3c 5 (2 ^ 40) none).wf = false ∧ (Instr.mctpPacket .t0 .i3c 5 (2 ^ 40 - 1) none).wf = true := by decide
theorem test_wf_pldm : (Instr.pldmFirmwareUpdate .t0 .i3c (some (1, 256))).wf = false ∧ (Instr.pldmFirmwareUpdate .t0 .i3c none).wf = true := by decide
theorem test_illFormed_stops : exec (.mctpPacket .t0 .i3c 5 (2 ^ 40) none) sUp = .fault .illFormed := by rfl

/-! Single commands and functions, with the worked examples of the specification. -/

/-- The low word of thread `l`'s register `r` once the instruction has run. -/
def regAfter (i : Instr) (s : State) (l r : Nat) : Option R32 := match exec i s with
  | .next t => (t.group? g0).map fun g => rdG (g.thread l) r
  | _ => none

/-- R83: 5 + 0xFFFFFFFF wraps to 4; the difference 5 − 0xFFFFFFFF is 6. -/
theorem test_iadd_wraps : regAfter (.iadd g0 (wR 7 1 3 0 0)) (sI 0x10 (wR 7 1 3 0 0)) 2 7 = some 4 := by decide +kernel
theorem test_isub : regAfter (.isub g0 (wR 7 1 3 0 0)) (sI 0x11 (wR 7 1 3 0 0)) 2 7 = some 6 := by decide +kernel

/-- The two words of the example in 03_brick_instruction_set.md. -/
theorem test_fmac_word : (let f := fieldsOf 0x523414080A064820 0; f.op = 0x52 ∧ f.fmt = 0 ∧ f.gEn = true ∧ f.gNeg = true ∧ f.gP = 2 ∧ f.d = 10 ∧ f.a = 4 ∧ f.b = 5 ∧ f.c = 3) := by
  decide
theorem test_br_word : (let f := fieldsOf 0x0162000000FFFFFD 0; f.op = 0x01 ∧ f.fmt = 1 ∧ f.gEn = true ∧ f.gNeg = false ∧ f.gP = 1 ∧ f.imm24 = 0xFFFFFD) := by decide

/-- The example of 00_scope.md: the block of PBID 653 starts at 0x14D_0000 of tower 1's control space. -/
theorem test_pbid_block : regAt (0x14D0000 + 0x200) = some (.brkArray, 77, 0) := by decide +kernel

/-- The example of 09_last_level_cache.md: rank 366 of 480, set 139 of 1,536. -/
theorem test_home_rank : homeRank 480 149131 = 366 ∧ 149131 % (128 * 12) = 139 := by decide

/-- The example of 11_hbm_and_bandwidth_regulation.md: stack 0, channel 12. -/
theorem test_hbm_place : sUp.t0.place 149131 = (0, 12) := by decide +kernel

/-- The example of 12_stored_data_integrity.md. -/
theorem test_ecc_encode : eccEncode 5 = 0x50 := by decide +kernel
theorem test_ecc_check_bit : eccDecode 5 0x51 = (.correctable, 5) := by decide +kernel

/-- The example of 16_power_delivery.md: the third trip lies 3,500 s or 3,700 s after the first. -/
theorem test_trips : (tripsAt [10000 * 10 ^ 9, 11200 * 10 ^ 9] (13500 * 10 ^ 9)).length = 3 ∧
    (tripsAt [10000 * 10 ^ 9, 11200 * 10 ^ 9] (13700 * 10 ^ 9)).length = 2 := by decide

/-- The example of 18_stack_clocks_and_resets.md, in units of 0.125 °C. -/
theorem test_rainflow : rainflow 16 [720, 480, 760, 280] = ([720, 480, 760, 280], 0, 0) ∧
    rainflow 16 [320, 720, 480, 760, 280] = ([320, 760, 280], 240 * 240, 1) := by decide

/-- Check values of the published CRCs over the digits 1 to 9: CRC-32C, and the CRC-64 of R415. -/
theorem test_crc32c : crc32c [0x31, 0x32, 0x33, 0x34, 0x35, 0x36, 0x37, 0x38, 0x39] = 0xE3069283 := by decide +kernel
theorem test_crc64 : [0x31, 0x32, 0x33, 0x34, 0x35, 0x36, 0x37, 0x38, 0x39].foldl (crcByteM 64 0x42F0E1EBA9EA3693) (2 ^ 64 - 1) ^^^ (2 ^ 64 - 1) = 0x62EC59E3F1A4F00A := by
  decide +kernel
/-- FIPS 180-4: the digest of the three letters abc. -/
theorem test_sha256 : beNat (sha256 [0x61, 0x62, 0x63]) = 0xBA7816BF8F01CFEA414140DE5DAE2223B00361A396177A9CB410FF61F20015AD := by decide +kernel

/-- Host side: a committed decoder needs multiples of 256 MiB (R484); a write of two bytes is refused and counted (R8). -/
theorem test_bar_size : sizeOk 0 2 = false ∧ sizeOk 4 4 = true ∧ sizeOk 4 8 = false := by decide

/-- The example of 04_memory_model_and_atomics.md: 2^24 + 1 + 1 + 2 in lane order is 2^24 + 2; with 2 first it is 2^24 + 4. -/
theorem test_atom_order : [0x3F800000, 0x3F800000, 0x40000000].foldl (atomFp 8) 0x4B800000 = 0x4B800001 ∧
    [0x40000000, 0x3F800000, 0x3F800000].foldl (atomFp 8) 0x4B800000 = 0x4B800002 := by decide +kernel

/-- A queue runs front first, and what it leaves waits (the block's own convention). -/
theorem test_step_order : step { sUp with pending := [.inputReturn, .leakDetect] } = .next { sUp with pending := [.leakDetect], pins := { sUp.pins with input := true } } := by rfl

end Sys2Proof.Tests
end

section
/-! SUPPORT. Rules for the instructions whose whole effect is a write per executing lane, or of one u register: what such an instruction
writes is what its lane function names, in every state in which it is ready. -/

namespace Sys2Proof.Machine

open Sys2Proof

/-- The position D of a legal word is well formed (R73, R75, R76, R78). -/
theorem kdOk_of_legal {o : OpInfo} {f : Fields} (h : legal o f = true) : opkOk (o.kd f) f.d false = true := by
  simp only [legal, Bool.and_eq_true, and_assoc] at h
  obtain ⟨-, -, -, hd, -⟩ := h
  exact hd

theorem legal_of_readyNow {op : Nat} {o : OpInfo} {g : GroupRef} {w : IWord} {s : State} {x : Ctx} (h : ReadyNow op o g w s x) :
    legal o x.f = true := by
  obtain ⟨-, -, -, -, -, -, hl⟩ := prepare_go h.1
  exact hl

/-- A destination that the operand form makes a predicate is one of p0 to p7 (R73, R77). -/
theorem predD_lt {op : Nat} {o : OpInfo} {g : GroupRef} {w : IWord} {s : State} {x : Ctx} (h : ReadyNow op o g w s x)
    (hk : o.kd x.f = .pred) : x.f.d < 8 := by
  have hd := kdOk_of_legal (legal_of_readyNow h)
  simpa [hk, opkOk] using hd

/-- A destination that the operand form makes an even predicate has its neighbour among p0 to p7 too (R88). -/
theorem predEvenD_succ_lt {op : Nat} {o : OpInfo} {g : GroupRef} {w : IWord} {s : State} {x : Ctx} (h : ReadyNow op o g w s x)
    (hk : o.kd x.f = .predEven) : x.f.d + 1 < 8 := by
  have hd := kdOk_of_legal (legal_of_readyNow h)
  simp only [hk, opkOk, Bool.not_false, Bool.and_true, Bool.and_eq_true, decide_eq_true_eq] at hd
  omega

/-- The fields of an instruction that issues are those of the word fetched and of the second word given: the one branch of `prepare`
that answers `.go` takes them so. -/
theorem prepare_go_fields {op : Nat} {sel : Fields → Bool} {o : OpInfo} {g : GroupRef} {w : IWord} {s : State} {x : Ctx}
    (h : prepare op sel o g w s = .go x) : ∃ w0, x.f = fieldsOf w0 w.w2 := by
  unfold prepare at h
  repeat' (first | split at h | extract_lets at h)
  all_goals cases h
  exact ⟨_, rfl⟩

/-- Predicates written from a list of numbers, each with its value. -/
theorem does_preds (is : List Nat) (v : Nat → Bool) (h : ∀ i ∈ is, i < 8) :
    LaneW.Does { p := is.map fun i => (i, v i) } noG (fun n => if n ∈ is then some (v n) else none) := by
  induction is with
  | nil => exact does_none 0
  | cons i is ih =>
    intro th
    obtain ⟨hi, his⟩ := List.forall_mem_cons.1 h
    obtain ⟨heta, hg, hp⟩ := ih his (wrP th i (v i))
    refine ⟨heta, hg, fun n hn => (hp n hn).trans ?_⟩
    by_cases hm : n ∈ is
    · simp [newP, hm]
    · calc newP (wrP th i (v i)) (fun n => if n ∈ is then some (v n) else none) n = rdP (wrP th i (v i)) n := by simp [newP, hm]
        _ = newP th (setsP i (v i)) n := rdP_wrP th i n (v i) hi hn
        _ = _ := by by_cases hni : n = i <;> simp [newP, setsP, hm, hni]

section
variable {mk : GroupRef → IWord → Instr} {op : Nat} {o : OpInfo}

theorem writesD_of_issueLanes (lane : Ctx → Nat → LaneW) {val : Ctx → Nat → R32}
    (hexec : ∀ g w s, exec (mk g w) s = issueLanes op o lane g w s) (hlane : ∀ x l, lane x l = dW x (val x l)) :
    WritesD mk op o val := by
  intro g w s x h
  rw [hexec]
  exact issueLanes_wrote h fun l => hlane x l ▸ does_dW x (val x l)

theorem writesP_of_issueLanes (lane : Ctx → Nat → LaneW) {val : Ctx → Nat → Bool}
    (hexec : ∀ g w s, exec (mk g w) s = issueLanes op o lane g w s) (hkd : ∀ f, o.kd f = .pred)
    (hlane : ∀ x l, lane x l = { p := [(x.f.d, val x l)] }) : WritesP mk op o val := by
  intro g w s x h
  rw [hexec]
  exact issueLanes_wrote h fun l => hlane x l ▸ does_p _ _ (predD_lt h (hkd x.f)) 0

/-- A result `res` and the carry-out beside it (R84). -/
theorem writesC_of_issueLanes (lane res : Ctx → Nat → LaneW) {gr : Ctx → Nat → Nat → Option R32} {carry : Ctx → Nat → Bool}
    (hexec : ∀ g w s, exec (mk g w) s = issueLanes op o lane g w s) (hlane : ∀ x l, lane x l = carryW x (carry x l) (res x l))
    (hres : ∀ x l, (res x l).Does (gr x l) noP) (hp : ∀ x l, (res x l).p = []) : WritesC mk op o gr carry := by
  intro g w s x h
  rw [hexec]
  exact issueLanes_wrote h fun l => hlane x l ▸ does_carry (hres x l) (hp x l) x (carry x l)

/-- The form of `writesC_of_issueLanes` for a result in D. -/
theorem writesC_of_issueLanes_dW (lane : Ctx → Nat → LaneW) {val : Ctx → Nat → R32} {carry : Ctx → Nat → Bool}
    (hexec : ∀ g w s, exec (mk g w) s = issueLanes op o lane g w s)
    (hlane : ∀ x l, lane x l = carryW x (carry x l) (dW x (val x l))) :
    WritesC mk op o (fun x l => setsD x.f.d (val x l)) carry :=
  writesC_of_issueLanes lane (fun x l => dW x (val x l)) hexec hlane (fun x l => does_dW x (val x l)) fun _ _ => rfl

theorem writesU_of_issueUni (lane : Ctx → Nat → R32) {val : Ctx → Nat → R32}
    (hexec : ∀ g w s, exec (mk g w) s = issueUni op o lane g w s) (hlane : ∀ x l, lane x l = val x l) : WritesU mk op o val := by
  intro g w s x h
  rw [hexec, funext₂ hlane]
  exact issueUni_wrote h

end

end Sys2Proof.Machine
end

section
/-! SUPPORT. The values of the integer instructions 0x10 to 0x1B in terms of words (R84, R85); and the statement about them. -/

namespace Sys2Proof.Machine

open Sys2Proof

theorem addC_fst (a b : R32) (c : Bool) : (addC a b c).1 = a + b + if c then 1 else 0 := by
  apply BitVec.eq_of_toNat_eq
  cases c <;> simp [addC]

theorem addC_false (a b : R32) : addC a b false = (a + b, decide (2 ^ 32 ≤ a.toNat + b.toNat)) :=
  Prod.ext ((addC_fst a b false).trans (by simp)) rfl

theorem subC_fst (a b : R32) : (subC a b).1 = a - b := by
  rw [subC, addC_fst]
  simp [BitVec.sub_eq_add_neg, BitVec.neg_eq_not_add, BitVec.add_assoc]

/-- The carry of A + NOT B + 1 is 1 when no borrow occurs. -/
theorem subC_snd (a b : R32) : (subC a b).2 = decide (b.toNat ≤ a.toNat) := by
  simp only [subC, addC, if_true, BitVec.toNat_not]
  have hb := b.isLt
  exact decide_eq_decide.2 (by omega)

theorem addC64_fst (a b : Word) : (addC64 a b).1 = a + b := by
  apply BitVec.eq_of_toNat_eq
  simp [addC64]

/-- The upper half of the exact product. -/
theorem ofInt_product_div (uns : Bool) (a b : R32) : BitVec.ofInt 32 (product uns a b / 2 ^ 32) =
    if uns then BitVec.ofNat 32 (a.toNat * b.toNat / 2 ^ 32) else BitVec.ofInt 32 (a.toInt * b.toInt / 2 ^ 32) := by
  cases uns
  · rfl
  · simp only [product, if_true]
    exact BitVec.ofInt_natCast 32 (a.toNat * b.toNat / 2 ^ 32)

/-- The exact product fits 64 bits: it is the product of the extended words. -/
theorem ofInt_product (uns : Bool) (a b : R32) : BitVec.ofInt 64 (product uns a b) =
    if uns then a.zeroExtend 64 * b.zeroExtend 64 else a.signExtend 64 * b.signExtend 64 := by
  cases uns
  · exact BitVec.ofInt_mul a.toInt b.toInt
  · simp only [product, if_true, BitVec.ofInt_natCast, BitVec.ofNat_mul, BitVec.ofNat_toNat]

theorem intCmp_gt_iff (uns : Bool) (a b : R32) :
    intCmp uns a b = .gt ↔ if uns then b.toNat < a.toNat else b.toInt < a.toInt := by
  cases uns <;> simp [intCmp, compare_gt_iff_gt]

theorem intCmp_lt_iff (uns : Bool) (a b : R32) :
    intCmp uns a b = .lt ↔ if uns then a.toNat < b.toNat else a.toInt < b.toInt := by
  cases uns <;> simp [intCmp, compare_lt_iff_lt]

theorem dot4_eq (ua ub : Bool) (a b c : R32) : dot4 ua ub a b c =
    c + BitVec.ofInt 32 (byteInt ua a 0 * byteInt ub b 0 + byteInt ua a 1 * byteInt ub b 1 + byteInt ua a 2 * byteInt ub b 2 +
      byteInt ua a 3 * byteInt ub b 3) := by
  simp [dot4, List.range_succ]

theorem laneIadd_eq (x : Ctx) (l : Nat) :
    laneIadd x l = carryW x (decide (2 ^ 32 ≤ (x.a l).toNat + (x.b l).toNat)) (dW x (x.a l + x.b l)) := by
  simp only [laneIadd, addC_false]

theorem laneIsub_eq (x : Ctx) (l : Nat) :
    laneIsub x l = carryW x (decide ((x.b l).toNat ≤ (x.a l).toNat)) (dW x (x.a l - x.b l)) := by
  simp only [laneIsub, subC_fst, subC_snd]

theorem laneImac64_does (x : Ctx) (l : Nat) : (laneImac64 x l).Does
    (setsPair x.f.d ((if x.f.mod.testBit 8 then (x.a l).zeroExtend 64 * (x.b l).zeroExtend 64
      else (x.a l).signExtend 64 * (x.b l).signExtend 64) + x.cPair l)) noP := by
  rw [laneImac64, ofInt_product]
  exact does_pair x _

theorem laneIadd64_eq (x : Ctx) (l : Nat) : laneIadd64 x l =
    carryW x (decide (2 ^ 64 ≤ (x.aPair l).toNat + (x.bPair l).toNat)) (dPairW x (x.aPair l + x.bPair l)) := by
  simp only [laneIadd64, addC64_fst]
  rfl

theorem laneImin_eq (x : Ctx) (l : Nat) : laneImin x l = dW x (if x.f.mod.testBit 8
    then (if (x.b l).toNat < (x.a l).toNat then x.b l else x.a l) else if (x.b l).toInt < (x.a l).toInt then x.b l else x.a l) := by
  simp only [laneImin, intCmp_gt_iff]
  cases x.f.mod.testBit 8 <;> rfl

theorem laneImax_eq (x : Ctx) (l : Nat) : laneImax x l = dW x (if x.f.mod.testBit 8
    then (if (x.a l).toNat < (x.b l).toNat then x.b l else x.a l) else if (x.a l).toInt < (x.b l).toInt then x.b l else x.a l) := by
  simp only [laneImax, intCmp_lt_iff]
  cases x.f.mod.testBit 8 <;> rfl

theorem laneIabs_eq (x : Ctx) (l : Nat) : laneIabs x l = dW x (if (x.a l).toInt < 0 then 0 - x.a l else x.a l) := by
  simp only [laneIabs, BitVec.msb_eq_toInt, decide_eq_true_eq]

/-- Settles O2: each instruction writes what its lane function names, and the lemmas above say that value as the rule does. -/
theorem integerArithmeticResults : Obligations.IntegerArithmeticResults := by
  refine ⟨?iadd, ?isub, ?iaddc, ?iadd64, ?imul, ?imulh, ?imac, ?imac64, ?imin, ?imax, ?iabs, ?dot4⟩
  case iadd => exact writesC_of_issueLanes_dW laneIadd (fun _ _ _ => rfl) laneIadd_eq
  case isub => exact writesC_of_issueLanes_dW laneIsub (fun _ _ _ => rfl) laneIsub_eq
  case iaddc => exact writesC_of_issueLanes_dW laneIaddc (fun _ _ _ => rfl) fun x l => by rw [← addC_fst]; rfl
  case iadd64 =>
    exact writesC_of_issueLanes laneIadd64 _ (fun _ _ _ => rfl) laneIadd64_eq (fun x _ => does_pair x _) fun _ _ => rfl
  case imul => exact writesD_of_issueLanes laneImul (fun _ _ _ => rfl) fun _ _ => rfl
  case imulh =>
    exact writesD_of_issueLanes laneImulh (fun _ _ _ => rfl) fun x l => congrArg (dW x) (ofInt_product_div _ (x.a l) (x.b l))
  case imac => exact writesD_of_issueLanes laneImac (fun _ _ _ => rfl) fun _ _ => rfl
  case imac64 => exact fun g w s x h => issueLanes_wrote (lane := laneImac64) h (laneImac64_does x)
  case imin => exact writesD_of_issueLanes laneImin (fun _ _ _ => rfl) laneImin_eq
  case imax => exact writesD_of_issueLanes laneImax (fun _ _ _ => rfl) laneImax_eq
  case iabs => exact writesD_of_issueLanes laneIabs (fun _ _ _ => rfl) laneIabs_eq
  case dot4 =>
    exact writesD_of_issueLanes laneDot4 (fun _ _ _ => rfl) fun x l => congrArg (dW x) (dot4_eq _ _ (x.a l) (x.b l) (x.c l))

end Sys2Proof.Machine
end

section
/-! SUPPORT. What the lanes of the predicate instructions 0x30 to 0x38 write (R87 to R92); and the statement about them. -/

namespace Sys2Proof.Machine

open Sys2Proof

theorem testBit_bits (v hi lo i : Nat) : (bits v hi lo).testBit i = (decide (i < hi + 1 - lo) && v.testBit (lo + i)) := by
  simp [bits, Nat.testBit_mod_two_pow, Nat.testBit_shiftRight]

theorem mem_maskBits8 (m n : Nat) : n ∈ maskBits8 m ↔ n < 8 ∧ m.testBit n = true := by simp [maskBits8]

theorem lt_of_mem_maskBits8 {m n : Nat} (h : n ∈ maskBits8 m) : n < 8 := ((mem_maskBits8 m n).1 h).1

/-- The two halves of `pcmp.h` write Pd and Pd + 1 (R88). -/
theorem does_predPair {d : Nat} (hd : d + 1 < 8) (v0 v1 : Bool) :
    LaneW.Does { p := [(d, v0), (d + 1, v1)] } noG (fun n => if n = d then some v0 else if n = d + 1 then some v1 else none) := by
  have hlist := does_preds [d, d + 1] (fun n => if n = d then v0 else v1) (by simp; omega)
  simp only [List.map_cons, List.map_nil, if_true, Nat.succ_ne_self, if_false] at hlist
  convert hlist using 2 with n
  by_cases h0 : n = d <;> by_cases h1 : n = d + 1 <;> simp [h0, h1]

theorem laneWpred_does (x : Ctx) (l : Nat) : LaneW.Does (laneWpred x l) noG
    (fun n => if x.f.mod.testBit n then some ((x.a l).getLsbD n) else none) := by
  intro th
  obtain ⟨heta, hg, hp⟩ := does_preds (maskBits8 x.f.mod) (fun i => (x.a l).getLsbD i) (fun _ => lt_of_mem_maskBits8) th
  exact ⟨heta, hg, fun n hn => (hp n hn).trans (by simp [newP, mem_maskBits8, hn])⟩

/-- The predicate modes of `tally` have MOD[8] = 0, so their D is a predicate (R91). -/
theorem tally_predD_lt {g : GroupRef} {w : IWord} {s : State} {x : Ctx} (h : ReadyNow 0x37 infoTally g w s x)
    (hm : bits x.f.mod 8 7 < 2) : x.f.d < 8 := by
  have h8 : x.f.mod.testBit 8 = (bits x.f.mod 8 7).testBit 1 := by simp [testBit_bits]
  exact predD_lt h (by simp [infoTally, h8, Nat.testBit_lt_two_pow (i := 1) hm])

/-- The four modes of `tally` (R91). -/
theorem laneTally_does {g : GroupRef} {w : IWord} {s : State} {x : Ctx} (h : ReadyNow 0x37 infoTally g w s x) (l : Nat) :
    (laneTally x l).Does
      (if bits x.f.mod 8 7 = 2 then setsD x.f.d (tallyMask x)
        else if bits x.f.mod 8 7 = 3 then setsD x.f.d (BitVec.ofNat 32 (popN 32 (tallyMask x).toNat)) else noG)
      (if bits x.f.mod 8 7 = 0 then setsP x.f.d (decide (tallyMask x = x.cur))
        else if bits x.f.mod 8 7 = 1 then setsP x.f.d (decide (tallyMask x ≠ 0)) else noP) := by
  have hlt : bits x.f.mod 8 7 < 4 := Nat.mod_lt _ (by decide)
  obtain hall | hany | hmask | hcount :
      bits x.f.mod 8 7 = 0 ∨ bits x.f.mod 8 7 = 1 ∨ bits x.f.mod 8 7 = 2 ∨ bits x.f.mod 8 7 = 3 := by omega
  · simpa [laneTally, hall] using does_p x.f.d (decide (tallyMask x = x.cur)) (tally_predD_lt h (by omega)) 0
  · simpa [laneTally, hany] using does_p x.f.d (decide (tallyMask x ≠ 0)) (tally_predD_lt h (by omega)) 0
  · simpa [laneTally, hmask] using does_dW x (tallyMask x)
  · simpa [laneTally, hcount] using does_dW x (BitVec.ofNat 32 (popN 32 (tallyMask x).toNat))

/-- Settles O7: compares and `pfun` write Pd, `sel`, `predw` and `xlane` write D, and the three instructions with destinations of
their own are the lemmas above. -/
theorem compareAndPredicateResults : Obligations.CompareAndPredicateResults := by
  refine ⟨?pcmpI, ?pcmpF, ?pcmpH, ?pfun, ?sel, ?predw, ?wpred, ?tally, ?xlane⟩
  case pcmpI => exact writesP_of_issueLanes lanePcmpI (fun _ _ _ => rfl) (fun _ => rfl) fun _ _ => rfl
  case pcmpF => exact writesP_of_issueLanes lanePcmpF (fun _ _ _ => rfl) (fun _ => rfl) fun _ _ => rfl
  case pcmpH =>
    exact fun g w s x h => issueLanes_wrote (lane := lanePcmpH) h fun _ => does_predPair (predEvenD_succ_lt h rfl) _ _
  case pfun => exact writesP_of_issueLanes lanePfun (fun _ _ _ => rfl) (fun _ => rfl) fun _ _ => rfl
  case sel => exact writesD_of_issueLanes laneSel (fun _ _ _ => rfl) fun _ _ => rfl
  case predw => exact writesD_of_issueLanes lanePredw (fun _ _ _ => rfl) fun _ _ => rfl
  case wpred => exact fun g w s x h => issueLanes_wrote (lane := laneWpred) h (laneWpred_does x)
  case tally => exact fun g w s x h => issueLanes_wrote (lane := laneTally) h (laneTally_does h)
  case xlane => exact writesD_of_issueLanes laneXlane (fun _ _ _ => rfl) fun _ _ => rfl

end Sys2Proof.Machine
end

section
/-! SUPPORT. What `finish` leaves for a context whose group differs from the stored one, as `getsr` and `putsr` need it; the special
registers (R79, R80); and the statement about moves and group-uniform instructions. -/

namespace Sys2Proof.Machine

open Sys2Proof

theorem finish_group? (x : Ctx) (wr : Nat → LaneW) (uw : List (Nat × R32)) (sr : R32) (s : State) :
    (finish x wr uw sr s).group? x.ref = some (finishGroup x wr uw) := by
  rw [finish_eq, State.group?, State.brick_setBrick]
  exact Brick.group_setGroup x.br (gkey x.ref) _

theorem finish_onlyGroup {x : Ctx} {s : State} (hb : x.br = s.brick x.ref.b) (wr : Nat → LaneW) (uw : List (Nat × R32)) (sr : R32) :
    onlyGroup x.ref (finishGroup x wr uw) s (finish x wr uw sr s) := by
  rw [finish_eq, onlyGroup, State.brick_setBrick, hb]
  rfl

/-- The registers of a thread after `finish` are those its lane's writes leave; the move past the instruction touches none. -/
theorem finishGroup_thread_regs (x : Ctx) (wr : Nat → LaneW) (uw : List (Nat × R32)) {l : Nat} (h : l < x.grp.threads.length) :
    let th := if x.exec.toNat.testBit l then (wr l).apply (x.grp.thread l) else x.grp.thread l
    ((finishGroup x wr uw).thread l).g = th.g ∧ ((finishGroup x wr uw).thread l).p = th.p := by
  rw [finishGroup_thread x wr uw h]
  by_cases hc : x.cur.toNat.testBit l <;> simp [hc]

theorem rdG_finishGroup_dW (x : Ctx) (v : Nat → R32) {l : Nat} (h : l < x.grp.threads.length) (he : x.exec.toNat.testBit l = true)
    (hd : x.f.d ≠ 255) : rdG ((finishGroup x (fun l => dW x (v l)) []).thread l) x.f.d = v l := by
  obtain ⟨hg, -⟩ := finishGroup_thread_regs x (fun l => dW x (v l)) [] h
  obtain ⟨-, hw, -⟩ := does_dW x (v l) (x.grp.thread l)
  rw [rdG, hg, if_pos he, ← rdG, hw]
  simp [newG, setsD, hd]

theorem finishGroup_fpstat (x : Ctx) (wr : Nat → LaneW) (uw : List (Nat × R32)) : (finishGroup x wr uw).fpstat = x.grp.fpstat := rfl
theorem finishGroup_u (x : Ctx) (wr : Nat → LaneW) : (finishGroup x wr []).u = x.grp.u := rfl

/-- The context in which `getsr` writes: a high half that its register latches is in place (R79, R80). -/
def Ctx.latched (x : Ctx) (timeNs : Nat) : Ctx := { x with grp := latchHigh x.f.b timeNs x.br.cyc x.grp }

/-- The context in which `putsr` completes: FPSTAT holds A of the lowest current lane (R49, R79). -/
def Ctx.withFpstat (x : Ctx) : Ctx := { x with grp := { x.grp with fpstat := (x.a x.low).toNat % 32 } }

theorem latched_fpstat (x : Ctx) (timeNs : Nat) : (x.latched timeNs).grp.fpstat = x.grp.fpstat := by
  unfold Ctx.latched latchHigh; split_ifs <;> rfl

theorem latched_threads (x : Ctx) (timeNs : Nat) : (x.latched timeNs).grp.threads = x.grp.threads := by
  unfold Ctx.latched latchHigh; split_ifs <;> rfl

theorem latched_timeHi {x : Ctx} (h : x.f.b = 0x10) (timeNs : Nat) :
    (x.latched timeNs).grp.timeHi = BitVec.ofNat 32 (timeNs / 2 ^ 32) := by
  simp only [Ctx.latched, latchHigh, h, if_true]

theorem latched_cycHi {x : Ctx} (h : x.f.b = 0x12) (timeNs : Nat) :
    (x.latched timeNs).grp.cycHi = BitVec.ofNat 32 (x.br.cyc / 2 ^ 32) := by
  simp [Ctx.latched, latchHigh, h]

/-- A register that latches a high half does not read it, so the value written is that before the latch. -/
theorem specialReg_latched (s : State) (x : Ctx) (timeNs l : Nat) :
    specialReg s (x.latched timeNs) x.f.b l = specialReg s x x.f.b l := by
  by_cases ht : x.f.b = 0x10
  · simp only [ht, specialReg, Ctx.latched]
  by_cases hc : x.f.b = 0x12
  · simp only [hc, specialReg, Ctx.latched]
  · have hx : x.latched timeNs = x := by simp [Ctx.latched, latchHigh, ht, hc]
    rw [hx]

theorem execGetsr_go {g : GroupRef} {w : IWord} {s : State} {x : Ctx} (h : ReadyNow 0x42 infoGetsr g w s x) (he : x.exec ≠ 0) :
    let y := x.latched (s.tw g.b.t).timeNs
    exec (.getsr g w) s = .next (finish y (fun l => dW y (specialReg s y y.f.b l)) [] y.br.sr s) := by
  show execGetsr g w s = _
  simp only [execGetsr, h.1, if_neg he]
  rfl

theorem execPutsr_go {g : GroupRef} {w : IWord} {s : State} {x : Ctx} (h : ReadyNow 0x43 infoPutsr g w s x)
    (hp : (x.grp.pend.all fun p => decide (p.cls ≠ .f) && decide (p.cls ≠ .s)) = true) :
    exec (.putsr g w) s = .next (finish x.withFpstat (fun _ => {}) [] x.br.sr s) := by
  have hfree : (x.grp.pend.any fun p => decide (p.cls = .f) || decide (p.cls = .s)) = false := by
    simpa [List.any_eq_false] using hp
  show execPutsr g w s = _
  simp only [execPutsr, h.1, hfree]
  rfl

theorem uniShift_eq (right : Bool) (a b : R32) : (if right then a >>> b.toNat else a <<< b.toNat) =
    if 32 ≤ b.toNat then 0 else if right then a >>> b.toNat else a <<< b.toNat := by
  by_cases hb : 32 ≤ b.toNat
  · rw [if_pos hb, BitVec.ushiftRight_eq_zero hb, BitVec.shiftLeft_eq_zero hb, ite_self]
    rfl
  · rw [if_neg hb]

/-- Settles O8: moves write D or its pair, class U instructions one u register, `uni.cmp` one predicate; `getsr` and `putsr` complete
with the latched half or with FPSTAT in place. -/
theorem moveAndUniformResults : Obligations.MoveAndUniformResults := by
  refine ⟨?nop, ?mov, ?mov64, ?getsr, ?putsr, ?uniMov, ?uniAdd, ?uniMul, ?uniTern, ?uniSh, ?uniCmp⟩
  case nop => exact fun g w s x h => issueLanes_wrote (lane := fun _ _ => {}) h fun _ => does_none 0
  case mov => exact writesD_of_issueLanes laneMov (fun _ _ _ => rfl) fun _ _ => rfl
  case mov64 =>
    intro g w s x h
    obtain ⟨w0, hf⟩ := prepare_go_fields h.1
    have hw2 : BitVec.ofNat 64 x.f.w2 = w.w2 := by simp [hf, fieldsOf]
    exact issueLanes_wrote (lane := laneMov64) h fun _ => hw2 ▸ does_pair x _
  case getsr =>
    intro g w s x h he
    obtain ⟨rfl, hb, -⟩ := prepare_go h.1
    set y := x.latched (s.tw x.ref.b.t).timeNs
    have hlen : y.grp.threads.length = x.grp.threads.length := congrArg List.length (latched_threads x _)
    refine ⟨_, finishGroup y (fun l => dW y (specialReg s y y.f.b l)) [], execGetsr_go h he, finish_group? y .., ?_,
      fun ht => latched_timeHi ht _, fun hc => latched_cycHi hc _, latched_fpstat x _, finish_onlyGroup (x := y) hb ..⟩
    intro l hl hx hd
    exact (rdG_finishGroup_dW y _ (hlen ▸ hl) hx hd).trans (specialReg_latched s x _ l)
  case putsr =>
    intro g w s x h hp
    obtain ⟨rfl, hb, -⟩ := prepare_go h.1
    refine ⟨_, finishGroup x.withFpstat (fun _ => {}) [], execPutsr_go h hp, finish_group? x.withFpstat .., finishGroup_fpstat ..,
      finishGroup_u .., finish_onlyGroup (x := x.withFpstat) hb .., fun l hl => ?_⟩
    obtain ⟨hg, hq⟩ := finishGroup_thread_regs x.withFpstat (fun _ => {}) [] (l := l) hl
    rw [hg, hq]
    split_ifs <;> exact ⟨rfl, rfl⟩
  case uniMov => exact writesU_of_issueUni movVal (fun _ _ _ => rfl) fun _ _ => rfl
  case uniAdd => exact writesU_of_issueUni (fun x l => x.a l + x.b l) (fun _ _ _ => rfl) fun _ _ => rfl
  case uniMul => exact writesU_of_issueUni (fun x l => x.a l * x.b l) (fun _ _ _ => rfl) fun _ _ => rfl
  case uniTern =>
    exact writesU_of_issueUni (fun x l => ternWord (bits x.f.mod 7 0) (x.a l) (x.b l) (x.c l)) (fun _ _ _ => rfl) fun _ _ => rfl
  case uniSh =>
    exact writesU_of_issueUni (fun x l => if x.f.mod.testBit 8 then x.a l >>> (x.b l).toNat else x.a l <<< (x.b l).toNat)
      (fun _ _ _ => rfl) fun x l => uniShift_eq (x.f.mod.testBit 8) (x.a l) (x.b l)
  case uniCmp =>
    exact writesP_of_issueLanes (fun x _ => lanePcmpI x x.low) (fun _ _ _ => rfl) (fun _ => rfl) fun _ _ => rfl

end Sys2Proof.Machine
end

section
/-! SUPPORT. What the operations on a controller's record, on a record that awaits the store, on an image bank and on a pending vector
leave; what an update of one tower does to each; and the fields of `MGT_STAT` after a write of one of them. -/

namespace Sys2Proof.Machine

open Sys2Proof

@[simp] theorem modTw_t0_t0 (s : State) (f : Tower → Tower) : (s.modTw .t0 f).t0 = f s.t0 := rfl
@[simp] theorem modTw_t0_t1 (s : State) (f : Tower → Tower) : (s.modTw .t0 f).t1 = s.t1 := rfl
@[simp] theorem modTw_t1_t0 (s : State) (f : Tower → Tower) : (s.modTw .t1 f).t0 = s.t0 := rfl
@[simp] theorem modTw_t1_t1 (s : State) (f : Tower → Tower) : (s.modTw .t1 f).t1 = f s.t1 := rfl

/-- A stored field is a matter of the tower's number and its registers alone. -/
theorem fget_congr {x y : Tower} (hid : x.id = y.id) (hregs : x.regs = y.regs) (d : Fld) (i j : Nat) : x.fget d i j = y.fget d i j := by
  simp only [Tower.fget, Tower.reg, hid, hregs]

@[simp] theorem modMgmt_mgmt (x : Tower) (f : Mgmt → Mgmt) : (x.modMgmt f).sys.mgmt = f x.sys.mgmt := rfl
@[simp] theorem modMgmt_store (x : Tower) (f : Mgmt → Mgmt) : (x.modMgmt f).sys.store = x.sys.store := rfl
@[simp] theorem modMgmt_fuses (x : Tower) (f : Mgmt → Mgmt) : (x.modMgmt f).sys.fuses = x.sys.fuses := rfl
@[simp] theorem modMgmt_regs (x : Tower) (f : Mgmt → Mgmt) : (x.modMgmt f).regs = x.regs := rfl
@[simp] theorem modMgmt_bricks (x : Tower) (f : Mgmt → Mgmt) : (x.modMgmt f).bricks = x.bricks := rfl
@[simp] theorem modMgmt_mem (x : Tower) (f : Mgmt → Mgmt) : (x.modMgmt f).mem = x.mem := rfl
@[simp] theorem fget_modMgmt (x : Tower) (f : Mgmt → Mgmt) (d : Fld) (i j : Nat) : (x.modMgmt f).fget d i j = x.fget d i j :=
  fget_congr rfl rfl d i j

@[simp] theorem markDue_bricks (x : Tower) (typ : Nat) : (x.markDue typ).bricks = x.bricks := rfl
@[simp] theorem markDue_mem (x : Tower) (typ : Nat) : (x.markDue typ).mem = x.mem := rfl
@[simp] theorem fget_markDue (x : Tower) (typ : Nat) (d : Fld) (i j : Nat) : (x.markDue typ).fget d i j = x.fget d i j :=
  fget_congr rfl rfl d i j

@[simp] theorem markDue_mgmt (x : Tower) (typ : Nat) : (x.markDue typ).sys.mgmt = x.sys.mgmt := by
  simp only [Tower.markDue, Tower.modSys_sys]; split <;> rfl

@[simp] theorem markDue_fuses (x : Tower) (typ : Nat) : (x.markDue typ).sys.fuses = x.sys.fuses := by
  simp only [Tower.markDue, Tower.modSys_sys]; split <;> rfl

@[simp] theorem mem_due_markDue (x : Tower) (typ : Nat) : typ ∈ (x.markDue typ).sys.store.due := by
  simp only [Tower.markDue, Tower.modSys_sys]
  split
  · exact List.contains_iff_mem.1 ‹_›
  · exact List.mem_append_right _ (List.mem_singleton_self typ)

@[simp] theorem raise_sys (x : Tower) (n : Nat) : (x.raise n).sys = x.sys := by
  unfold Tower.raise; split <;> rfl

@[simp] theorem hostFacing_raise (x : Tower) (n : Nat) : (x.raise n).hostFacing = x.hostFacing := by
  unfold Tower.raise; split <;> rfl

@[simp] theorem mem_irq_raise (x : Tower) (n : Nat) : n ∈ (x.raise n).irq := by
  unfold Tower.raise
  split
  · exact List.contains_iff_mem.1 ‹_›
  · exact List.mem_append_right _ (List.mem_singleton_self n)

@[simp] theorem setBank_mgmt (x : Tower) (bank : Nat) (i : Option (Nat × Nat)) : (x.setBank bank i).sys.mgmt = x.sys.mgmt := by
  simp only [Tower.setBank, Tower.modStore, Tower.modSys_sys]

@[simp] theorem fget_setBank (x : Tower) (bank : Nat) (img : Option (Nat × Nat)) (d : Fld) (i j : Nat) :
    (x.setBank bank img).fget d i j = x.fget d i j :=
  fget_congr rfl rfl d i j

@[simp] theorem image_setBank_same (x : Tower) (bank : Nat) (i : Option (Nat × Nat)) :
    (x.setBank bank i).sys.store.image bank = i := by
  by_cases hb : bank = 0 <;> simp [Tower.setBank, Tower.modStore, Store.image, hb]

/-- A write of the bank beside bank `a`, of the two that there are, leaves `a` (R652). -/
theorem image_setBank_beside (x : Tower) {a : Nat} (i : Option (Nat × Nat)) (ha : a ≤ 1) :
    (x.setBank (1 - a) i).sys.store.image a = x.sys.store.image a := by
  obtain rfl | rfl : a = 0 ∨ a = 1 := by omega
  · simp [Tower.setBank, Tower.modStore, Store.image]
  · simp [Tower.setBank, Tower.modStore, Store.image]

@[simp] theorem activeBank_fset (x : Tower) (v : Nat) :
    (x.fset Fld.mgtStat_ACTIVE_BANK v).fget Fld.mgtStat_ACTIVE_BANK = v % 2 :=
  fget_fset_same x _ v 0 0 (by decide) (by decide)

@[simp] theorem trial_fset (x : Tower) (v : Nat) : (x.fset Fld.mgtStat_TRIAL v).fget Fld.mgtStat_TRIAL = v % 2 :=
  fget_fset_same x _ v 0 0 (by decide) (by decide)

@[simp] theorem activeBank_fset_trial (x : Tower) (v : Nat) :
    (x.fset Fld.mgtStat_TRIAL v).fget Fld.mgtStat_ACTIVE_BANK = x.fget Fld.mgtStat_ACTIVE_BANK :=
  fget_fset_fld x _ _ v 0 0 rfl (by decide) (by decide) (by decide) (by decide)

@[simp] theorem hostFacing_fset (x : Tower) (v : Nat) : (x.fset Fld.mgtStat_HOST_FACING v).hostFacing = decide (v % 2 = 1) :=
  congrArg (fun n => decide (n = 1)) (fget_fset_same x Fld.mgtStat_HOST_FACING v 0 0 (by decide) (by decide))

end Sys2Proof.Machine
end

section
/-! SUPPORT. MCTP packets (R646 to R649): where a packet is handled, and what handling it does, in its three parts: the endpoint identifier, the
configuration that it carries, the answer. The header fields are log entry 39. -/

namespace Sys2Proof.Machine

open Sys2Proof

theorem secured_iff (m : Mgmt) (tr : Transport) : m.secured tr = true ↔ tr = .i3c ∨ tr ∈ m.sessions := by
  simp [Mgmt.secured]

/-- A packet is of a type that a controller accepts (R646), or a control message while the ROM alone answers (R615). -/
def mctpAccepted (up : Bool) (pkt : Nat) : Bool :=
  (([0, 1, 5, 6, 0x7E] : List Nat).contains (mctpType pkt) &&
    (decide (mctpType pkt ≠ 0x7E) || decide (numAt pkt 5 1 * 256 + numAt pkt 6 1 = 0x1D5A))) && (up || decide (mctpType pkt = 0))

/-- Set Endpoint ID, where the packet is that request. -/
def mctpSetEid (t : TowerId) (pkt : Nat) (s : State) : State :=
  if mctpType pkt = 0 ∧ mctpOwner pkt ∧ numAt pkt 6 1 = 1 ∧ numAt pkt 7 1 % 4 ≤ 1 then
    s.modTw t fun x => x.modMgmt fun m => { m with eid := numAt pkt 8 1 }
  else s

/-- A configuration is taken from a vendor-defined message over I3C, or from a secured message where the transport is `secured` (R649, R657). -/
def mctpSetCfg (t : TowerId) (tr : Transport) (secured : Bool) (pkt : Nat) (cfg : Option TowerCfg) (s : State) : State :=
  match cfg with
  | some c =>
    if (mctpType pkt = 0x7E ∧ tr = .i3c) ∨ (mctpType pkt = 6 ∧ secured) then
      s.modTw t fun x => (x.modMgmt fun m => { m with newCfg := some c }).markDue 6
    else s
  | none => s

/-- The answer to a request. -/
def mctpAnswer (t : TowerId) (tr : Transport) (pkt : Nat) (s : State) : State :=
  if mctpOwner pkt then s.send (.mctp t tr (mctpType pkt) (Config.mctpReply (mctpType pkt) pkt)) else s

variable {t : TowerId} {tr : Transport} {pkt : Nat} {cfg : Option TowerCfg} {s : State}

theorem mctpHandle_of_not_accepted (h : mctpAccepted (s.tw t).sys.mgmt.up pkt = false) : mctpHandle t tr pkt cfg s = s := by
  simp only [mctpAccepted, Bool.and_eq_false_iff] at h
  exact if_pos (by simpa only [Bool.or_eq_true, Bool.not_eq_true', Bool.and_eq_false_iff] using h)

theorem mctpHandle_of_accepted (h : mctpAccepted (s.tw t).sys.mgmt.up pkt = true) : mctpHandle t tr pkt cfg s =
    mctpAnswer t tr pkt (mctpSetCfg t tr ((s.tw t).sys.mgmt.secured tr) pkt cfg (mctpSetEid t pkt s)) := by
  rw [mctpAccepted, Bool.and_eq_true] at h
  exact if_neg (by simp only [h.1, h.2, Bool.not_true, Bool.or_self, Bool.false_eq_true, not_false_eq_true])

@[simp] theorem mctpSetEid_out : (mctpSetEid t pkt s).out = s.out := by unfold mctpSetEid; split <;> simp

@[simp] theorem mctpSetCfg_out (b : Bool) : (mctpSetCfg t tr b pkt cfg s).out = s.out := by
  unfold mctpSetCfg
  split
  · split <;> simp
  · rfl

theorem mctpSetCfg_eid (b : Bool) : ((mctpSetCfg t tr b pkt cfg s).tw t).sys.mgmt.eid = (s.tw t).sys.mgmt.eid := by
  unfold mctpSetCfg
  split
  · split <;> simp
  · rfl

@[simp] theorem tw_mctpAnswer (u : TowerId) : (mctpAnswer t tr pkt s).tw u = s.tw u := by unfold mctpAnswer; split <;> simp

theorem mctpAnswer_out : (mctpAnswer t tr pkt s).out =
    s.out ++ if mctpOwner pkt then [.mctp t tr (mctpType pkt) (Config.mctpReply (mctpType pkt) pkt)] else [] := by
  unfold mctpAnswer; split <;> simp

/-- A type that no controller accepts, or another vendor's message, has no effect (R646). -/
theorem mctpHandle_unknown_type (h : mctpType pkt ∉ [0, 1, 5, 6, 0x7E]) : mctpHandle t tr pkt cfg s = s :=
  mctpHandle_of_not_accepted (by simp [mctpAccepted, h])

theorem mctpHandle_other_vendor (h : mctpType pkt = 0x7E) (hv : numAt pkt 5 1 * 256 + numAt pkt 6 1 ≠ 0x1D5A) :
    mctpHandle t tr pkt cfg s = s :=
  mctpHandle_of_not_accepted (by simp [mctpAccepted, h, hv])

theorem mctpHandle_setEid (h : mctpType pkt = 0) (ho : mctpOwner pkt = true) (hc : numAt pkt 6 1 = 1) (hop : numAt pkt 7 1 % 4 ≤ 1) :
    ((mctpHandle t tr pkt cfg s).tw t).sys.mgmt.eid = numAt pkt 8 1 := by
  rw [mctpHandle_of_accepted (by simp [mctpAccepted, h]), tw_mctpAnswer, mctpSetCfg_eid]
  simp [mctpSetEid, h, ho, hc, hop]

theorem mctpHandle_answers (hup : (s.tw t).sys.mgmt.up = true) (h : mctpType pkt ∈ [0, 1, 5, 6]) (ho : mctpOwner pkt = true) :
    (mctpHandle t tr pkt cfg s).out = s.out ++ [.mctp t tr (mctpType pkt) (Config.mctpReply (mctpType pkt) pkt)] := by
  have hacc : mctpAccepted (s.tw t).sys.mgmt.up pkt = true := by
    simp only [List.mem_cons, List.not_mem_nil, or_false] at h
    obtain h | h | h | h := h <;> simp [mctpAccepted, h, hup]
  rw [mctpHandle_of_accepted hacc, mctpAnswer_out, if_pos ho, mctpSetCfg_out, mctpSetEid_out]

theorem mctpHandle_response_silent (ho : mctpOwner pkt = false) : (mctpHandle t tr pkt cfg s).out = s.out := by
  cases hacc : mctpAccepted (s.tw t).sys.mgmt.up pkt
  · rw [mctpHandle_of_not_accepted hacc]
  · rw [mctpHandle_of_accepted hacc, mctpAnswer_out]
    simp [ho]

theorem mctpHandle_secured_cfg (c : TowerCfg) (hup : (s.tw t).sys.mgmt.up = true) (h : mctpType pkt = 6)
    (hsec : tr = .i3c ∨ tr ∈ (s.tw t).sys.mgmt.sessions) :
    ((mctpHandle t tr pkt (some c) s).tw t).sys.mgmt.newCfg = some c ∧
      6 ∈ ((mctpHandle t tr pkt (some c) s).tw t).sys.store.due := by
  rw [mctpHandle_of_accepted (by simp [mctpAccepted, h, hup]), tw_mctpAnswer]
  simp [mctpSetCfg, h, (secured_iff _ _).2 hsec]

/-- A packet reaches a controller that has power, over PCIe VDM only the host-facing one (R645, R646). -/
def Tower.mctpOpen (x : Tower) (tr : Transport) : Prop := x.mgmtAlive = true ∧ (tr = .vdm → x.hostFacing = true)

theorem mctpTake_of_open (h : (s.tw t).mctpOpen tr) : mctpTake t tr pkt cfg s =
    if mctpDst pkt = 0 ∨ mctpDst pkt = (s.tw t).sys.mgmt.eid then mctpHandle t tr pkt cfg s
    else if mctpDst pkt = (s.tw t.other).sys.mgmt.eid ∧ (s.tw t).hostFacing ∧ (s.tw t).serving ∧ (s.tw t.other).serving then
      mctpHandle t.other tr pkt cfg s
    else s := by
  obtain ⟨halive, hface⟩ := h
  have hvdm : (decide (tr = .vdm) && !(s.tw t).hostFacing) = false := by
    simpa only [Bool.and_eq_false_iff, decide_eq_false_iff_not, Bool.not_eq_false', ← Decidable.imp_iff_not_or] using hface
  exact if_neg (by simp only [halive, hvdm, Bool.not_true, Bool.or_self, Bool.false_eq_true, not_false_eq_true])

theorem execMctpPacket_of_wf {len : Nat} (hwf : bytesWf len pkt = true) (hlen : 5 ≤ len) :
    exec (.mctpPacket t tr len pkt cfg) s = .next (mctpTake t tr pkt cfg s) := by
  show execMctpPacket t tr len pkt cfg s = _
  simp [execMctpPacket, hwf, Nat.not_lt.2 hlen]

/-- A link message with a packet of a bad length, or with a reserved byte set (R647). -/
def FMsg.badPacket (m : FMsg) : Prop := m.field 16 2 < 5 ∨ 260 < m.field 16 2 ∨ m.field 18 14 ≠ 0

theorem mctpLink_of_bad {typ : Nat} {m : FMsg} {x : Tower} (h : (s.tw t).takeInbox typ = some (m, x)) (hb : m.badPacket) :
    mctpLink t typ cfg s = s.setTw t (x.fadd Fld.mgtStat_BAD_PKT 1) := by
  rw [mctpLink, h]
  exact if_pos hb

theorem mctpLink_of_good {typ : Nat} {m : FMsg} {x : Tower} (h : (s.tw t).takeInbox typ = some (m, x)) (hlo : 5 ≤ m.field 16 2)
    (hhi : m.field 16 2 ≤ 260) (hres : m.field 18 14 = 0) :
    mctpLink t typ cfg s = mctpTake t .link (m.field 32 (m.field 16 2)) cfg (s.setTw t x) := by
  rw [mctpLink, h]
  exact if_neg (by omega)

end Sys2Proof.Machine
end

section
/-! SUPPORT. The commands of the management controllers (R644 to R658), each by what it does where it takes effect; and the statement about
them. That NOT_READY is the code 4 of PLDM is log entry 39, and IDE management in a session of the host port's transport log entry 65: both
are the model's choice. -/

namespace Sys2Proof.Machine

open Sys2Proof

section

variable {h : TowerId} {tr : Transport} {s : State}

theorem heartbeat_noted (hup : (s.tw h).sys.mgmt.up = true) (hpeer : (s.tw h.other).sys.mgmt.up = true) :
    exec (.heartbeat h) s = .next (s.modTw h.other fun x => x.modMgmt fun m => { m with hbAt := some x.timeNs }) := by
  show execHeartbeat h s = _
  simp [execHeartbeat, hup, hpeer]

theorem takeover_claimed (hup : s.t1.sys.mgmt.up = true) (hface : s.t1.hostFacing = false)
    (hgone : s.t0.mgmtAlive = false ∨ s.t1.peerOk = false ∧ s.t1.sys.mgmt.quiet ≤ s.t1.timeNs) :
    exec .heartbeatLossTakeover s = .next (((s.modTw .t0 fun x => x.fset Fld.mgtStat_HOST_FACING 0).modTw .t1 fun x =>
      (x.fset Fld.mgtStat_HOST_FACING 1).raise 15).send (.mctp .t1 .vdm 0 (Config.mctpReply 0 0x0D))) := by
  have hg : (!s.t0.mgmtAlive || (!s.t1.peerOk && decide (s.t1.sys.mgmt.quiet ≤ s.t1.timeNs))) = true := by simpa using hgone
  show execHeartbeatLossTakeover s = _
  simp [execHeartbeatLossTakeover, hup, hface, hg]

/-- A transfer into the inactive bank: the image, or none while it is being written (R653). -/
def Tower.updated (x : Tower) (i : Option (Nat × Nat)) : Tower :=
  (x.setBank (1 - x.fget Fld.mgtStat_ACTIVE_BANK) i).modMgmt fun m => { m with updating := i.isNone }

theorem firmwareUpdate_written {i : Option (Nat × Nat)} (hwf : ∀ m, i = some m → bytesWf m.1 m.2 = true)
    (hup : (s.tw h).sys.mgmt.up = true) (hsec : tr = .i3c ∨ tr ∈ (s.tw h).sys.mgmt.sessions) :
    exec (.pldmFirmwareUpdate h tr i) s = .next ((s.setTw h ((s.tw h).updated i)).send (.mctp h tr (plainType tr 1)
      (if i.isNone || ((s.tw h).updated i).bankValid (1 - (s.tw h).fget Fld.mgtStat_ACTIVE_BANK) then 0 else 1))) := by
  have hi : (i.any fun m => !bytesWf m.1 m.2) = false := by simpa [Option.any_eq_false] using hwf
  show execPldmFirmwareUpdate h tr i s = _
  simp [execPldmFirmwareUpdate, hi, hup, (secured_iff _ _).2 hsec, Tower.updated]

theorem firmware_unsecured_ignored {i : Option (Nat × Nat)} (hi3c : tr ≠ .i3c) (hsess : tr ∉ (s.tw h).sys.mgmt.sessions)
    (hwf : ∀ m, i = some m → bytesWf m.1 m.2 = true) :
    exec (.pldmFirmwareUpdate h tr i) s = .next s ∧ exec (.pldmActivateFirmware h tr) s = .next s := by
  have hi : (i.any fun m => !bytesWf m.1 m.2) = false := by simpa [Option.any_eq_false] using hwf
  have hsec : (s.tw h).sys.mgmt.secured tr = false := by simp [Mgmt.secured, hi3c, hsess]
  constructor
  · show execPldmFirmwareUpdate h tr i s = _
    simp [execPldmFirmwareUpdate, hi, hsec]
  · show execPldmActivateFirmware h tr s = _
    simp [execPldmActivateFirmware, hsec]

theorem activation_not_ready (hup : (s.tw h).sys.mgmt.up = true) (hsec : tr = .i3c ∨ tr ∈ (s.tw h).sys.mgmt.sessions)
    (hbusy : (s.tw h).sys.mgmt.updating = true ∨ (s.tw h).fget Fld.mgtStat_TRIAL = 1) :
    exec (.pldmActivateFirmware h tr) s = .next (s.send (.mctp h tr (plainType tr 1) 4)) := by
  show execPldmActivateFirmware h tr s = _
  simp [execPldmActivateFirmware, hup, (secured_iff _ _).2 hsec, hbusy]

/-- The tower whose inactive bank the ROM is to boot on trial (R652, R653). -/
def Tower.onTrial (x : Tower) : Tower :=
  let y := ((x.fset Fld.mgtStat_ACTIVE_BANK (1 - x.fget Fld.mgtStat_ACTIVE_BANK)).fset Fld.mgtStat_TRIAL 1).markDue 8
  y.modMgmt fun m => { m with up := false, sessions := [], trialAt := y.timeNs, restarts := 0 }

theorem activation_restarts (hup : (s.tw h).sys.mgmt.up = true) (hsec : tr = .i3c ∨ tr ∈ (s.tw h).sys.mgmt.sessions)
    (hupd : (s.tw h).sys.mgmt.updating = false) (htrial : (s.tw h).fget Fld.mgtStat_TRIAL ≠ 1) :
    exec (.pldmActivateFirmware h tr) s = .next (((s.setTw h (s.tw h).onTrial).modTw h.other fun y =>
      y.modMgmt fun m => { m with quiet := y.timeNs + 2 * 10 ^ 9 }).send (.mctp h tr (plainType tr 1) 0)) := by
  show execPldmActivateFirmware h tr s = _
  simp [execPldmActivateFirmware, hup, (secured_iff _ _).2 hsec, hupd, htrial, Tower.onTrial]

/-- The anti-rollback counter that the end of a trial leaves (R654). -/
def Tower.arbAfterTrial (x : Tower) : Nat :=
  let a := x.fget Fld.mgtStat_ACTIVE_BANK
  max x.sys.fuses.arb (if x.bankValid (1 - a) then min (x.svn a) (x.svn (1 - a)) else x.svn a)

theorem le_arbAfterTrial (x : Tower) : x.sys.fuses.arb ≤ x.arbAfterTrial := by simp [Tower.arbAfterTrial]

/-- A trial ends without a fallback and leaves the counter at `n` (R654). -/
def Tower.endTrial (x : Tower) (n : Nat) : Tower :=
  let y := (x.modSys fun y => { y with fuses := { y.fuses with arb := n } }).modMgmt fun m => { m with restarts := 0 }
  ((y.fset Fld.mgtStat_ARB_COUNT n).fset Fld.mgtStat_TRIAL 0).markDue 8

theorem endTrial_arb (x : Tower) (n : Nat) : (x.endTrial n).sys.fuses.arb = n := by simp [Tower.endTrial]
theorem endTrial_trial (x : Tower) (n : Nat) : (x.endTrial n).fget Fld.mgtStat_TRIAL = 0 := by simp [Tower.endTrial]
theorem endTrial_due (x : Tower) (n : Nat) : 8 ∈ (x.endTrial n).sys.store.due := by simp [Tower.endTrial]

theorem trialEnd_ends (hup : (s.tw h).sys.mgmt.up = true) (htrial : (s.tw h).fget Fld.mgtStat_TRIAL = 1) :
    exec (.trialEnd h) s = .next (s.modTw h fun x => x.endTrial x.arbAfterTrial) := by
  show execTrialEnd h s = _
  simp only [execTrialEnd, hup, htrial]
  rfl

theorem spdm_not_refused (hup : (s.tw h).sys.mgmt.up = true) (hface : tr = .vdm → (s.tw h).hostFacing = true) :
    (!(s.tw h).sys.mgmt.up || (decide (tr = .vdm) && !(s.tw h).hostFacing)) = false := by
  simpa [hup, ← Decidable.imp_iff_not_or] using hface

/-- The transports with a session once `tr` has opened its own. -/
theorem mem_append_unless_mem (l : List Transport) (u tr : Transport) :
    u ∈ (if tr ∈ l then l else l ++ [tr]) ↔ u ∈ l ∨ u = tr := by
  by_cases htr : tr ∈ l
  · rw [if_pos htr]
    exact ⟨.inl, fun hu => hu.elim id fun hu => hu ▸ htr⟩
  · simp [htr]

theorem spdm_sessionOpen (hup : (s.tw h).sys.mgmt.up = true) (hface : tr = .vdm → (s.tw h).hostFacing = true) :
    exec (.spdmRequest h tr .sessionOpen) s = .next ((s.modTw h fun x => x.modMgmt fun m => { m with
      sessions := if m.sessions.contains tr then m.sessions else m.sessions ++ [tr] }).send (.mctp h tr 5 (Config.mctpReply 5 0))) := by
  show execSpdmRequest h tr .sessionOpen s = _
  rw [execSpdmRequest, spdm_not_refused hup hface]
  rfl

theorem spdm_sessionEnd (hup : (s.tw h).sys.mgmt.up = true) (hface : tr = .vdm → (s.tw h).hostFacing = true) :
    ∃ o, exec (.spdmRequest h tr .sessionEnd) s = .next ((s.modTw h fun x => x.modMgmt fun m => { m with
      sessions := m.sessions.filter fun u => decide (u ≠ tr) }).send o) := by
  show ∃ o, execSpdmRequest h tr .sessionEnd s = _
  rw [execSpdmRequest, spdm_not_refused hup hface]
  exact ⟨_, rfl⟩

theorem spdm_measurement (hup : (s.tw h).sys.mgmt.up = true) (hface : tr = .vdm → (s.tw h).hostFacing = true) (i : BitVec 8) :
    exec (.spdmRequest h tr (.measurement i)) s =
      .next (s.send (.mctp h tr (if tr ∈ (s.tw h).sys.mgmt.sessions then 6 else 5) ((s.tw h).measure i.toNat))) := by
  show execSpdmRequest h tr (.measurement i) s = _
  rw [execSpdmRequest, spdm_not_refused hup hface]
  simp

/-- What an IDE request does to the host port; no other request does anything to it. -/
def ideEffect : SpdmReq → Option (HostPort → HostPort)
  | .ideKeys k => some fun p => { p with ideKeys := some k }
  | .ideEnable on => some fun p => { p with ideOn := on && p.ideKeys.isSome }
  | _ => none

theorem spdm_ide {q : SpdmReq} {f : HostPort → HostPort} (hq : ideEffect q = some f) (hup : (s.tw h).sys.mgmt.up = true)
    (hface : tr = .vdm → (s.tw h).hostFacing = true) : exec (.spdmRequest h tr q) s = .next (ideManage h tr f s) := by
  show execSpdmRequest h tr q s = _
  rw [execSpdmRequest, spdm_not_refused hup hface]
  cases q <;> cases hq <;> rfl

theorem ideManage_outside_session {f : HostPort → HostPort}
    (hno : tr ≠ .vdm ∨ s.host.up = false ∨ tr ∉ (s.tw h).sys.mgmt.sessions) : ideManage h tr f s = s := by
  refine if_neg ?_
  simp only [Bool.and_eq_true, decide_eq_true_eq, List.contains_iff_mem]
  rintro ⟨⟨hup, htr⟩, hsess⟩
  obtain hvdm | hdown | hout := hno
  · exact hvdm htr
  · exact absurd (hup.symm.trans hdown) (by decide)
  · exact hout hsess

theorem ideManage_in_session {f : HostPort → HostPort} (hup : s.host.up = true) (hsess : .vdm ∈ (s.tw h).sys.mgmt.sessions) :
    ideManage h .vdm f s = { s with host := f s.host }.send (.mctp h .vdm 6 (Config.mctpReply 5 0)) :=
  if_pos (by simp [hup, hsess])

theorem protection_written {who : RegBy} {off : Nat} {v : Word} {r : Reg} {i j : Nat} (hoff : regAt off = some (r, i, j)) :
    exec (.protectionSettingWrite h who off v) s = .next (if who = .mgmt ∧ r.isProtection = true then
      s.modTw h fun x => x.writeRw r i j v.toNat (2 ^ 64 - 1) else s) := by
  show execProtectionSettingWrite h who off v s = _
  rw [execProtectionSettingWrite, hoff, apply_ite Host.Outcome.next]

end

/-- Settles O52: each clause is what its command's lemma above says, read through the rules of the state. -/
theorem managementResults : Obligations.ManagementResults := by
  refine ⟨?heartbeat, ?takeover, ?packet, ?handle, ?request, ?response, ?update, ?unsecured, ?activate, ?trial, ?session, ?ide, ?protection⟩
  case heartbeat => exact fun h s hup hpeer => ⟨_, heartbeat_noted hup hpeer, by simp, by simp, by simp⟩
  case takeover =>
    intro s hup hface hgone
    refine ⟨_, _, takeover_claimed hup hface hgone, ?_, ?_, ?_, send_out _ _, ⟨_, rfl⟩, ?_, ?_⟩ <;> simp
  case packet =>
    intro h tr len pkt cfg s hwf hlen halive hface
    refine ⟨_, execMctpPacket_of_wf hwf hlen, ?_⟩
    rw [mctpTake_of_open ⟨halive, hface⟩]
    refine ⟨fun hown => if_pos hown, fun h0 hne hpeer hf hs hs' => ?_, fun h0 hne hnp => ?_⟩
    · rw [if_neg (not_or_intro h0 hne), if_pos ⟨hpeer, hf, hs, hs'⟩]
    · rw [if_neg (not_or_intro h0 hne), if_neg fun hp => hnp hp.1]
  case handle =>
    intro h tr pkt cfg s
    refine ⟨mctpHandle_unknown_type, mctpHandle_other_vendor, mctpHandle_setEid, mctpHandle_answers, mctpHandle_response_silent, ?_⟩
    rintro c rfl
    exact mctpHandle_secured_cfg c
  case request => exact fun h cfg s m x hm => ⟨_, rfl, mctpLink_of_bad hm, mctpLink_of_good hm⟩
  case response => exact fun h s m x hm => ⟨_, rfl, mctpLink_of_bad hm, mctpLink_of_good hm⟩
  case update =>
    intro h tr i s hwf hup hsec
    refine ⟨_, firmwareUpdate_written hwf hup hsec, ?_, fun ha => ?_, ?_, ?_, ?_, ?_⟩
    · simp [Tower.updated]
    · simp [Tower.updated, image_setBank_beside _ _ ha]
    · simp [Tower.updated]
    · simp [Tower.updated]
    · simp [Tower.updated, hup]
    · simp [plainType]
  case unsecured => exact fun h tr i s hi3c hsess hwf => firmware_unsecured_ignored hi3c hsess hwf
  case activate =>
    intro h tr s hup hsec
    by_cases hbusy : (s.tw h).sys.mgmt.updating = true ∨ (s.tw h).fget Fld.mgtStat_TRIAL = 1
    · refine ⟨_, activation_not_ready hup hsec hbusy, fun _ => rfl, fun hupd htrial => ?_⟩
      exact absurd hbusy (by simp [hupd, htrial])
    · obtain ⟨hupd, htrial⟩ := not_or.1 hbusy
      refine ⟨_, activation_restarts hup hsec (Bool.eq_false_iff.2 hupd) htrial, fun hb => absurd hb hbusy, fun _ _ => ?_⟩
      simp [Tower.onTrial]
  case trial =>
    intro h s hup htrial
    refine ⟨_, trialEnd_ends hup htrial, ?_⟩
    rw [tw_modTw_same, endTrial_arb]
    exact ⟨endTrial_trial _ _, le_arbAfterTrial _, rfl, endTrial_due _ _⟩
  case session =>
    intro h tr s hup hface
    obtain ⟨o, hend⟩ := spdm_sessionEnd hup hface
    refine ⟨⟨_, spdm_sessionOpen hup hface, ?_, ?_⟩, ⟨_, hend, ?_, ?_⟩, spdm_measurement hup hface, ?_⟩
    · simp [mem_append_unless_mem]
    · simp +contextual [mem_append_unless_mem]
    · simp
    · simp +contextual
    · rintro q hno (⟨k, rfl⟩ | ⟨on, rfl⟩)
      · rw [spdm_ide rfl hup hface, ideManage_outside_session hno]
      · rw [spdm_ide rfl hup hface, ideManage_outside_session hno]
  case ide =>
    intro h k s hup hface hlink hsess
    refine ⟨⟨_, (spdm_ide rfl hup fun _ => hface).trans (congrArg _ (ideManage_in_session hlink hsess)), rfl, rfl, rfl⟩, fun on => ?_⟩
    exact ⟨_, (spdm_ide rfl hup fun _ => hface).trans (congrArg _ (ideManage_in_session hlink hsess)), rfl, rfl, rfl⟩
  case protection =>
    intro h who off v s r i j hoff
    refine ⟨_, protection_written hoff, fun hwho hprot => if_pos ⟨hwho, hprot⟩, fun hno => if_neg ?_⟩
    rintro ⟨hwho, hprot⟩
    exact hno.elim (· hwho) fun hnp => by simp [hnp] at hprot

end Sys2Proof.Machine
end
